-- ==== Sys2Proof/Word.lean ====
section
/-! DEFINITION. The names the spec gives things (spec/00_scope.md, "The flight"), and the small containers
that hold one value for each of them. Nothing here is behaviour. -/

namespace Sys2Proof

/-- One byte on a serial port (R176). -/
abbrev Byte := BitVec 8

/-- The TAG byte of a message, copied into the reply (R178). -/
abbrev Tag := Byte

/-- The five bodies of water, from upstream (spec/00_scope.md, "Reaches"). -/
inductive Reach where
  | head | c1 | c2 | c3 | tail
deriving DecidableEq, Repr

/-- The four gates; gate k separates reach k (above) from reach k+1 (below). -/
inductive Gate where
  | g0 | g1 | g2 | g3
deriving DecidableEq, Repr

/-- Each gate carries one sluice, named after it, so a sluice is named by its gate's number. -/
abbrev Sluice := Gate

/-- The three chambers. -/
inductive Chamber where
  | c1 | c2 | c3
deriving DecidableEq, Repr

/-- UP is TAIL to HEAD, DOWN is HEAD to TAIL. -/
inductive Direction where
  | up | down
deriving DecidableEq, Repr

/-- The two faces of a gate: upper is seen from the reach above, lower from the reach below. -/
inductive Side where
  | upper | lower
deriving DecidableEq, Repr

/-- A signal face (R39). -/
structure Face where
  gate : Gate
  side : Side
deriving DecidableEq, Repr

inductive Colour where
  | red | green
deriving DecidableEq, Repr

/-- The serial ports: A the host, B the authority's data line, C the ticket terminal (chapter 11). -/
inductive Port where
  | a | b | c
deriving DecidableEq, Repr

/-- The two limit inputs of a gate (R26). -/
inductive Limit where
  | closedLimit | openLimit
deriving DecidableEq, Repr

/-- The five modes (spec/00_scope.md, "Flight modes"). -/
inductive Mode where
  | startup | survey | rest | working | halted
deriving DecidableEq, Repr

/-- The reading classes of a reach (section 1.1). -/
inductive ReadingClass where
  | settling | valid | limitedLow | limitedHigh | stale | broken
deriving DecidableEq, Repr

/-- The kinds of vessel, coded 0 to 7 in this order (R46). -/
inductive VesselClass where
  | pleasure | passenger | dryCargo | tanker | pushTow | workCraft | authority | rescue
deriving DecidableEq, Repr

/-- How a toll is settled, coded 0 to 2 in this order (R46, R185). -/
inductive AccountKind where
  | cash | account | pass
deriving DecidableEq, Repr

/-- The clearance classes A, B and C, coded 0 to 2 (R65, R185). -/
inductive ClearanceClass where
  | a | b | c
deriving DecidableEq, Repr

/-- The actions of a turn table entry (R65). -/
inductive Action where
  | hold | up | down | reject
deriving DecidableEq, Repr

/-- The responses of the response table (R115). -/
inductive Response where
  | halt | continue_
deriving DecidableEq, Repr

/-- The two kinds of RESTART (R172). -/
inductive RestartKind where
  | keep | clear
deriving DecidableEq, Repr

/-- One value per reach. -/
structure Five (α : Type) where
  head : α
  c1 : α
  c2 : α
  c3 : α
  tail : α
deriving DecidableEq, Repr

/-- One value per gate (or per sluice). -/
structure Four (α : Type) where
  g0 : α
  g1 : α
  g2 : α
  g3 : α
deriving DecidableEq, Repr

/-- One value per side of a gate. -/
structure Duo (α : Type) where
  upper : α
  lower : α
deriving DecidableEq, Repr

/-- One value per lamp of a face. -/
structure Pair (α : Type) where
  red : α
  green : α
deriving DecidableEq, Repr

/-- One value per port (or per outlet, each fixed to its port: section 9.1). -/
structure Three (α : Type) where
  a : α
  b : α
  c : α
deriving DecidableEq, Repr

/-- One value per lamp of the flight, sixteen in all. -/
abbrev LampMap (α : Type) := Four (Duo (Pair α))

/-- One value per face of the flight, eight in all. -/
abbrev FaceMap (α : Type) := Four (Duo α)

def Five.get {α : Type} (v : Five α) : Reach → α
  | .head => v.head
  | .c1 => v.c1
  | .c2 => v.c2
  | .c3 => v.c3
  | .tail => v.tail

def Five.set {α : Type} (v : Five α) (r : Reach) (x : α) : Five α :=
  match r with
  | .head => { v with head := x }
  | .c1 => { v with c1 := x }
  | .c2 => { v with c2 := x }
  | .c3 => { v with c3 := x }
  | .tail => { v with tail := x }

def Five.map {α β : Type} (f : α → β) (v : Five α) : Five β :=
  ⟨f v.head, f v.c1, f v.c2, f v.c3, f v.tail⟩

def Five.all {α : Type} (v : Five α) (f : α → Bool) : Bool :=
  f v.head && f v.c1 && f v.c2 && f v.c3 && f v.tail

def Four.get {α : Type} (v : Four α) : Gate → α
  | .g0 => v.g0
  | .g1 => v.g1
  | .g2 => v.g2
  | .g3 => v.g3

def Four.set {α : Type} (v : Four α) (g : Gate) (x : α) : Four α :=
  match g with
  | .g0 => { v with g0 := x }
  | .g1 => { v with g1 := x }
  | .g2 => { v with g2 := x }
  | .g3 => { v with g3 := x }

def Four.map {α β : Type} (f : α → β) (v : Four α) : Four β :=
  ⟨f v.g0, f v.g1, f v.g2, f v.g3⟩

def Four.all {α : Type} (v : Four α) (f : α → Bool) : Bool :=
  f v.g0 && f v.g1 && f v.g2 && f v.g3

def Duo.get {α : Type} (v : Duo α) : Side → α
  | .upper => v.upper
  | .lower => v.lower

def Duo.set {α : Type} (v : Duo α) (s : Side) (x : α) : Duo α :=
  match s with
  | .upper => { v with upper := x }
  | .lower => { v with lower := x }

def Duo.map {α β : Type} (f : α → β) (v : Duo α) : Duo β :=
  ⟨f v.upper, f v.lower⟩

def Pair.get {α : Type} (v : Pair α) : Colour → α
  | .red => v.red
  | .green => v.green

def Pair.set {α : Type} (v : Pair α) (c : Colour) (x : α) : Pair α :=
  match c with
  | .red => { v with red := x }
  | .green => { v with green := x }

def Pair.map {α β : Type} (f : α → β) (v : Pair α) : Pair β :=
  ⟨f v.red, f v.green⟩

def Three.get {α : Type} (v : Three α) : Port → α
  | .a => v.a
  | .b => v.b
  | .c => v.c

def Three.set {α : Type} (v : Three α) (q : Port) (x : α) : Three α :=
  match q with
  | .a => { v with a := x }
  | .b => { v with b := x }
  | .c => { v with c := x }

def Three.map {α β : Type} (f : α → β) (v : Three α) : Three β :=
  ⟨f v.a, f v.b, f v.c⟩

def Three.all {α : Type} (v : Three α) (f : α → Bool) : Bool :=
  f v.a && f v.b && f v.c

/-- The value of one face. -/
def faceOf {α : Type} (v : FaceMap α) (f : Face) : α :=
  (v.get f.gate).get f.side

/-- A face map with one face's value replaced. -/
def setFace {α : Type} (v : FaceMap α) (f : Face) (x : α) : FaceMap α :=
  v.set f.gate ((v.get f.gate).set f.side x)

/-- A value for every face, each from its own face. -/
def faceMap {α : Type} (x : Face → α) : FaceMap α :=
  ⟨⟨x ⟨.g0, .upper⟩, x ⟨.g0, .lower⟩⟩, ⟨x ⟨.g1, .upper⟩, x ⟨.g1, .lower⟩⟩,
   ⟨x ⟨.g2, .upper⟩, x ⟨.g2, .lower⟩⟩, ⟨x ⟨.g3, .upper⟩, x ⟨.g3, .lower⟩⟩⟩

/-- The value of one lamp. -/
def lampOf {α : Type} (v : LampMap α) (f : Face) (c : Colour) : α :=
  ((v.get f.gate).get f.side).get c

/-- A lamp map with one lamp's value replaced. -/
def setLamp {α : Type} (v : LampMap α) (f : Face) (c : Colour) (x : α) : LampMap α :=
  v.set f.gate ((v.get f.gate).set f.side (((v.get f.gate).get f.side).set c x))

/-- A value for every lamp, each from its own face and colour. -/
def lampMap {α : Type} (x : Face → Colour → α) : LampMap α :=
  faceMap fun f => ⟨x f .red, x f .green⟩

/-- The eight faces in the order G0-U, G0-L, ..., G3-L. -/
def Face.all : List Face :=
  [⟨.g0, .upper⟩, ⟨.g0, .lower⟩, ⟨.g1, .upper⟩, ⟨.g1, .lower⟩,
   ⟨.g2, .upper⟩, ⟨.g2, .lower⟩, ⟨.g3, .upper⟩, ⟨.g3, .lower⟩]

/-- The sixteen lamps, face by face, red before green. -/
def lampList : List (Face × Colour) :=
  Face.all.flatMap fun f => [(f, .red), (f, .green)]

def Reach.all : List Reach := [.head, .c1, .c2, .c3, .tail]

def Gate.all : List Gate := [.g0, .g1, .g2, .g3]

/-- The reach above gate k: reach k. -/
def Gate.above : Gate → Reach
  | .g0 => .head
  | .g1 => .c1
  | .g2 => .c2
  | .g3 => .c3

/-- The reach below gate k: reach k+1. -/
def Gate.below : Gate → Reach
  | .g0 => .c1
  | .g1 => .c2
  | .g2 => .c3
  | .g3 => .tail

/-- The gate one place upstream, if there is one. -/
def Gate.before : Gate → Option Gate
  | .g0 => none
  | .g1 => some .g0
  | .g2 => some .g1
  | .g3 => some .g2

/-- The gate one place downstream, if there is one. -/
def Gate.after : Gate → Option Gate
  | .g0 => some .g1
  | .g1 => some .g2
  | .g2 => some .g3
  | .g3 => none

def Gate.index : Gate → Nat
  | .g0 => 0
  | .g1 => 1
  | .g2 => 2
  | .g3 => 3

def Gate.ofIndex : Nat → Option Gate
  | 0 => some .g0
  | 1 => some .g1
  | 2 => some .g2
  | 3 => some .g3
  | _ => none

def Reach.index : Reach → Nat
  | .head => 0
  | .c1 => 1
  | .c2 => 2
  | .c3 => 3
  | .tail => 4

def Reach.ofIndex : Nat → Option Reach
  | 0 => some .head
  | 1 => some .c1
  | 2 => some .c2
  | 3 => some .c3
  | 4 => some .tail
  | _ => none

/-- A chamber is a reach; a pound is not a chamber. -/
def Reach.chamber : Reach → Option Chamber
  | .c1 => some .c1
  | .c2 => some .c2
  | .c3 => some .c3
  | _ => none

def Chamber.reach : Chamber → Reach
  | .c1 => .c1
  | .c2 => .c2
  | .c3 => .c3

/-- Chamber Ck has G(k-1) as its upper gate. -/
def Chamber.upperGate : Chamber → Gate
  | .c1 => .g0
  | .c2 => .g1
  | .c3 => .g2

/-- Chamber Ck has Gk as its lower gate. -/
def Chamber.lowerGate : Chamber → Gate
  | .c1 => .g1
  | .c2 => .g2
  | .c3 => .g3

/-- HEAD and TAIL are pounds. -/
def Reach.isPound : Reach → Bool
  | .head => true
  | .tail => true
  | _ => false

/-- The gates beside a reach, upstream one first. -/
def Reach.gates : Reach → List Gate
  | .head => [.g0]
  | .c1 => [.g0, .g1]
  | .c2 => [.g1, .g2]
  | .c3 => [.g2, .g3]
  | .tail => [.g3]

/-- VALID, LIMITED_LOW and LIMITED_HIGH are the ordered classes (section 1.1). -/
def ReadingClass.ordered : ReadingClass → Bool
  | .valid => true
  | .limitedLow => true
  | .limitedHigh => true
  | _ => false

def ReadingClass.limited : ReadingClass → Bool
  | .limitedLow => true
  | .limitedHigh => true
  | _ => false

/-- An UP lockage enters through G3 and a DOWN lockage through G0 (spec/00_scope.md, "Directions"). -/
def Direction.entryGate : Direction → Gate
  | .up => .g3
  | .down => .g0

/-- An UP lockage leaves through G0 and a DOWN lockage through G3. -/
def Direction.exitGate : Direction → Gate
  | .up => .g0
  | .down => .g3

def Direction.opposite : Direction → Direction
  | .up => .down
  | .down => .up

/-- The face that serves gate g in a direction: Gk-U serves DOWN, Gk-L serves UP (R39). -/
def faceServing (g : Gate) : Direction → Face
  | .up => ⟨g, .lower⟩
  | .down => ⟨g, .upper⟩

/-- The direction a face serves (R39). -/
def Face.direction (f : Face) : Direction :=
  match f.side with
  | .upper => .down
  | .lower => .up

/-- The two approach faces are G0-U and G3-L (spec/00_scope.md, "Signal faces and aspects"). -/
def Face.isApproach (f : Face) : Bool :=
  decide (f = ⟨.g0, .upper⟩) || decide (f = ⟨.g3, .lower⟩)

/-- The approach face on which a direction enters: G3-L for UP, G0-U for DOWN. -/
def Direction.entryFace (d : Direction) : Face :=
  faceServing d.entryGate d

def VesselClass.index : VesselClass → Nat
  | .pleasure => 0
  | .passenger => 1
  | .dryCargo => 2
  | .tanker => 3
  | .pushTow => 4
  | .workCraft => 5
  | .authority => 6
  | .rescue => 7

def VesselClass.ofCode : Nat → Option VesselClass
  | 0 => some .pleasure
  | 1 => some .passenger
  | 2 => some .dryCargo
  | 3 => some .tanker
  | 4 => some .pushTow
  | 5 => some .workCraft
  | 6 => some .authority
  | 7 => some .rescue
  | _ => none

def AccountKind.code : AccountKind → Nat
  | .cash => 0
  | .account => 1
  | .pass => 2

def AccountKind.ofCode : Nat → Option AccountKind
  | 0 => some .cash
  | 1 => some .account
  | 2 => some .pass
  | _ => none

def Direction.code : Direction → Nat
  | .up => 0
  | .down => 1

def Direction.ofCode : Nat → Option Direction
  | 0 => some .up
  | 1 => some .down
  | _ => none

def ClearanceClass.code : ClearanceClass → Nat
  | .a => 0
  | .b => 1
  | .c => 2

def ClearanceClass.ofCode : Nat → Option ClearanceClass
  | 0 => some .a
  | 1 => some .b
  | 2 => some .c
  | _ => none

end Sys2Proof
end

