-- ==== Sys2Proof/Syntax.lean ====
section
/-! DEFINITION. The commands of the part: one constructor of `Instr` per row of spec/opcode_table.json, with
the operands its rules name. Enumerated fields of a load are carried as their meaning, or `none` for a code
that names no meaning (R163, R164), because the spec gives those codes no numbers (log entry 3). -/

namespace Sys2Proof

/-- One value per vessel class. -/
structure PerClass (α : Type) where
  pleasure : α
  passenger : α
  dryCargo : α
  tanker : α
  pushTow : α
  workCraft : α
  authority : α
  rescue : α
deriving DecidableEq, Repr

def PerClass.get {α : Type} (v : PerClass α) : VesselClass → α
  | .pleasure => v.pleasure
  | .passenger => v.passenger
  | .dryCargo => v.dryCargo
  | .tanker => v.tanker
  | .pushTow => v.pushTow
  | .workCraft => v.workCraft
  | .authority => v.authority
  | .rescue => v.rescue

/-- The field connections as power-on finds them (spec/00_scope.md, "Field connections"). -/
structure FieldInputs where
  closedLimit : Four Bool
  openLimit : Four Bool
  feedback : Four (Fin 16)
  eStop : Bool
  navInhibit : Bool
  straps : Fin 4
deriving DecidableEq, Repr

/-- A FLIGHT load, fields 0 to 13 in index order (R163). -/
structure FlightLoad where
  usableLength : Int
  convoyMaximum : Int
  vesselGap : Int
  n1 : Int
  n2 : Int
  headSill : Int
  tailSill : Int
  keelClearance : Int
  headFlood : Int
  tailFlood : Int
  tolerance : Four Int
deriving DecidableEq, Repr

/-- A REACH load, fields 0 to 6 (R163). -/
structure ReachLoad where
  zero : Int
  span : Int
  datum : Int
  rmin : Int
  rmax : Int
  jump : Int
  drift : Int
deriving DecidableEq, Repr

/-- A WORKS load, fields 0 to 21 (R163). -/
structure WorksLoad where
  travelLimit : Four Int
  stepLimit : Four Int
  rampInterval : Four Int
  transferLimit : Four Int
  cap : Four Int
  moveLimit : Int
  window : Int
deriving DecidableEq, Repr

/-- The five TARIFF fields of one class (R129, R163). -/
structure ClassLoad where
  base : Int
  rate : Int
  freeLength : Int
  ladenPercent : Int
  exempt : Option Bool
deriving DecidableEq, Repr

/-- A TARIFF load, fields 0 to 71 (R129, R163); 24 hours and 4 bands. -/
structure TariffLoad where
  classes : PerClass ClassLoad
  passPercent : Int
  waterRate : Int
  delayCredit : Int
  returnPercent : Int
  hourBand : List Int
  bandPercent : List Int
deriving DecidableEq, Repr

/-- One entry of a TURNS load as sent (R65). -/
structure TurnEntryLoad where
  action : Option Action
  cls : Option ClearanceClass
deriving DecidableEq, Repr

/-- An OUTLETS load, fields 0 to 5 (R163). -/
structure OutletsLoad where
  authorityEnable : Option Bool
  quayEnable : Option Bool
  accountsDepth : Int
  authorityDepth : Int
  quayDepth : Int
  interval : Int
deriving DecidableEq, Repr

/-- A RESPONSES load, fields 0 to 6 (R163). -/
structure ResponsesLoad where
  sensorStale : Option Response
  sensorLimited : Option Response
  transferTimeout : Option Response
  levelDrift : Option Response
  lampFailed : Option Response
  moveTimeout : Option Response
  periodCode : Int
deriving DecidableEq, Repr

/-- What a REGISTER request carries (section 3.4); codes as sent, so that R49's tests can refuse them. The
hull mark holds its characters in order, without the zero bytes that fill it up (R185). -/
structure RegisterRequest where
  hull : List Byte
  direction : Nat
  cls : Nat
  length : Nat
  draught : Nat
  laden : Bool
  accountKind : Nat
  accountNumber : Option Nat
  priority : Bool
deriving DecidableEq, Repr

/-- The kinds of request a frame can carry (R177). RESTART is one kind with its KEEP or CLEAR in the body. -/
inductive RequestKind where
  | loadFlight | loadReach | loadWorks | loadTariff | loadTurns | loadOutlets | loadResponses
  | setClock | start | register | cancel | entryClear | entryRefuse | exitClear | exitRefuse
  | moveDone | trim | halt | resume | abandon | forceTally | captureDatum | lampClear | restart
  | conditionRead | queryFlight | queryQueues | queryLockage | queryOutlets | queryLink | taken | peek
deriving DecidableEq, Repr

/-- The commands of the part: the rows of spec/opcode_table.json, in the table's order. A request row is the
request as the link interface hands it to the block that owns it, with the TAG its reply copies (R177,
R178); TAKEN and PEEK also name the port they came from (R150, R151). -/
inductive Instr where
  | sampleArrival (r : Reach) (raw : Fin 4096)
  | sampleTimerExpiry (r : Reach)
  | limitInputChange (g : Gate) (l : Limit) (asserted : Bool)
  | travelTimerExpiry (g : Gate)
  | positionFeedbackChange (k : Sluice) (position : Fin 16)
  | stepTimerExpiry (k : Sluice)
  | rampIntervalExpiry (k : Sluice)
  | dueUpStepIssue (k : Sluice)
  | gateTravelResume (g : Gate)
  | transferTimerExpiry (k : Sluice)
  | lampRefresh (current : LampMap Bool)
  | eStopAsserted
  | eStopNegated
  | navInhibitChange (asserted : Bool)
  | moveTimerExpiry
  | windowTimerExpiry
  | watchdogExpiry
  | clockAdvance
  | byteReceived (q : Port) (b : Byte)
  | gapTimeout (q : Port)
  | powerOn (inputs : FieldInputs)
  | loadFlight (tag : Tag) (v : FlightLoad)
  | loadReach (tag : Tag) (reach : Nat) (v : ReachLoad)
  | loadWorks (tag : Tag) (v : WorksLoad)
  | loadTariff (tag : Tag) (v : TariffLoad)
  | loadTurns (tag : Tag) (v : List TurnEntryLoad)
  | loadOutlets (tag : Tag) (v : OutletsLoad)
  | loadResponses (tag : Tag) (v : ResponsesLoad)
  | setClock (tag : Tag) (day : Nat) (second : Nat)
  | start (tag : Tag)
  | register (tag : Tag) (v : RegisterRequest)
  | cancel (tag : Tag) (ticket : Nat)
  | entryClear (tag : Tag) (lockage : Nat)
  | entryRefuse (tag : Tag) (lockage : Nat)
  | exitClear (tag : Tag) (lockage : Nat)
  | exitRefuse (tag : Tag) (lockage : Nat)
  | moveDone (tag : Tag) (lockage : Nat) (index : Nat)
  | trim (tag : Tag) (sluice : Nat) (adjustment : Int)
  | halt (tag : Tag)
  | resume (tag : Tag)
  | abandon (tag : Tag)
  | forceTally (tag : Tag)
  | captureDatum (tag : Tag) (reach : Nat) (level : Int)
  | lampClear (tag : Tag)
  | restartKeep (tag : Tag)
  | restartClear (tag : Tag)
  | conditionRead (tag : Tag)
  | queryFlight (tag : Tag)
  | queryQueues (tag : Tag)
  | queryLockage (tag : Tag)
  | queryOutlets (tag : Tag)
  | queryLink (tag : Tag)
  | taken (q : Port) (tag : Tag) (sequence : Nat)
  | peek (q : Port) (tag : Tag)
  | turnEvaluate
  | tallyAppend
  | surveyEnd
  | openStepEvaluate
deriving DecidableEq, Repr

end Sys2Proof
end

