-- ==== Sys2Proof/Decode.lean ====
section
/-! DEFINITION. The commands a word spells by the table's bits. No row of spec/opcode_table.json gives bits
(every row's fields are empty and spec/98_reader.md counts no fixed bits), so no word spells a command (log entry 2). -/

namespace Sys2Proof

/-- The command that a word of the table's bits spells: none, because no row of the table gives bits. -/
def decodeTableWord (_nbits _w : Nat) : Option Instr := none

end Sys2Proof
end

