-- ==== Sys2Proof/Config.lean ====
section
/-! DEFINITION. What the spec fixes as numbers, and what it leaves open: the free values are `opaque`, so no
proof can see them (log entries 3 and 4). -/

namespace Sys2Proof

/-- The sample period of every reach, 200 ms (R7). -/
def Config.samplePeriod : Nat := 200

/-- The lamp refresh period, 500 ms (section 2.7). -/
def Config.lampPeriod : Nat := 500

/-- The longest gap allowed inside a frame, 50 ms (R176). -/
def Config.gapLimit : Nat := 50

/-- One second of the clock's own count, in ms (R167). -/
def Config.secondPeriod : Nat := 1000

/-- A queue holds at most 12 records, reserved slots included (R47, R51). -/
def Config.queueLimit : Nat := 12

/-- Where a field of a request body stands: the spec gives layouts for REGISTER alone (section 11.7). -/
structure FieldAt where
  offset : Nat
  bytes : Nat
  signed : Bool
deriving DecidableEq, Repr, Inhabited

/-- The kinds of message the part sends (R177, R178, R184). -/
inductive MessageKind where
  | accepted | refused | condition | event | deliver
deriving DecidableEq, Repr

/-- The KIND codes of what the part sends; the spec gives them no numbers (log entry 4). -/
opaque Config.kindCode : MessageKind → Byte

/-- The request kind a KIND byte names, `none` for every other code. The spec gives the kinds no numbers; a
group load may name its group in the body (R165), so the body is read too (log entry 3). -/
opaque Config.kindOf : Byte → List Byte → Option RequestKind

/-- The fixed body length of a kind (or of a load's group), where the spec does not give it (log entry 3). -/
opaque Config.bodyLength : RequestKind → Nat

/-- The place of field i of a kind's body, for the kinds whose layout the spec does not give (log entry 3). -/
opaque Config.fieldAt : RequestKind → Nat → FieldAt

/-- The meaning of a response code, `none` for a code other than HALT or CONTINUE (R115; log entry 3). -/
opaque Config.responseOfCode : Int → Option Response

/-- The meaning of a YES or NO code, `none` for any other (R129, R164; log entry 3). -/
opaque Config.yesNoOfCode : Int → Option Bool

/-- The meaning of a turn action code, `none` for a code outside the four (R65; log entry 3). -/
opaque Config.actionOfCode : Int → Option Action

/-- The meaning of a RESTART kind code, `none` for any other (R172; log entry 3). -/
opaque Config.restartKindOfCode : Int → Option RestartKind

end Sys2Proof
end

