-- ==== Sys2Proof/Machine/State.lean ====
section
/-! DEFINITION. The state of the part as plain data: every register, record, queue, counter, timer, mode and pin
that spec/ names, the messages each port has sent, and the queue of commands that wait. -/

namespace Sys2Proof.Machine

/-- Why a command stops the block. Nothing raises one: the spec gives every command an effect in every state
(a request the part will not act on is answered REFUSED, which is a next state). -/
inductive Fault where
  /-- Raised by nothing. It stands so that the type has a name for a stop that no rule of spec/ asks for; safe. -/
  | noSuchFault
deriving DecidableEq, Repr

/-- Why a command has no meaning. -/
inductive Refusal where
  /-- A row of the table without a meaning; raised only by an arm of exec, and no arm raises it now; safe. -/
  | notModelled (mnemonic : String)
deriving DecidableEq, Repr

/-- A reading of the clock: day and second of day (R167). -/
structure Clock where
  day : Nat
  second : Nat
deriving DecidableEq, Repr

/-! ### The level monitor (chapter 1) -/

/-- The reach record (R1), with the reach's sample timer (R7) in ms left. -/
structure ReachRec where
  cls : ReadingClass
  window : List Nat
  previousRaw : Option Nat
  settleCount : Nat
  missed : Nat
  runCount : Nat
  run : List Nat
  isolationLevel : Option Int
  driftReported : Bool
  sampleTimer : Nat
deriving DecidableEq, Repr

/-- The cause given with an UNORDERED compare (R12). -/
inductive UnorderedCause where
  | broken | stale | limited
deriving DecidableEq, Repr

/-- The compare across a gate (R11). -/
inductive Compare where
  | above | below | level
  | unordered (cause : UnorderedCause)
deriving DecidableEq, Repr

/-- The chamber state (R13). -/
inductive ChamberState where
  | full | empty | part | unknown
deriving DecidableEq, Repr

/-- The flood judgement (R15). -/
inductive Flood where
  | navigable | flooded | unproven
deriving DecidableEq, Repr

/-! ### The works controller (chapter 2) -/

/-- The states of a gate (R23). -/
inductive GateState where
  | closed | opening | open_ | closing | stopped
deriving DecidableEq, Repr

/-- The drive output turned on (R23). -/
inductive Drive where
  | off | openDrive | closeDrive
deriving DecidableEq, Repr

/-- The block to which a gate's arrival is reported (R23). -/
inductive Commander where
  | sequencer | survey | nobody
deriving DecidableEq, Repr

/-- The gate record (R23), with the gate's two limit inputs as they stand. -/
structure GateRec where
  state : GateState
  drive : Drive
  travelTimer : Option Nat
  openPending : Bool
  commander : Commander
  atClosed : Bool
  atOpen : Bool
deriving DecidableEq, Repr

/-- The states of a sluice (R29). -/
inductive SluiceState where
  | closed | stepping | held | closing
deriving DecidableEq, Repr

inductive StepDir where
  | up | down
deriving DecidableEq, Repr

/-- The phases of a transfer (section 2.4). -/
inductive TransferPhase where
  | ramping | closing
deriving DecidableEq, Repr

/-- A transfer, held in its sluice's record (R32). -/
structure Transfer where
  phase : TransferPhase
  timer : Option Nat
  lockage : Nat
deriving DecidableEq, Repr

/-- The sluice record (R29), with the ramp interval (R33), the due up-step (R33) and the lockage whose
transfer waits for the one held (R32). -/
structure SluiceRec where
  position : Nat
  state : SluiceState
  target : Nat
  step : Option (StepDir × Nat)
  stepTimer : Option Nat
  trim : Int
  transfer : Option Transfer
  rampTimer : Option Nat
  due : Bool
  waiting : Option Nat
deriving DecidableEq, Repr

/-! ### The signal controller (sections 2.6 and 2.7) -/

/-- An aspect that can be requested (R39). -/
inductive Aspect where
  | stop | ready | proceed
deriving DecidableEq, Repr

/-- An aspect that can be shown (R39). -/
inductive Shown where
  | stop | ready | proceed | outOfService
deriving DecidableEq, Repr

/-- The face record (R39). -/
structure FaceRec where
  requested : Aspect
  shown : Shown
  awaited : Bool
deriving DecidableEq, Repr

inductive LampCommand where
  | lit | dark | flash
deriving DecidableEq, Repr

/-- The lamp record (R42). -/
structure LampRec where
  command : LampCommand
  output : Bool
  litLast : Bool
  armed : Bool
  failed : Bool
deriving DecidableEq, Repr

/-! ### Vessels and queues (chapter 3) -/

/-- The vessel record (R46). -/
structure Vessel where
  ticket : Nat
  hull : List Byte
  direction : Direction
  cls : VesselClass
  length : Nat
  draught : Nat
  laden : Bool
  accountKind : AccountKind
  accountNumber : Option Nat
  priority : Bool
  registered : Clock
deriving DecidableEq, Repr

/-- The calls and priority bits the vessel queues derive (R53). -/
structure Calls where
  up : Bool
  down : Bool
  upPriority : Bool
  downPriority : Bool
deriving DecidableEq, Repr

/-! ### The turn selector (chapter 4) -/

/-- The call pattern (R62); `lastUp` is bit 4, the last-direction bit. -/
structure Pattern where
  up : Bool
  down : Bool
  upPriority : Bool
  downPriority : Bool
  lastUp : Bool
deriving DecidableEq, Repr

/-- What the turn selector holds (R61). -/
structure TurnSelector where
  pattern : Pattern
  readiness : Bool
  rejectHold : Option Pattern
  planWait : Bool
  nextLockage : Nat
deriving DecidableEq, Repr

/-- One stored entry of the turn table (R65). -/
structure TurnEntry where
  action : Action
  cls : ClearanceClass
deriving DecidableEq, Repr

/-! ### Plans and the lockage record (chapters 5 and 6) -/

/-- The kind of a plan step with its argument and direction (R76). -/
inductive Work where
  | close (g : Gate)
  | transfer (k : Sluice)
  | openGate (g : Gate)
  | move (g : Gate) (d : Direction)
  | commit
deriving DecidableEq, Repr

/-- The phase of a plan step (R76). -/
inductive Phase where
  | prepare | setting | entry | commit | carrying | exit | returning
deriving DecidableEq, Repr

/-- A plan step; its index is its place in the plan, counted from 1 (R76). -/
structure PlanStep where
  work : Work
  phase : Phase
deriving DecidableEq, Repr

/-- The stages of the step kinds (R91). -/
inductive Stage where
  | travel | running | clearance | tide | level | levelling | awaiting | underWay | waiting
deriving DecidableEq, Repr

/-- A clearance (R91). -/
inductive Clearance where
  | notNeeded | awaited | given | refused
deriving DecidableEq, Repr

/-- The state of the commitment window (R91). -/
inductive Commitment where
  | open_ | passed
deriving DecidableEq, Repr

/-- How a lockage ends (R91), coded 0 to 4 in this order (R185). -/
inductive LockageOutcome where
  | completed | completedLate | returned | withdrawn | abandoned
deriving DecidableEq, Repr

/-- The lockage record (R91), with whether its exit OPEN has reached TRAVEL, which R108 asks of it (log entry 19). -/
structure Lockage where
  number : Nat
  direction : Direction
  cls : ClearanceClass
  convoy : List Vessel
  plan : List PlanStep
  current : Nat
  stage : Stage
  entry : Clearance
  exit : Clearance
  commitment : Option Commitment
  entryPassed : Bool
  exitCommanded : Bool
  late : Bool
  headDraws : Nat
  tideWait : Bool
  tideReported : Bool
  moveTimer : Option Nat
  windowTimer : Option Nat
  moveDone : Bool
  turnTime : Clock
  outcome : Option LockageOutcome
deriving DecidableEq, Repr

/-! ### The fault handler (chapter 7) -/

/-- The fault kinds (R114). -/
inductive FaultKind where
  | sensorBroken | sensorStale | sensorLimited | sluiceStall | transferTimeout | gateTimeout
  | gateLimit | levelDrift | lampFailed | moveTimeout | eStop | operatorHalt
deriving DecidableEq, Repr

/-- What a fault names (R114). -/
inductive Subject where
  | gate (g : Gate)
  | sluice (k : Sluice)
  | chamber (c : Chamber)
  | face (f : Face)
  | lockage (number : Nat) (index : Nat)
  | flight
deriving DecidableEq, Repr

/-- The halt record (R113). -/
structure HaltRec where
  kind : FaultKind
  subject : Subject
  mode : Mode
  lockage : Option Nat
  index : Option Nat
  time : Option Clock
deriving DecidableEq, Repr

/-- What the fault handler holds beside the response table (R113). -/
structure FaultHandler where
  halt : Option HaltRec
  reported : List FaultKind
deriving DecidableEq, Repr

/-- The response the fault handler draws (R116). -/
inductive Answer where
  | halt | continue_ | none
deriving DecidableEq, Repr

/-! ### Records, outlets and tallies (chapters 8 and 9) -/

/-- A vessel line of a LOCKAGE record (R142). -/
structure Line where
  ticket : Nat
  hull : List Byte
  cls : VesselClass
  length : Nat
  accountKind : AccountKind
  accountNumber : Option Nat
  tariffFee : Nat
  waterShare : Nat
  lineFee : Nat
  roundedUp : Bool
  capped : Bool
  exempt : Bool
  creditFloored : Bool
deriving DecidableEq, Repr

/-- The LOCKAGE record (R142). -/
structure LockageRecord where
  number : Nat
  direction : Direction
  cls : ClearanceClass
  outcome : LockageOutcome
  turnTime : Clock
  endTime : Clock
  headDraws : Nat
  waterDue : Nat
  waterCharged : Nat
  waterWaived : Nat
  tideWait : Bool
  late : Bool
  total : Nat
  lines : List Line
deriving DecidableEq, Repr

/-- The tally counters (R153). -/
structure Counters where
  lockageRecords : Nat
  vessels : Nat
  completed : Nat
  completedLate : Nat
  returned : Nat
  withdrawn : Nat
  abandoned : Nat
  lostToReset : Nat
  headDraws : Nat
  tollSum : Nat
deriving DecidableEq, Repr

/-- The TALLY record (R156). -/
structure TallyRecord where
  number : Nat
  forced : Bool
  periodic : Bool
  saturated : Bool
  counts : Counters
deriving DecidableEq, Repr

inductive RecordBody where
  | lockage (r : LockageRecord)
  | tally (r : TallyRecord)
deriving DecidableEq, Repr

/-- A record with the sequence its append gave it (R147). -/
structure Record where
  sequence : Nat
  body : RecordBody
deriving DecidableEq, Repr

/-- The state of an outlet (R145). -/
inductive OutletState where
  | idle | offered
deriving DecidableEq, Repr

/-- The outlet record (R145). -/
structure Outlet where
  enabled : Bool
  depth : Nat
  queue : List Record
  state : OutletState
deriving DecidableEq, Repr

/-- The state of a tally (section 9.6). -/
inductive TallyState where
  | none
  | waiting
  | pending (forced : Bool) (periodic : Bool)
  | outstanding (sequence : Nat)
deriving DecidableEq, Repr

/-- What the outlet unit holds: the outlets ACCOUNTS, AUTHORITY and QUAY on ports A, B and C, the copy of the
tally interval, the counters and the tally (R145, R147, R153, R154, R156). -/
structure OutletUnit where
  outlets : Three Outlet
  interval : Nat
  nextSequence : Nat
  counters : Counters
  saturated : Bool
  nextTally : Nat
  tally : TallyState
deriving DecidableEq, Repr

/-! ### Settings groups as stored (chapter 10) -/

structure Flight where
  usableLength : Nat
  convoyMaximum : Nat
  vesselGap : Nat
  n1 : Int
  n2 : Int
  headSill : Int
  tailSill : Int
  keelClearance : Int
  headFlood : Int
  tailFlood : Int
  tolerance : Four Int
deriving DecidableEq, Repr

/-- A stored REACH group; the pounds have no drift limit (R164). -/
structure ReachGroup where
  zero : Int
  span : Int
  datum : Int
  rmin : Nat
  rmax : Nat
  jump : Nat
  drift : Option Int
deriving DecidableEq, Repr

structure Works where
  travelLimit : Four Nat
  stepLimit : Four Nat
  rampInterval : Four Nat
  transferLimit : Four Nat
  cap : Four Nat
  moveLimit : Nat
  window : Nat
deriving DecidableEq, Repr

structure ClassTariff where
  base : Nat
  rate : Nat
  freeLength : Nat
  ladenPercent : Nat
  exempt : Bool
deriving DecidableEq, Repr

structure Tariff where
  classes : PerClass ClassTariff
  passPercent : Nat
  waterRate : Nat
  delayCredit : Nat
  returnPercent : Nat
  hourBand : List Nat
  bandPercent : List Nat
deriving DecidableEq, Repr

structure OutletsGroup where
  authorityEnable : Bool
  quayEnable : Bool
  accountsDepth : Nat
  authorityDepth : Nat
  quayDepth : Nat
  interval : Nat
deriving DecidableEq, Repr

/-- The stored RESPONSES group: the response table (R115) and the watchdog period code (R182). -/
structure Responses where
  sensorStale : Response
  sensorLimited : Response
  transferTimeout : Response
  levelDrift : Response
  lampFailed : Response
  moveTimeout : Response
  periodCode : Nat
deriving DecidableEq, Repr

/-- The response table: the RESPONSES group without its watchdog period code (R113, R115, R128). -/
structure ResponseTable where
  sensorStale : Response
  sensorLimited : Response
  transferTimeout : Response
  levelDrift : Response
  lampFailed : Response
  moveTimeout : Response
deriving DecidableEq, Repr

/-- The eleven settings groups, each UNSET (`none`) or SET (R162). -/
structure Settings where
  flight : Option Flight
  reach : Five (Option ReachGroup)
  works : Option Works
  tariff : Option Tariff
  turns : Option (List TurnEntry)
  outlets : Option OutletsGroup
  responses : Option Responses
deriving DecidableEq, Repr

/-! ### The link interface (chapter 11) -/

/-- The receiver of a port (R175): HUNTING, or IN_FRAME with LEN once taken, the bytes after it, and the ms
since the last byte. -/
inductive Receiver where
  | hunting
  | inFrame (len : Option Nat) (bytes : List Byte) (gap : Nat)
deriving DecidableEq, Repr

inductive RestartCause where
  | power | keep | clear
deriving DecidableEq, Repr

/-- The latest-fault entry of the condition record (R179). -/
structure FaultEntry where
  kind : FaultKind
  lockage : Option Nat
  index : Option Nat
  halting : Bool
deriving DecidableEq, Repr

/-- The condition record (R179); a BAD_MESSAGE count of 0 means the entry is absent. -/
structure Conditions where
  restarted : Option RestartCause
  badMessage : Nat
  linkLost : Bool
  linkRestored : Bool
  reaches : Five (Option ReadingClass)
  lamps : LampMap Bool
  fault : Option FaultEntry
  turnRejected : Option Pattern
deriving DecidableEq, Repr

/-- What the link interface holds (R175), with the strap rate read at the last reset (section 11.1). -/
structure Link where
  receivers : Three Receiver
  checkErrors : Three Nat
  conditions : Conditions
  armed : Bool
  watchdog : Option Nat
  lost : Bool
  rate : Fin 4
deriving DecidableEq, Repr

/-! ### Messages the part sends (section 11.3) -/

/-- What START can find missing: a settings group, or the clock (R169). -/
inductive Missing where
  | flight | reach (r : Reach) | works | tariff | turns | outlets | responses | clock
deriving DecidableEq, Repr

/-- The refusal reasons (section 11.3). -/
inductive Reason where
  | badMessage | badValue | notAtRest | notInService | setupIncomplete (missing : List Missing)
  | duplicate | queueFull | tooLong | noSuchTicket | inLockage | notCurrent | notNeeded | tooLate
  | stillFaulted | outletBusy | notHead
deriving DecidableEq, Repr

/-- The events (R184), each with the contents its rule names. -/
inductive Event where
  | turn (lockage : Nat) (direction : Direction) (cls : ClearanceClass) (pattern : Pattern)
      (tickets : List Nat) (turnTime : Clock) (steps : Nat)
  | turnRejected (pattern : Pattern)
  | noPlan (lockage : Nat) (direction : Direction) (pattern : Pattern)
      (c1 : ChamberState) (c2 : ChamberState) (c3 : ChamberState)
  | step (lockage : Nat) (index : Nat) (step : PlanStep) (time : Option Clock)
  | tideWait (lockage : Nat) (index : Nat) (gate : Gate) (headProven : Bool) (tailProven : Bool)
  | ending (lockage : Nat) (outcome : LockageOutcome) (headDraws : Nat) (tideWait : Bool) (late : Bool)
      (sequence : Option Nat) (tickets : List Nat) (convoyReturned : Bool)
  | fault (kind : FaultKind) (subject : Subject) (answer : Answer) (mode : Mode)
      (lockage : Option Nat) (index : Option Nat) (time : Option Clock)
  | mode (mode : Mode) (halting : Option FaultKind)
deriving DecidableEq, Repr

/-- What QUERY_FLIGHT returns of one reach (R21). -/
structure ReachView where
  cls : ReadingClass
  level : Option Int
  previousRaw : Option Nat
  missed : Nat
deriving DecidableEq, Repr

/-- What QUERY_FLIGHT returns of one chamber (R21). -/
structure ChamberView where
  state : ChamberState
  isolationLevel : Option Int
deriving DecidableEq, Repr

/-- What QUERY_FLIGHT returns of one gate (R45). -/
structure GateView where
  state : GateState
  atClosed : Bool
  atOpen : Bool
  openPending : Bool
deriving DecidableEq, Repr

/-- What QUERY_FLIGHT returns of one sluice (R45); cap and effective cap are absent while WORKS is UNSET. -/
structure SluiceView where
  position : Nat
  state : SluiceState
  cap : Option Nat
  trim : Int
  effectiveCap : Option Nat
  phase : Option TransferPhase
deriving DecidableEq, Repr

structure FaceView where
  requested : Aspect
  shown : Shown
deriving DecidableEq, Repr

structure LampView where
  command : LampCommand
  armed : Bool
  failed : Bool
deriving DecidableEq, Repr

/-- The conditions of readiness, each with whether it holds (R63, R74). -/
structure ReadyView where
  modeRest : Bool
  noInhibit : Bool
  notFlooded : Bool
  linkUp : Bool
  outletsFree : Bool
  noTally : Bool
  noForceWaiting : Bool
  noRejectHold : Bool
deriving DecidableEq, Repr

/-- Which of the three end conditions of the survey still fail, and the reaches, gates and sluices that R174 names
beside them. A sluice at 0 that is not CLOSED yet fails the third without being among the sluices not at 0. -/
structure SurveyView where
  readingsFail : Bool
  gatesFail : Bool
  sluicesFail : Bool
  reaches : List Reach
  gates : List Gate
  sluices : List Sluice
deriving DecidableEq, Repr

/-- The QUERY_FLIGHT data (R21, R45, R74, R128, R174). -/
structure FlightView where
  reaches : Five ReachView
  c1 : ChamberView
  c2 : ChamberView
  c3 : ChamberView
  flood : Flood
  gates : Four GateView
  sluices : Four SluiceView
  faces : FaceMap FaceView
  lamps : LampMap LampView
  pattern : Nat
  readiness : Bool
  conditions : ReadyView
  rejectHold : Option Nat
  planWait : Bool
  nextLockage : Nat
  mode : Mode
  halt : Option HaltRec
  responses : Option ResponseTable
  reported : List FaultKind
  eStop : Bool
  unset : List Missing
  clock : Option Clock
  survey : Option SurveyView
deriving DecidableEq, Repr

/-- What QUERY_QUEUES returns of one queue (R60). -/
structure QueueView where
  count : Nat
  reserved : Nat
  call : Bool
  priority : Bool
  records : List Vessel
deriving DecidableEq, Repr

/-- What QUERY_QUEUES returns of the current lockage (R60). -/
structure ConvoyView where
  direction : Direction
  tickets : List Nat
  returnable : Bool
deriving DecidableEq, Repr

structure QueuesView where
  up : QueueView
  down : QueueView
  nextTicket : Nat
  lockage : Option ConvoyView
deriving DecidableEq, Repr

/-- What QUERY_LOCKAGE returns (R112): every field of R91, the convoy as tickets and hull marks. -/
structure LockageView where
  number : Nat
  direction : Direction
  cls : ClearanceClass
  convoy : List (Nat × List Byte)
  plan : List PlanStep
  current : Nat
  stage : Stage
  entry : Clearance
  exit : Clearance
  commitment : Option Commitment
  entryPassed : Bool
  late : Bool
  headDraws : Nat
  tideWait : Bool
  tideReported : Bool
  moveTimer : Option Nat
  windowTimer : Option Nat
  moveDone : Bool
  turnTime : Clock
  outcome : Option LockageOutcome
deriving DecidableEq, Repr

/-- What QUERY_OUTLETS returns of one outlet (R161). -/
structure OutletView where
  enabled : Bool
  depth : Nat
  state : OutletState
  count : Nat
  sequences : List Nat
deriving DecidableEq, Repr

structure OutletsView where
  outlets : Three OutletView
  nextSequence : Nat
  interval : Nat
  counters : Counters
  saturated : Bool
  nextTally : Nat
  tally : TallyState
deriving DecidableEq, Repr

structure LinkView where
  rate : Fin 4
  checkErrors : Three Nat
  periodCode : Option Nat
  armed : Bool
  watchdog : Option Nat
  lost : Bool
deriving DecidableEq, Repr

/-- The tally state a FORCE_TALLY reply carries (R158). -/
inductive TallyReply where
  | waiting | pending | outstanding | unchanged
deriving DecidableEq, Repr

/-- The data of an ACCEPTED reply, as the owning rule names it (R178). -/
inductive ReplyData where
  | nothing
  | load (clamped : Nat) (first : Option Nat)
  | clock (before : Option Clock)
  | register (ticket : Nat) (position : Nat) (length : Nat) (lengthRaised : Bool) (accountDropped : Bool)
  | cancel (hull : List Byte) (direction : Direction) (position : Nat)
  | clearance (lockage : Nat) (entry : Clearance) (exit : Clearance) (commitment : Option Commitment)
      (late : Bool) (withdrew : Bool) (returned : Bool)
  | trim (trim : Int) (effectiveCap : Nat)
  | halt (mode : Mode) (made : Bool)
  | resume (mode : Mode)
  | tally (state : TallyReply)
  | datum (zero : Int) (clamped : Bool)
  | lamps (cleared : Nat)
  | restart (kind : RestartKind)
  | taken (sequence : Nat) (head : Option Nat)
  | peek (count : Nat) (record : Option Record)
  | flight (v : FlightView)
  | queues (v : QueuesView)
  | lockage (v : Option LockageView)
  | outlets (v : OutletsView)
  | link (v : LinkView)
deriving DecidableEq, Repr

/-- A message the part sends. The mark is the conditions-pending mark: present on port A only (R178). -/
inductive Msg where
  | accepted (tag : Tag) (mark : Option Bool) (data : ReplyData)
  | refused (tag : Tag) (mark : Option Bool) (reason : Reason)
  | condition (tag : Tag) (record : Conditions)
  | event (e : Event)
  | deliver (r : Record)
deriving DecidableEq, Repr

/-! ### The part and the state -/

/-- Everything the spec gives the SL-300. -/
structure Part where
  mode : Mode
  eStop : Bool
  navInhibit : Bool
  straps : Fin 4
  reaches : Five ReachRec
  gates : Four GateRec
  sluices : Four SluiceRec
  faces : FaceMap FaceRec
  lamps : LampMap LampRec
  lampTimer : Nat
  upQueue : List Vessel
  downQueue : List Vessel
  nextTicket : Nat
  calls : Calls
  turn : TurnSelector
  lockage : Option Lockage
  faults : FaultHandler
  outlets : OutletUnit
  settings : Settings
  clock : Option Clock
  secondCount : Nat
  link : Link
  sent : Three (List Msg)
deriving DecidableEq, Repr

/-- The block: the commands that wait, first in first out, and the part. -/
structure State where
  pending : List Instr
  part : Part
deriving DecidableEq, Repr

/-- The reach record after every reset (R1, R7). -/
def ReachRec.reset : ReachRec :=
  { cls := .settling, window := [], previousRaw := none, settleCount := 0, missed := 0, runCount := 0
    run := [], isolationLevel := none, driftReported := false, sampleTimer := 200 }

/-- All counters at zero (R153). -/
def Counters.zero : Counters :=
  { lockageRecords := 0, vessels := 0, completed := 0, completedLate := 0, returned := 0, withdrawn := 0
    abandoned := 0, lostToReset := 0, headDraws := 0, tollSum := 0 }

/-- The outlet unit after power-on (R145, R147, R153, R154, R156, R160). -/
def OutletUnit.initial : OutletUnit :=
  { outlets := ⟨⟨true, 1, [], .idle⟩, ⟨false, 1, [], .idle⟩, ⟨false, 1, [], .idle⟩⟩
    interval := 0, nextSequence := 1, counters := Counters.zero, saturated := false, nextTally := 1
    tally := .none }

/-- Every group UNSET (R162). -/
def Settings.unset : Settings :=
  { flight := none, reach := ⟨none, none, none, none, none⟩, works := none, tariff := none, turns := none
    outlets := none, responses := none }

/-- A condition record with every entry absent (R179). -/
def Conditions.empty : Conditions :=
  { restarted := none, badMessage := 0, linkLost := false, linkRestored := false
    reaches := ⟨none, none, none, none, none⟩, lamps := lampMap fun _ _ => false, fault := none
    turnRejected := none }

/-- A gate that stands at neither limit, as a reset finds it (R23). The limit inputs are log entry 5's. -/
def GateRec.initial : GateRec :=
  { state := .stopped, drive := .off, travelTimer := none, openPending := false, commander := .nobody
    atClosed := false, atOpen := false }

/-- A sluice whose feedback is 0, as a reset finds it (R29). The feedback is log entry 5's. -/
def SluiceRec.initial : SluiceRec :=
  { position := 0, state := .closed, target := 0, step := none, stepTimer := none, trim := 0
    transfer := none, rampTimer := none, due := false, waiting := none }

/-- The face record after every reset (R39). -/
def FaceRec.reset (f : Face) : FaceRec :=
  { requested := .stop, shown := if f.isApproach then .outOfService else .stop, awaited := false }

/-- The lamp record after every reset, by the face's aspect (R39, R42). -/
def LampRec.reset (f : Face) : Colour → LampRec
  | .red => { command := if f.isApproach then .flash else .lit, output := true, litLast := false
              armed := false, failed := false }
  | .green => { command := .dark, output := false, litLast := false, armed := false, failed := false }

/-- The machine right after power-on, every field connection negated or 0 (log entry 5). -/
def Part.initial : Part :=
  { mode := .startup
    eStop := false
    navInhibit := false
    straps := 0
    reaches := ⟨ReachRec.reset, ReachRec.reset, ReachRec.reset, ReachRec.reset, ReachRec.reset⟩
    gates := ⟨GateRec.initial, GateRec.initial, GateRec.initial, GateRec.initial⟩
    sluices := ⟨SluiceRec.initial, SluiceRec.initial, SluiceRec.initial, SluiceRec.initial⟩
    faces := faceMap FaceRec.reset
    lamps := lampMap LampRec.reset
    lampTimer := 500
    upQueue := []
    downQueue := []
    nextTicket := 1
    calls := ⟨false, false, false, false⟩
    turn := { pattern := ⟨false, false, false, false, false⟩, readiness := false, rejectHold := none
              planWait := false, nextLockage := 1 }
    lockage := none
    faults := { halt := none, reported := [] }
    outlets := OutletUnit.initial
    settings := Settings.unset
    clock := none
    secondCount := 1000
    link := { receivers := ⟨.hunting, .hunting, .hunting⟩, checkErrors := ⟨0, 0, 0⟩
              conditions := { Conditions.empty with restarted := some .power }
              armed := false, watchdog := none, lost := false, rate := 0 }
    sent := ⟨[], [], []⟩ }

/-- The machine right after reset: power-on, and no command waiting. -/
def State.reset : State :=
  { pending := [], part := Part.initial }

end Sys2Proof.Machine
end

