-- ==== Sys2Proof/WellFormed.lean ====
section
/-! DEFINITION. When a command's operands are ones a message or the field can carry. A command's meaning runs
on every operand; the checks are what invariants over ranges ask of the commands that wait. -/

namespace Sys2Proof

/-- Numbers the part assigns, and the day, fit 16 bits (spec/00_scope.md, "Counters and numbers"). -/
def Instr.fits16 (n : Nat) : Bool := decide (n ≤ 65535)

/-- The REGISTER body's fields fit their bytes (section 11.7). -/
def RegisterRequest.fits (v : RegisterRequest) : Bool :=
  decide (v.direction ≤ 255) && decide (v.cls ≤ 255) && Instr.fits16 v.length && Instr.fits16 v.draught
    && decide (v.accountKind ≤ 255) && decide ((v.accountNumber.getD 0) < 4294967296)

/-- A TARIFF load maps 24 hours and prices 4 bands (R129). -/
def TariffLoad.fits (v : TariffLoad) : Bool :=
  decide (v.hourBand.length = 24) && decide (v.bandPercent.length = 4)

/-- A command is well formed when its operands fit what a message or the field carries. -/
def Instr.wf : Instr → Bool
  | .loadTariff _ v => v.fits
  | .loadTurns _ v => decide (v.length = 32)
  | .setClock _ day _ => Instr.fits16 day
  | .register _ v => v.fits
  | .cancel _ ticket => Instr.fits16 ticket
  | .entryClear _ n => Instr.fits16 n
  | .entryRefuse _ n => Instr.fits16 n
  | .exitClear _ n => Instr.fits16 n
  | .exitRefuse _ n => Instr.fits16 n
  | .moveDone _ n i => Instr.fits16 n && Instr.fits16 i
  | .taken _ _ sequence => Instr.fits16 sequence
  | _ => true

end Sys2Proof
end

