-- ==== Sys2Proof/Machine/Operands.lean ====
section
/-! DEFINITION. The fields of a request body: numbers high byte first (R185), the REGISTER body in full (R185), and
the other bodies by the places Config leaves free (log entry 3). -/

namespace Sys2Proof.Machine

/-- A number sent high byte first (R185). -/
def natOf (bs : List Byte) : Nat :=
  bs.foldl (fun n b => 256 * n + b.toNat) 0

/-- A signed number in two's complement, high byte first (R185). -/
def intOf (bs : List Byte) : Int :=
  let n := natOf bs
  if 2 * n < 256 ^ bs.length then (n : Int) else (n : Int) - (256 ^ bs.length : Nat)

/-- The bytes of a body from an offset. -/
def slice (body : List Byte) (offset count : Nat) : List Byte :=
  (body.drop offset).take count

/-- Field i of a kind whose layout the spec leaves open (log entry 3). -/
def fieldOf (k : RequestKind) (body : List Byte) (i : Nat) : Int :=
  let a := Config.fieldAt k i
  let bs := slice body a.offset a.bytes
  if a.signed then intOf bs else (natOf bs : Int)

/-- The same field as an unsigned number. -/
def natField (k : RequestKind) (body : List Byte) (i : Nat) : Nat :=
  (fieldOf k body i).toNat

/-- Four fields in a row, one per gate or sluice. -/
def fourFields (k : RequestKind) (body : List Byte) (i : Nat) : Four Int :=
  ⟨fieldOf k body i, fieldOf k body (i + 1), fieldOf k body (i + 2), fieldOf k body (i + 3)⟩

/-- The FLIGHT fields by their indices (R163). -/
def flightOf (b : List Byte) : FlightLoad :=
  let f := fieldOf .loadFlight b
  { usableLength := f 0, convoyMaximum := f 1, vesselGap := f 2, n1 := f 3, n2 := f 4, headSill := f 5
    tailSill := f 6, keelClearance := f 7, headFlood := f 8, tailFlood := f 9
    tolerance := fourFields .loadFlight b 10 }

/-- The REACH fields by their indices (R163). -/
def reachLoadOf (b : List Byte) : ReachLoad :=
  let f := fieldOf .loadReach b
  { zero := f 0, span := f 1, datum := f 2, rmin := f 3, rmax := f 4, jump := f 5, drift := f 6 }

/-- The reach a REACH load names (R165): the field after the group's own seven. -/
def reachNamed (b : List Byte) : Nat :=
  natField .loadReach b 7

/-- The WORKS fields by their indices (R163). -/
def worksOf (b : List Byte) : WorksLoad :=
  let f := fourFields .loadWorks b
  { travelLimit := f 0, stepLimit := f 4, rampInterval := f 8, transferLimit := f 12, cap := f 16
    moveLimit := fieldOf .loadWorks b 20, window := fieldOf .loadWorks b 21 }

/-- The five fields of a class at 5c to 5c + 4 (R163). -/
def classLoadOf (b : List Byte) (c : VesselClass) : ClassLoad :=
  let f := fun i => fieldOf .loadTariff b (5 * c.index + i)
  { base := f 0, rate := f 1, freeLength := f 2, ladenPercent := f 3, exempt := Config.yesNoOfCode (f 4) }

/-- The TARIFF fields by their indices (R163). -/
def tariffOf (b : List Byte) : TariffLoad :=
  let f := fieldOf .loadTariff b
  { classes := ⟨classLoadOf b .pleasure, classLoadOf b .passenger, classLoadOf b .dryCargo, classLoadOf b .tanker,
                classLoadOf b .pushTow, classLoadOf b .workCraft, classLoadOf b .authority, classLoadOf b .rescue⟩
    passPercent := f 40, waterRate := f 41, delayCredit := f 42, returnPercent := f 43
    hourBand := (List.range 24).map fun h => f (44 + h)
    bandPercent := (List.range 4).map fun i => f (68 + i) }

/-- A clearance class by its code (R185); a code outside the three has no meaning (R65). -/
def classOfCode (i : Int) : Option ClearanceClass :=
  if i < 0 then none else ClearanceClass.ofCode i.toNat

/-- The 32 entries of a TURNS load: an action and a class for each index (R65). -/
def turnsOf (b : List Byte) : List TurnEntryLoad :=
  (List.range 32).map fun i =>
    { action := Config.actionOfCode (fieldOf .loadTurns b (2 * i))
      cls := classOfCode (fieldOf .loadTurns b (2 * i + 1)) }

/-- The OUTLETS fields by their indices (R163). -/
def outletsOf (b : List Byte) : OutletsLoad :=
  let f := fieldOf .loadOutlets b
  { authorityEnable := Config.yesNoOfCode (f 0), quayEnable := Config.yesNoOfCode (f 1), accountsDepth := f 2
    authorityDepth := f 3, quayDepth := f 4, interval := f 5 }

/-- The RESPONSES fields by their indices (R163). -/
def responsesOf (b : List Byte) : ResponsesLoad :=
  let f := fun i => Config.responseOfCode (fieldOf .loadResponses b i)
  { sensorStale := f 0, sensorLimited := f 1, transferTimeout := f 2, levelDrift := f 3, lampFailed := f 4
    moveTimeout := f 5, periodCode := fieldOf .loadResponses b 6 }

/-- The characters of a hull mark, without the bytes of 0 that fill it up (R185). -/
def hullOf (bs : List Byte) : List Byte :=
  (bs.reverse.dropWhile fun b => decide (b = 0)).reverse

/-- A byte that means yes when it is not 0 (R185). -/
def flagOf (bs : List Byte) : Bool :=
  decide (natOf bs ≠ 0)

/-- The REGISTER body, 21 bytes (R185). An account number of 0 means absent. -/
def registerOf (b : List Byte) : RegisterRequest :=
  let account := natOf (slice b 16 4)
  { hull := hullOf (slice b 0 8)
    direction := natOf (slice b 8 1)
    cls := natOf (slice b 9 1)
    length := natOf (slice b 10 2)
    draught := natOf (slice b 12 2)
    laden := flagOf (slice b 14 1)
    accountKind := natOf (slice b 15 1)
    accountNumber := if account = 0 then none else some account
    priority := flagOf (slice b 20 1) }

/-- The fixed body length of a kind (R177): 21 for REGISTER (R185), none for the kinds that carry no data, and
Config's for the rest (log entry 3). -/
def bodyLength : RequestKind → Nat
  | .register => 21
  | .start => 0
  | .halt => 0
  | .resume => 0
  | .abandon => 0
  | .forceTally => 0
  | .lampClear => 0
  | .conditionRead => 0
  | .queryFlight => 0
  | .queryQueues => 0
  | .queryLockage => 0
  | .queryOutlets => 0
  | .queryLink => 0
  | .peek => 0
  | k => Config.bodyLength k

/-- The command a request body spells; `none` for a RESTART of a kind that is neither KEEP nor CLEAR (R172). -/
def requestOf (q : Port) (tag : Tag) (k : RequestKind) (b : List Byte) : Option Instr :=
  match k with
  | .loadFlight => some (.loadFlight tag (flightOf b))
  | .loadReach => some (.loadReach tag (reachNamed b) (reachLoadOf b))
  | .loadWorks => some (.loadWorks tag (worksOf b))
  | .loadTariff => some (.loadTariff tag (tariffOf b))
  | .loadTurns => some (.loadTurns tag (turnsOf b))
  | .loadOutlets => some (.loadOutlets tag (outletsOf b))
  | .loadResponses => some (.loadResponses tag (responsesOf b))
  | .setClock => some (.setClock tag (natField k b 0) (natField k b 1))
  | .start => some (.start tag)
  | .register => some (.register tag (registerOf b))
  | .cancel => some (.cancel tag (natField k b 0))
  | .entryClear => some (.entryClear tag (natField k b 0))
  | .entryRefuse => some (.entryRefuse tag (natField k b 0))
  | .exitClear => some (.exitClear tag (natField k b 0))
  | .exitRefuse => some (.exitRefuse tag (natField k b 0))
  | .moveDone => some (.moveDone tag (natField k b 0) (natField k b 1))
  | .trim => some (.trim tag (natField k b 0) (fieldOf k b 1))
  | .halt => some (.halt tag)
  | .resume => some (.resume tag)
  | .abandon => some (.abandon tag)
  | .forceTally => some (.forceTally tag)
  | .captureDatum => some (.captureDatum tag (natField k b 0) (fieldOf k b 1))
  | .lampClear => some (.lampClear tag)
  | .restart =>
    match Config.restartKindOfCode (fieldOf k b 0) with
    | some .keep => some (.restartKeep tag)
    | some .clear => some (.restartClear tag)
    | none => none
  | .conditionRead => some (.conditionRead tag)
  | .queryFlight => some (.queryFlight tag)
  | .queryQueues => some (.queryQueues tag)
  | .queryLockage => some (.queryLockage tag)
  | .queryOutlets => some (.queryOutlets tag)
  | .queryLink => some (.queryLink tag)
  | .taken => some (.taken q tag (natField k b 0))
  | .peek => some (.peek q tag)

end Sys2Proof.Machine
end

