-- ==== Sys2Proof/Machine/Flags.lean ====
section
/-! DEFINITION. The condition record's entries (section 11.4): what each note does to them, which are critical,
and the clearing once shown. -/

namespace Sys2Proof.Machine

/-- The record holds any entry (R178's conditions-pending mark). -/
def Conditions.any (c : Conditions) : Bool :=
  decide (c ≠ Conditions.empty)

/-- The record holds a critical entry: RESTARTED, BAD_MESSAGE, LINK_LOST or a halting fault (R179). -/
def Conditions.critical (c : Conditions) : Bool :=
  c.restarted.isSome || decide (0 < c.badMessage) || c.linkLost
    || (match c.fault with | some f => f.halting | none => false)

/-- BAD_MESSAGE is noted, its count held at 255 (R179). -/
def Conditions.noteBadMessage (c : Conditions) : Conditions :=
  { c with badMessage := min 255 (c.badMessage + 1) }

def Conditions.noteLinkLost (c : Conditions) : Conditions :=
  { c with linkLost := true }

def Conditions.noteLinkRestored (c : Conditions) : Conditions :=
  { c with linkRestored := true }

/-- The reach's slot takes its new class (R8, R179). -/
def Conditions.noteReach (c : Conditions) (r : Reach) (cls : ReadingClass) : Conditions :=
  { c with reaches := c.reaches.set r (some cls) }

/-- The lamp's mark is set (R43, R179). -/
def Conditions.noteLamp (c : Conditions) (f : Face) (k : Colour) : Conditions :=
  { c with lamps := setLamp c.lamps f k true }

/-- The halting mark as it stands. -/
def Conditions.halting (c : Conditions) : Bool :=
  match c.fault with
  | some f => f.halting
  | none => false

/-- The latest fault is replaced; the mark is set on a HALT and otherwise left as it stands (R117, R179). -/
def Conditions.noteFault (c : Conditions) (kind : FaultKind) (lockage index : Option Nat) (answer : Answer) :
    Conditions :=
  { c with fault := some { kind := kind, lockage := lockage, index := index
                           halting := decide (answer = .halt) || c.halting } }

/-- TURN_REJECTED is noted with its pattern (R68, R179). -/
def Conditions.noteRejected (c : Conditions) (pattern : Pattern) : Conditions :=
  { c with turnRejected := some pattern }

/-- A change into a limited or unordered class is noted; a change into VALID or SETTLING is not (R8, R18). -/
def notedClass : ReadingClass → Bool
  | .limitedLow => true
  | .limitedHigh => true
  | .stale => true
  | .broken => true
  | _ => false

end Sys2Proof.Machine
end

