-- ==== Sys2Proof/Machine/Levels.lean ====
section
/-! DEFINITION. What the level monitor judges from its reach records (chapter 1): level arithmetic, compares,
chamber states, passability, the flood judgement, isolation and drift. Reads only. -/

namespace Sys2Proof.Machine

/-- Round half away from zero the quotient x / y, for y above 0 (spec/00_scope.md, "Rounding"). -/
def roundAway (x y : Int) : Int :=
  if 0 ≤ x then (2 * x + y) / (2 * y) else -((2 * (-x) + y) / (2 * y))

/-- The level of one raw value (R9). -/
def rawLevel (g : ReachGroup) (raw : Nat) : Int :=
  g.datum + roundAway (((raw : Int) - g.zero) * g.span) 4096

/-- The mean of the levels of four raws (R10). -/
def meanLevel (g : ReachGroup) (window : List Nat) : Int :=
  roundAway ((window.map (rawLevel g)).foldl (· + ·) 0) 4

/-- A raw clamped to the raw window (R2, R3). -/
def clampRaw (g : ReachGroup) (raw : Nat) : Nat :=
  if raw < g.rmin then g.rmin else if g.rmax < raw then g.rmax else raw

/-- The class R3 gives a raw. -/
def classOf (g : ReachGroup) (raw : Nat) : ReadingClass :=
  if raw < g.rmin then .limitedLow else if g.rmax < raw then .limitedHigh else .valid

/-- A value appended at the newest end of a run of four, the oldest leaving a full one (R2, R3, R5). -/
def pushFour (xs : List Nat) (x : Nat) : List Nat :=
  if xs.length < 4 then xs ++ [x] else xs.drop (xs.length - 3) ++ [x]

/-- The difference of two raws without sign (R4, R5). -/
def rawDiff (a b : Nat) : Nat := (a - b) + (b - a)

/-- The level of a reach, present in an ordered class (R10). -/
def Part.level (p : Part) (r : Reach) : Option Int :=
  if (p.reaches.get r).cls.ordered then
    (p.settings.reach.get r).map fun g => meanLevel g (p.reaches.get r).window
  else none

/-- The cause of an UNORDERED compare (R12). -/
def unorderedCause (u w : ReadingClass) : UnorderedCause :=
  if u = .broken ∨ w = .broken then .broken
  else if u = .stale ∨ w = .stale then .stale
  else .limited

/-- The compare of two levels with their classes and the tolerance t (R11). -/
def compareLevels (cu cw : ReadingClass) (lu lw t : Int) : Compare :=
  if t < lu - lw ∧ cu ≠ .limitedLow ∧ cw ≠ .limitedHigh then .above
  else if lu - lw < -t ∧ cu ≠ .limitedHigh ∧ cw ≠ .limitedLow then .below
  else if -t ≤ lu - lw ∧ lu - lw ≤ t ∧ cu.limited = false ∧ cw.limited = false then .level
  else .unordered (unorderedCause cu cw)

/-- The compare across gate g (R11). With FLIGHT or a REACH group UNSET nothing is proven (log entry 12). -/
def Part.compare (p : Part) (g : Gate) : Compare :=
  match p.level g.above, p.level g.below, p.settings.flight with
  | some lu, some lw, some f =>
    compareLevels (p.reaches.get g.above).cls (p.reaches.get g.below).cls lu lw (f.tolerance.get g)
  | _, _, _ => .unordered (unorderedCause (p.reaches.get g.above).cls (p.reaches.get g.below).cls)

/-- The compare is not UNORDERED (R33). -/
def Compare.isOrdered : Compare → Bool
  | .unordered _ => false
  | _ => true

/-- A level lies within n ± t, both ends included (R13). -/
def inBand (level n t : Int) : Bool :=
  decide (n - t ≤ level ∧ level ≤ n + t)

/-- The level of a reach whose class is VALID. -/
def Part.validLevel (p : Part) (r : Reach) : Option Int :=
  if (p.reaches.get r).cls = .valid then p.level r else none

/-- The chamber state (R13). -/
def Part.chamberState (p : Part) (c : Chamber) : ChamberState :=
  match p.settings.flight, p.validLevel c.reach with
  | some f, some l =>
    match c with
    | .c1 =>
      if p.validLevel .head = none then .unknown
      else if p.compare .g0 = .level then .full
      else if inBand l f.n1 f.tolerance.g1 then .empty
      else .part
    | .c2 =>
      if inBand l f.n1 f.tolerance.g1 then .full
      else if inBand l f.n2 f.tolerance.g2 then .empty
      else .part
    | .c3 =>
      if p.validLevel .tail = none then .unknown
      else if p.compare .g3 = .level then .empty
      else if inBand l f.n2 f.tolerance.g2 then .full
      else .part
  | _, _ => .unknown

/-- A pound's depth over its sill is proven to be at least `need` (R14). -/
def Part.depthProven (p : Part) (r : Reach) (sill need : Int) : Bool :=
  match p.level r with
  | some l => decide ((p.reaches.get r).cls ≠ .limitedLow) && decide (need ≤ l - sill)
  | none => false

/-- The greatest draught of a convoy (R14). -/
def maxDraught (vs : List Vessel) : Nat :=
  vs.foldl (fun d v => max d v.draught) 0

/-- The depth test of HEAD for a convoy (R14). -/
def Part.headProven (p : Part) (vs : List Vessel) : Bool :=
  match p.settings.flight with
  | some f => p.depthProven .head f.headSill (maxDraught vs + f.keelClearance)
  | none => false

/-- The depth test of TAIL for a convoy (R14). -/
def Part.tailProven (p : Part) (vs : List Vessel) : Bool :=
  match p.settings.flight with
  | some f => p.depthProven .tail f.tailSill (maxDraught vs + f.keelClearance)
  | none => false

/-- A convoy is passable when both depth tests are proven (R14). -/
def Part.passable (p : Part) (vs : List Vessel) : Bool :=
  p.headProven vs && p.tailProven vs

/-- The flood judgement of one pound (R15). -/
def poundFlood (c : ReadingClass) (level limit : Int) : Flood :=
  match c with
  | .valid => if limit < level then .flooded else .navigable
  | .limitedHigh => if limit < level then .flooded else .unproven
  | .limitedLow => if limit < level then .unproven else .navigable
  | _ => .unproven

/-- The flood judgement of a pound as it stands; without a level or a limit it is UNPROVEN (R15). -/
def Part.floodOf (p : Part) (r : Reach) (limit : Option Int) : Flood :=
  match p.level r, limit with
  | some l, some m => poundFlood (p.reaches.get r).cls l m
  | _, _ => .unproven

/-- The flight's judgement from its pounds' (R15). -/
def Flood.join : Flood → Flood → Flood
  | .flooded, _ => .flooded
  | _, .flooded => .flooded
  | .unproven, _ => .unproven
  | _, .unproven => .unproven
  | .navigable, .navigable => .navigable

/-- The flood judgement of the flight (R15). -/
def Part.flood (p : Part) : Flood :=
  (p.floodOf .head (p.settings.flight.map (·.headFlood))).join
    (p.floodOf .tail (p.settings.flight.map (·.tailFlood)))

/-- Chamber c is isolated: its gates CLOSED and its sluices at 0, by the works controller's records (R16). -/
def Part.isolated (p : Part) (c : Chamber) : Bool :=
  decide ((p.gates.get c.upperGate).state = .closed) && decide ((p.gates.get c.lowerGate).state = .closed)
    && decide ((p.sluices.get c.upperGate).position = 0) && decide ((p.sluices.get c.lowerGate).position = 0)

/-- Drift beyond the limit is proven from the class, the level and the isolation level (R17). -/
def driftProven (cls : ReadingClass) (level isolation limit : Int) : Bool :=
  match cls with
  | .valid => decide (limit < level - isolation) || decide (limit < isolation - level)
  | .limitedHigh => decide (limit < level - isolation)
  | .limitedLow => decide (limit < isolation - level)
  | _ => false

/-- Drift of chamber c is proven as the reading stands (R17). -/
def Part.drifts (p : Part) (c : Chamber) : Bool :=
  match p.level c.reach, (p.reaches.get c.reach).isolationLevel,
      (p.settings.reach.get c.reach).bind (·.drift) with
  | some l, some i, some limit => p.isolated c && driftProven (p.reaches.get c.reach).cls l i limit
  | _, _, _ => false

/-- One chamber's reach record after its isolation is examined (R16): the isolation level is recorded at the
first moment the chamber is isolated and VALID, and cleared when the isolation has ended. -/
def Part.examined (p : Part) (c : Chamber) : ReachRec :=
  if p.isolated c then
    if (p.reaches.get c.reach).isolationLevel = none ∧ (p.reaches.get c.reach).cls = .valid then
      { p.reaches.get c.reach with isolationLevel := p.level c.reach }
    else p.reaches.get c.reach
  else { p.reaches.get c.reach with isolationLevel := none, driftReported := false }

/-- The isolation of every chamber examined (R16). -/
def Part.examineIsolation (p : Part) : Part :=
  { p with reaches := { p.reaches with c1 := p.examined .c1, c2 := p.examined .c2, c3 := p.examined .c3 } }

end Sys2Proof.Machine
end

