-- ==== Sys2Proof/Machine/Ops.lean ====
section
/-! DEFINITION. The named operations every block uses: sending on a port (R178, R184), replying, changing the
condition record, reading the current step, the counters the part assigns, and the passing of time. -/

namespace Sys2Proof.Machine

/-- A message is added to the end of what a port has sent (R178). -/
def Part.send (p : Part) (q : Port) (m : Msg) : Part :=
  { p with sent := p.sent.set q (p.sent.get q ++ [m]) }

/-- An event is sent once on port A (R184). -/
def Part.event (p : Part) (e : Event) : Part :=
  p.send .a (.event e)

/-- The conditions-pending mark, carried on port A only (R178). -/
def Part.mark (p : Part) (q : Port) : Option Bool :=
  if q = .a then some p.link.conditions.any else none

/-- An ACCEPTED reply with its data (R178). -/
def Part.accept (p : Part) (q : Port) (tag : Tag) (d : ReplyData) : Part :=
  p.send q (.accepted tag (p.mark q) d)

/-- A REFUSED reply with its reason alone (R178). -/
def Part.refuse (p : Part) (q : Port) (tag : Tag) (r : Reason) : Part :=
  p.send q (.refused tag (p.mark q) r)

/-- The condition record changed by a note. -/
def Part.note (p : Part) (f : Conditions → Conditions) : Part :=
  { p with link := { p.link with conditions := f p.link.conditions } }

/-- An ACCEPTED reply whose data is read after the request's effect but which is sent before the messages that
effect produces on the port (R178); its mark is that of the moment before the effect (log entry 10). -/
def Part.acceptFirst (p : Part) (tag : Tag) (effect : Part → Part) (d : Part → ReplyData) : Part :=
  let after := effect { p with sent := p.sent.set .a [] }
  let onA := p.sent.a ++ [Msg.accepted tag (p.mark .a) (d after)] ++ after.sent.a
  { after with sent := after.sent.set .a onA }

/-- The step in hand of the current lockage (R91). -/
def Part.curStep (p : Part) : Option PlanStep :=
  match p.lockage with
  | some l => l.plan[l.current - 1]?
  | none => none

/-- The current lockage record changed, if there is one. -/
def Part.onLockage (p : Part) (f : Lockage → Lockage) : Part :=
  { p with lockage := p.lockage.map f }

/-- The number after n among 1..65,535, with 65,535 followed by 1 (spec/00_scope.md, "Counters and numbers"). -/
def nextNumber (n : Nat) : Nat :=
  if n < 65535 then n + 1 else 1

/-- A duration of the settings, in seconds, as ms left on a timer. -/
def secondsToMs (s : Nat) : Nat := 1000 * s

/-- The clock as recorded by a block that needs a set clock (R167); an UNSET clock cannot be met (log entry 12). -/
def Part.clockNow (p : Part) : Clock :=
  p.clock.getD ⟨0, 0⟩

/-- One millisecond off the time left on a timer, never below 0. -/
def lessOne (t : Option Nat) : Option Nat :=
  t.map (· - 1)

/-- A receiver after one more millisecond without a byte (R176). -/
def Receiver.tick : Receiver → Receiver
  | .hunting => .hunting
  | .inFrame len bytes gap => .inFrame len bytes (min (Config.gapLimit + 1) (gap + 1))

/-- A gate record after one millisecond. -/
def GateRec.tick (r : GateRec) : GateRec :=
  { r with travelTimer := lessOne r.travelTimer }

/-- A sluice record after one millisecond. -/
def SluiceRec.tick (r : SluiceRec) : SluiceRec :=
  { r with
    stepTimer := lessOne r.stepTimer
    rampTimer := lessOne r.rampTimer
    transfer := r.transfer.map fun t => { t with timer := lessOne t.timer } }

/-- A reach record after one millisecond. -/
def ReachRec.tick (r : ReachRec) : ReachRec :=
  { r with sampleTimer := r.sampleTimer - 1 }

/-- A lockage record after one millisecond. -/
def Lockage.tick (l : Lockage) : Lockage :=
  { l with moveTimer := lessOne l.moveTimer, windowTimer := lessOne l.windowTimer }

/-- One millisecond passes with nothing commanded: every running timer has 1 ms less left, and nothing else
changes; an expiry is a command of its own (log entry 1). -/
def Part.tick (p : Part) : Part :=
  { p with
    reaches := p.reaches.map ReachRec.tick
    gates := p.gates.map GateRec.tick
    sluices := p.sluices.map SluiceRec.tick
    lampTimer := p.lampTimer - 1
    lockage := p.lockage.map Lockage.tick
    secondCount := p.secondCount - 1
    link := { p.link with
      receivers := p.link.receivers.map Receiver.tick
      watchdog := lessOne p.link.watchdog } }

end Sys2Proof.Machine
end

