-- ==== Sys2Proof/Machine/Signals.lean ====
section
/-! DEFINITION. The signal controller's derivations (sections 2.6 and 2.7): the shown aspects, the lamp commands
and outputs that follow them, and the first showing of PROCEED on the entry face. -/

namespace Sys2Proof.Machine

/-- The current step is a move through the face's gate in the direction the face serves (R40). -/
def Part.movesThrough (p : Part) (f : Face) : Bool :=
  match p.curStep with
  | some s => decide (s.work = .move f.gate f.direction)
  | none => false

/-- The shown aspect of a face: the first row of R40's table that applies. -/
def Part.shownAspect (p : Part) (f : Face) : Shown :=
  let r := faceOf p.faces f
  if f.isApproach ∧ (p.mode = .startup ∨ p.mode = .survey ∨ p.mode = .halted) then .outOfService
  else if p.mode = .halted then .stop
  else if r.awaited then .stop
  else
    match r.requested with
    | .proceed => if (p.gates.get f.gate).state = .open_ ∧ p.movesThrough f then .proceed else .stop
    | .ready => if p.link.lost then .stop else .ready
    | .stop => .stop

/-- The command of a lamp by its face's shown aspect (R42). -/
def lampCommandOf : Shown → Colour → LampCommand
  | .stop, .red => .lit
  | .stop, .green => .dark
  | .ready, .red => .lit
  | .ready, .green => .lit
  | .proceed, .red => .dark
  | .proceed, .green => .lit
  | .outOfService, .red => .flash
  | .outOfService, .green => .dark

/-- A lamp whose command changes takes its new output at once; a FLASH command starts lit (R42). -/
def LampRec.follow (l : LampRec) (c : LampCommand) : LampRec :=
  if l.command = c then l else { l with command := c, output := decide (c ≠ .dark) }

/-- Every face's shown aspect derived afresh (R40). -/
def Part.deriveFaces (p : Part) : Part :=
  { p with faces := faceMap fun f => { faceOf p.faces f with shown := p.shownAspect f } }

/-- The lamps follow the shown aspects at once (R40, R42). -/
def Part.followLamps (p : Part) : Part :=
  { p with lamps := lampMap fun f c =>
      (lampOf p.lamps f c).follow (lampCommandOf (faceOf p.faces f).shown c) }

/-- The step in hand is the entry move and its face shows PROCEED (R100). -/
def Part.entryShown (p : Part) : Bool :=
  match p.curStep with
  | some ⟨.move g d, .entry⟩ => decide ((faceOf p.faces (faceServing g d)).shown = .proceed)
  | _ => false

/-- The first showing of PROCEED on the entry face sets entry passed (R100). -/
def Part.markEntry (p : Part) : Part :=
  if p.entryShown then p.onLockage fun l => { l with entryPassed := true } else p

/-- The signal controller's derivation, made at every change of one of its inputs (R40). -/
def Part.refreshFaces (p : Part) : Part :=
  p.deriveFaces.followLamps.markEntry

/-- A face's requested aspect is recorded, in every mode (R41). -/
def Part.setRequested (p : Part) (f : Face) (a : Aspect) : Part :=
  { p with faces := setFace p.faces f { faceOf p.faces f with requested := a } }

/-- A request for STOP or READY on a face (R41). -/
def Part.requestAspect (p : Part) (f : Face) (a : Aspect) : Part :=
  (p.setRequested f a).refreshFaces

/-- STOP requested on every face (R41, R94). -/
def Part.requestAllStop (p : Part) : Part :=
  ({ p with faces := faceMap fun f => { faceOf p.faces f with requested := .stop } }).refreshFaces

/-- The lamp decision of a face begins or ends being awaited (R39, R43). -/
def Part.setAwaited (p : Part) (f : Face) (b : Bool) : Part :=
  { p with faces := setFace p.faces f { faceOf p.faces f with awaited := b } }

/-- A face has a failed lamp (R43). -/
def Part.hasFailedLamp (p : Part) (f : Face) : Bool :=
  (lampOf p.lamps f .red).failed || (lampOf p.lamps f .green).failed

/-- One lamp at the lamp refresh, with whether its current is sensed (R42). -/
def LampRec.refreshed (l : LampRec) (current : Bool) : LampRec :=
  let out := match l.command with
    | .flash => !l.output
    | .lit => true
    | .dark => false
  let armed := if out && l.litLast then true else if out then l.armed else false
  { command := l.command, output := out, litLast := out, armed := armed
    failed := l.failed || (armed && !current) }

end Sys2Proof.Machine
end

