-- ==== Sys2Proof/Machine/Works.lean ====
section
/-! DEFINITION. The works controller's own operations (sections 2.1 to 2.4): passages and the interlock, the
OPEN and CLOSE commands, one step of a sluice, the close command, and the ramp. -/

namespace Sys2Proof.Machine

/-- The passage of gate g is closed: at its CLOSED limit with its sluice at 0, judged from the inputs (R22). -/
def Part.passageClosed (p : Part) (g : Gate) : Bool :=
  (p.gates.get g).atClosed && decide ((p.sluices.get g).position = 0)

/-- The passage of a neighbour that may not exist: HEAD and TAIL impose nothing (R22). -/
def Part.farClosed (p : Part) : Option Gate → Bool
  | some g => p.passageClosed g
  | none => true

/-- The through-path interlock of a gate and its sluice (R22). -/
def Part.interlock (p : Part) (g : Gate) : Bool :=
  p.farClosed g.before && p.farClosed g.after

/-- A gate record is written; isolation is re-examined (R16) and the faces derived again (R23, R40). -/
def Part.putGate (p : Part) (g : Gate) (r : GateRec) : Part :=
  ({ p with gates := p.gates.set g r }).examineIsolation.refreshFaces

/-- A sluice record is written; isolation is re-examined (R16, R29). -/
def Part.putSluice (p : Part) (k : Sluice) (r : SluiceRec) : Part :=
  ({ p with sluices := p.sluices.set k r }).examineIsolation

/-- The travel limit of a gate as timer ms; not started while WORKS is UNSET (R23). -/
def Part.travelLimit (p : Part) (g : Gate) : Option Nat :=
  p.settings.works.map fun w => secondsToMs (w.travelLimit.get g)

/-- The step limit of a sluice as timer ms; not started while WORKS is UNSET (R29). -/
def Part.stepLimit (p : Part) (k : Sluice) : Option Nat :=
  p.settings.works.map fun w => secondsToMs (w.stepLimit.get k)

/-- The transfer limit of a sluice as timer ms (R32). -/
def Part.transferLimit (p : Part) (k : Sluice) : Option Nat :=
  p.settings.works.map fun w => secondsToMs (w.transferLimit.get k)

/-- The ramp interval of a sluice as timer ms (R33). -/
def Part.rampInterval (p : Part) (k : Sluice) : Option Nat :=
  p.settings.works.map fun w => secondsToMs (w.rampInterval.get k)

/-- cap + trim clamped to 1..15 (R29). -/
def clampCap (cap : Nat) (trim : Int) : Nat :=
  let c : Int := cap + trim
  if c < 1 then 1 else if 15 < c then 15 else c.toNat

/-- The effective cap of a sluice (R29); with WORKS UNSET no transfer runs and the cap counts as 1 (log entry 12). -/
def Part.effectiveCap (p : Part) (k : Sluice) : Nat :=
  clampCap (match p.settings.works with | some w => w.cap.get k | none => 1) (p.sluices.get k).trim

/-- The CLOSE command (R25). In CLOSED it completes at once and the record stands. -/
def Part.closeGate (p : Part) (g : Gate) (c : Commander) : Part :=
  let r := p.gates.get g
  match r.state with
  | .closed => p
  | .closing => p.putGate g { r with commander := c }
  | _ => p.putGate g { r with state := .closing, drive := .closeDrive, travelTimer := p.travelLimit g
                              openPending := false, commander := c }

/-- How the works controller answers the OPEN command (R24). -/
inductive OpenAnswer where
  | completed | taken | declined
deriving DecidableEq, Repr

/-- The answer to the OPEN command as things stand (R24). -/
def Part.openAnswer (p : Part) (g : Gate) : OpenAnswer :=
  match (p.gates.get g).state with
  | .open_ => .completed
  | .opening => .taken
  | _ => if p.compare g = .level ∧ p.interlock g then .taken else .declined

/-- The OPEN command from the sequencer (R24). -/
def Part.openGate (p : Part) (g : Gate) : Part :=
  let r := p.gates.get g
  match r.state with
  | .open_ => p
  | .opening => p
  | _ =>
    if p.compare g = .level ∧ p.interlock g then
      p.putGate g { r with state := .opening, drive := .openDrive, travelTimer := p.travelLimit g
                           openPending := true, commander := .sequencer }
    else p

/-- A travelling gate stopped by E_STOP or OPERATOR_HALT in REST or STARTUP (R116). -/
def Part.stopGate (p : Part) (g : Gate) : Part :=
  let r := p.gates.get g
  match r.state with
  | .opening => p.putGate g { r with state := .stopped, drive := .off, travelTimer := none }
  | .closing => p.putGate g { r with state := .stopped, drive := .off, travelTimer := none }
  | _ => p

/-- What a halt does to a gate (R38). -/
def Part.haltGate (p : Part) (g : Gate) : Part :=
  let r := p.gates.get g
  match r.state with
  | .opening => p.putGate g { r with state := .stopped, drive := .off, travelTimer := none, openPending := false }
  | .closing => p.putGate g { r with state := .stopped, drive := .off, travelTimer := none, openPending := false }
  | .stopped => p.putGate g { r with openPending := false }
  | _ => p

/-- One step of a sluice is pulsed, recorded and timed (R30). -/
def Part.stepSluice (p : Part) (k : Sluice) (d : StepDir) : Part :=
  let r := p.sluices.get k
  let reach := match d with | .up => r.position + 1 | .down => r.position - 1
  p.putSluice k { r with step := some (d, reach), stepTimer := p.stepLimit k }

/-- The close command to a sluice (R31): the first down-step at once unless a step is in flight. -/
def Part.closeSluice (p : Part) (k : Sluice) : Part :=
  let r := p.sluices.get k
  if r.position = 0 then p.putSluice k { r with target := 0, state := .closed }
  else
    let p1 := p.putSluice k { r with target := 0, state := .closing }
    if r.step.isSome then p1 else p1.stepSluice k .down

/-- The transfer of sluice k is in RAMPING. -/
def Part.ramping (p : Part) (k : Sluice) : Bool :=
  match (p.sluices.get k).transfer with
  | some t => decide (t.phase = .ramping)
  | none => false

/-- The close command given again at a change of mode to a sluice HELD above 0 without a ramp (R31). -/
def Part.closeHeld (p : Part) (k : Sluice) : Part :=
  if (p.sluices.get k).state = .held ∧ 0 < (p.sluices.get k).position ∧ p.ramping k = false then p.closeSluice k
  else p

/-- The mode changes: every HELD sluice is closed again (R31) and the faces are derived again (R40). -/
def Part.enterMode (p : Part) (m : Mode) : Part :=
  (Gate.all.foldl Part.closeHeld { p with mode := m }).refreshFaces

/-- A due up-step may be issued: the compare is not UNORDERED and the interlock holds (R33). -/
def Part.mayStepUp (p : Part) (k : Sluice) : Bool :=
  (p.compare k).isOrdered && p.interlock k

/-- The ramp taken as far as it can go now (R32, R33, R35): down to the effective cap, up by a due step that
may be issued, or waiting. The state follows R33. -/
def Part.rampNext (p : Part) (k : Sluice) : Part :=
  let cap := p.effectiveCap k
  let r := { p.sluices.get k with target := cap }
  if r.step.isSome then p.putSluice k { r with state := .stepping }
  else if cap < r.position then (p.putSluice k { r with state := .stepping }).stepSluice k .down
  else if r.position = cap then p.putSluice k { r with state := .held }
  else if r.due = false then p.putSluice k { r with state := .stepping }
  else if p.mayStepUp k then (p.putSluice k { r with state := .stepping, due := false }).stepSluice k .up
  else p.putSluice k { r with state := .held }

/-- The transfer enters its CLOSING phase and the sluice takes the close command (R34). -/
def Part.beginClosing (p : Part) (k : Sluice) : Part :=
  let r := p.sluices.get k
  (p.putSluice k { r with transfer := r.transfer.map fun t => { t with phase := .closing }
                          rampTimer := none, due := false }).closeSluice k

/-- The transfer of sluice k has ended: CLOSING, at 0, with no step in flight (R35). -/
def Part.transferDone (p : Part) (k : Sluice) : Bool :=
  match (p.sluices.get k).transfer with
  | some t => decide (t.phase = .closing) && decide ((p.sluices.get k).position = 0)
      && (p.sluices.get k).step.isNone
  | none => false

/-- A transfer stopped as a halt stops it (R38): in RAMPING it is cleared without a head draw and the sluice
closed; in CLOSING it goes on with its timer stopped. A transfer that waits is forgotten. -/
def Part.stopTransfer (p : Part) (k : Sluice) : Part :=
  let r := { p.sluices.get k with waiting := none }
  match r.transfer with
  | some t =>
    match t.phase with
    | .ramping =>
      (p.putSluice k { r with transfer := none, trim := 0, rampTimer := none, due := false }).closeSluice k
    | .closing => p.putSluice k { r with transfer := some { t with timer := none } }
  | none => p.putSluice k r

/-- The CLOSE or OPEN work of the halt on every gate and sluice (R38). -/
def Part.haltWorks (p : Part) : Part :=
  Gate.all.foldl Part.stopTransfer (Gate.all.foldl Part.haltGate p)

end Sys2Proof.Machine
end

