-- ==== Sys2Proof/Machine/Faults.lean ====
section
/-! DEFINITION. The fault handler (chapter 7): the response drawn, the halt, and the taking of a report. -/

namespace Sys2Proof.Machine

/-- The response of a kind: HALT for a fixed kind, the response table's for a maskable one (R114, R115). -/
def Part.responseOf (p : Part) (k : FaultKind) : Response :=
  match p.settings.responses with
  | none => .halt
  | some t =>
    match k with
    | .sensorStale => t.sensorStale
    | .sensorLimited => t.sensorLimited
    | .transferTimeout => t.transferTimeout
    | .levelDrift => t.levelDrift
    | .lampFailed => t.lampFailed
    | .moveTimeout => t.moveTimeout
    | _ => .halt

/-- The number of the current lockage, if there is one. -/
def Part.lockageNumber (p : Part) : Option Nat :=
  p.lockage.map (·.number)

/-- The current step index, if there is a lockage. -/
def Part.stepIndex (p : Part) : Option Nat :=
  p.lockage.map (·.current)

/-- The FAULT event, sent with the mode at the report (R117). -/
def Part.sendFault (p : Part) (k : FaultKind) (s : Subject) (a : Answer) (m : Mode) : Part :=
  p.event (.fault k s a m p.lockageNumber p.stepIndex p.clock)

/-- The fault noted in the condition record as the latest (R117, R120). -/
def Part.noteFault (p : Part) (k : FaultKind) (a : Answer) : Part :=
  p.note fun c => c.noteFault k p.lockageNumber p.stepIndex a

/-- The move timer and the window timer of the current lockage stop (R94, R119). -/
def Part.stopLockageTimers (p : Part) : Part :=
  p.onLockage fun l => { l with moveTimer := none, windowTimer := none }

/-- The halt, in R119's order: halt record and mode, works, faces, timers, FAULT event and note, MODE event. -/
def Part.haltFlight (p : Part) (k : FaultKind) (s : Subject) : Part :=
  let h : HaltRec := { kind := k, subject := s, mode := p.mode, lockage := p.lockageNumber
                       index := p.stepIndex, time := p.clock }
  let p1 := ({ p with faults := { p.faults with halt := some h } }).enterMode .halted
  let p2 := p1.haltWorks.requestAllStop.stopLockageTimers
  ((p2.sendFault k s .halt p.mode).noteFault k .halt).event (.mode .halted (some k))

/-- A report under CONTINUE: sent and noted only when its kind is not yet among the kinds reported (R117). -/
def Part.continueFault (p : Part) (k : FaultKind) (s : Subject) : Part :=
  if p.faults.reported.contains k then p
  else
    (({ p with faults := { p.faults with reported := p.faults.reported ++ [k] } }).sendFault k s .continue_
      p.mode).noteFault k .continue_

/-- E_STOP and OPERATOR_HALT stop every travelling gate in REST and STARTUP (R116). -/
def Part.stopTravelling (p : Part) (k : FaultKind) : Part :=
  if k = .eStop ∨ k = .operatorHalt then Gate.all.foldl Part.stopGate p else p

/-- The fault handler takes a report according to the mode (R116). -/
def Part.report (p : Part) (k : FaultKind) (s : Subject) : Part :=
  match p.mode with
  | .working =>
    match p.responseOf k with
    | .halt => p.haltFlight k s
    | .continue_ => p.continueFault k s
  | .survey =>
    match p.responseOf k with
    | .halt => p.haltFlight k s
    | .continue_ => p.continueFault k s
  | .halted => p.noteFault k .none
  | _ => ((p.stopTravelling k).sendFault k s .none p.mode).noteFault k .none

/-- The sensor fault of an UNORDERED compare's cause (R28, R34, R99). -/
def sensorFault : UnorderedCause → FaultKind
  | .broken => .sensorBroken
  | .stale => .sensorStale
  | .limited => .sensorLimited

/-- While E-STOP stays asserted a report is taken each time the mode becomes WORKING or SURVEY (R121). -/
def Part.eStopStanding (p : Part) : Part :=
  if p.eStop ∧ (p.mode = .working ∨ p.mode = .survey) then p.report .eStop .flight else p

/-- A face's failed lamp is put to the fault handler: the decision is awaited while it answers (R43). -/
def Part.lampDecision (p : Part) (f : Face) : Part :=
  (((p.setAwaited f true).refreshFaces.report .lampFailed (.face f)).setAwaited f false).refreshFaces

/-- A PROCEED request on a face (R41, R43). -/
def Part.requestProceed (p : Part) (f : Face) : Part :=
  if p.hasFailedLamp f then (p.setRequested f .proceed).lampDecision f
  else p.requestAspect f .proceed

/-- The R28 re-test of a gate with open pending: travel on, pause, or take up again; an UNORDERED compare in the
pause is reported. -/
def Part.retestGate (p : Part) (g : Gate) : Part :=
  let r := p.gates.get g
  if r.openPending = false then p
  else
    match r.state, p.compare g with
    | .opening, .unordered c =>
      (p.putGate g { r with state := .stopped, drive := .off }).report (sensorFault c) (.gate g)
    | .opening, c =>
      if c = .level ∧ p.interlock g then p else p.putGate g { r with state := .stopped, drive := .off }
    | .stopped, .unordered c => p.report (sensorFault c) (.gate g)
    | .stopped, c =>
      if c = .level ∧ p.interlock g then p.putGate g { r with state := .opening, drive := .openDrive } else p
    | _, _ => p

end Sys2Proof.Machine
end

