-- ==== Sys2Proof/Machine/Tolls.lean ====
section
/-! DEFINITION. The toll calculator (chapter 8): the time band, the lines, the water shares and the LOCKAGE
record. Pure arithmetic on the lockage record, the TARIFF group and the clock. -/

namespace Sys2Proof.Machine

/-- Round half up: the quotient and whether the rounding added one (R132). -/
def halfUp (x y : Nat) : Nat × Bool :=
  if y ≤ 2 * (x % y) then (x / y + 1, true) else (x / y, false)

/-- A tariff of zeros, read only if TARIFF were UNSET at an ending, which cannot be met (log entry 12). -/
def Tariff.zero : Tariff :=
  { classes := ⟨⟨0, 0, 0, 100, false⟩, ⟨0, 0, 0, 100, false⟩, ⟨0, 0, 0, 100, false⟩, ⟨0, 0, 0, 100, false⟩,
                ⟨0, 0, 0, 100, false⟩, ⟨0, 0, 0, 100, false⟩, ⟨0, 0, 0, 100, false⟩, ⟨0, 0, 0, 100, false⟩⟩
    passPercent := 0, waterRate := 0, delayCredit := 0, returnPercent := 0
    hourBand := [], bandPercent := [] }

/-- The band percent of a lockage, by the hour of its turn time (R130). -/
def Tariff.bandPercentAt (t : Tariff) (turn : Clock) : Nat :=
  t.bandPercent.getD (t.hourBand.getD (turn.second / 3600) 0) 0

/-- The tariff fee S4 with whether any of its roundings added one (R133). -/
def Tariff.fee (t : Tariff) (band : Nat) (v : Vessel) : Nat × Bool :=
  let c := t.classes.get v.cls
  let charge := halfUp (c.rate * (v.length - c.freeLength)) 10
  let s1 := c.base + charge.1
  let s2 := if v.laden then halfUp (s1 * c.ladenPercent) 100 else (s1, false)
  let s3 := halfUp (s2.1 * band) 100
  let s4 := if v.accountKind = .pass then halfUp (s3.1 * t.passPercent) 100 else (s3.1, false)
  (s4.1, charge.2 || s2.2 || s3.2 || s4.2)

/-- The vessel's class is exempt (R134). -/
def Tariff.exempts (t : Tariff) (v : Vessel) : Bool :=
  (t.classes.get v.cls).exempt

/-- The lengths that share the water, in convoy order; none for an exempt vessel (R136). -/
def Tariff.weights (t : Tariff) (vs : List Vessel) : List (Option Nat) :=
  vs.map fun v => if t.exempts v then none else some v.length

/-- The divisible length (R136). -/
def divisible (ws : List (Option Nat)) : Nat :=
  ws.foldl (fun s w => s + w.getD 0) 0

/-- The floor of a weight's share of D over the divisible length (R137). -/
def floorShare (d total : Nat) : Option Nat → Nat
  | some w => d * w / total
  | none => 0

/-- The remainder of a weight's share (R137). -/
def shareRemainder (d total : Nat) : Option Nat → Nat
  | some w => d * w % total
  | none => 0

/-- How many non-exempt vessels come before the i-th for an extra unit: a larger remainder, or the same remainder
earlier in convoy order (R137). -/
def unitRank (d total : Nat) (ws : List (Option Nat)) (i : Nat) (w : Option Nat) : Nat :=
  (ws.zipIdx.filter fun x =>
    x.1.isSome && (decide (shareRemainder d total w < shareRemainder d total x.1)
      || (decide (shareRemainder d total x.1 = shareRemainder d total w) && decide (x.2 < i)))).length

/-- The units the floors leave over (R137). -/
def shortfall (d total : Nat) (ws : List (Option Nat)) : Nat :=
  d - (ws.map (floorShare d total)).foldl (· + ·) 0

/-- The water shares, one per vessel in convoy order (R136, R137). -/
def waterShares (d : Nat) (ws : List (Option Nat)) : List Nat :=
  let total := divisible ws
  if total = 0 ∨ d = 0 then ws.map fun _ => 0
  else
    ws.zipIdx.map fun x =>
      match x.1 with
      | none => 0
      | some w =>
        if unitRank d total ws x.2 (some w) < shortfall d total ws then d * w / total + 1 else d * w / total

/-- The fields of a line that come from the vessel alone (R142). -/
def Vessel.blankLine (v : Vessel) (exempt : Bool) : Line :=
  { ticket := v.ticket, hull := v.hull, cls := v.cls, length := v.length, accountKind := v.accountKind
    accountNumber := v.accountNumber, tariffFee := 0, waterShare := 0, lineFee := 0
    roundedUp := false, capped := false, exempt := exempt, creditFloored := false }

/-- The largest line fee (R135). -/
def lineCap : Nat := 999999

/-- A passage line (R133 to R135). -/
def Tariff.passageLine (t : Tariff) (band : Nat) (late : Bool) (v : Vessel) (share : Nat) : Line :=
  if t.exempts v then v.blankLine true
  else
    let s4 := t.fee band v
    let s5 := s4.1 + share
    let s6 := if late then s5 - t.delayCredit else s5
    { v.blankLine false with
      tariffFee := s4.1, waterShare := share
      lineFee := if lineCap < s6 then lineCap else s6
      roundedUp := s4.2
      capped := decide (lineCap < s6)
      creditFloored := late && decide (s5 < t.delayCredit) }

/-- A returned line (R139). -/
def Tariff.returnedLine (t : Tariff) (v : Vessel) : Line :=
  if t.exempts v then v.blankLine true
  else
    let fee := halfUp ((t.classes.get v.cls).base * t.returnPercent) 100
    { v.blankLine false with tariffFee := fee.1, lineFee := fee.1, roundedUp := fee.2 }

/-- An abandoned line (R140). -/
def Tariff.abandonedLine (t : Tariff) (v : Vessel) : Line :=
  v.blankLine (t.exempts v)

/-- The lines of an ended lockage by its outcome (R131). The late flag selects the delay credit. -/
def Tariff.lines (t : Tariff) (l : Lockage) (o : LockageOutcome) (due : Nat) : List Line :=
  match o with
  | .returned => l.convoy.map t.returnedLine
  | .abandoned => l.convoy.map t.abandonedLine
  | _ =>
    (l.convoy.zip (waterShares due (t.weights l.convoy))).map fun x =>
      t.passageLine (t.bandPercentAt l.turnTime) l.late x.1 x.2

/-- The lockage total (R141). -/
def totalOf (ls : List Line) : Nat :=
  ls.foldl (fun s x => s + x.lineFee) 0

/-- The water charged of the water due (R138). -/
def Tariff.charged (t : Tariff) (l : Lockage) (o : LockageOutcome) (due : Nat) : Nat :=
  match o with
  | .completed => if divisible (t.weights l.convoy) = 0 then 0 else due
  | .completedLate => if divisible (t.weights l.convoy) = 0 then 0 else due
  | _ => 0

/-- The LOCKAGE record of an ended lockage (R142). -/
def Tariff.record (t : Tariff) (l : Lockage) (o : LockageOutcome) (endTime : Clock) : LockageRecord :=
  let due := l.headDraws * t.waterRate
  let ls := t.lines l o due
  { number := l.number, direction := l.direction, cls := l.cls, outcome := o
    turnTime := l.turnTime, endTime := endTime, headDraws := l.headDraws
    waterDue := due, waterCharged := t.charged l o due, waterWaived := due - t.charged l o due
    tideWait := l.tideWait, late := l.late, total := totalOf ls, lines := ls }

/-- The record the toll calculator hands over at an ending (R131, R143). -/
def Part.tollRecord (p : Part) (l : Lockage) (o : LockageOutcome) : LockageRecord :=
  (p.settings.tariff.getD Tariff.zero).record l o p.clockNow

end Sys2Proof.Machine
end

