-- ==== Sys2Proof/Machine/Outlets.lean ====
section
/-! DEFINITION. The outlet unit's operations (chapter 9): appending and offering records, the counters and
their saturation, and the tally. -/

namespace Sys2Proof.Machine

/-- The tally counters by name (R153). -/
inductive Counter where
  | lockageRecords | vessels | completed | completedLate | returned | withdrawn | abandoned
  | lostToReset | headDraws | tollSum
deriving DecidableEq, Repr

def Counters.get (c : Counters) : Counter → Nat
  | .lockageRecords => c.lockageRecords
  | .vessels => c.vessels
  | .completed => c.completed
  | .completedLate => c.completedLate
  | .returned => c.returned
  | .withdrawn => c.withdrawn
  | .abandoned => c.abandoned
  | .lostToReset => c.lostToReset
  | .headDraws => c.headDraws
  | .tollSum => c.tollSum

def Counters.set (c : Counters) (k : Counter) (n : Nat) : Counters :=
  match k with
  | .lockageRecords => { c with lockageRecords := n }
  | .vessels => { c with vessels := n }
  | .completed => { c with completed := n }
  | .completedLate => { c with completedLate := n }
  | .returned => { c with returned := n }
  | .withdrawn => { c with withdrawn := n }
  | .abandoned => { c with abandoned := n }
  | .lostToReset => { c with lostToReset := n }
  | .headDraws => { c with headDraws := n }
  | .tollSum => { c with tollSum := n }

/-- The upper limit of a counter (R153, R154). -/
def Counter.limit : Counter → Nat
  | .tollSum => 99999999
  | _ => 65535

/-- A counter increased by n, held at its limit with the saturated mark set (R154). -/
def OutletUnit.bump (u : OutletUnit) (k : Counter) (n : Nat) : OutletUnit :=
  if k.limit < u.counters.get k + n then
    { u with counters := u.counters.set k k.limit, saturated := true }
  else { u with counters := u.counters.set k (u.counters.get k + n) }

/-- The outlet has a free slot; a disabled outlet is not tested (R152). -/
def Outlet.hasRoom (o : Outlet) : Bool :=
  !o.enabled || decide (o.queue.length < o.depth)

/-- Every enabled outlet has a free slot (R63, R152). -/
def OutletUnit.allRoom (u : OutletUnit) : Bool :=
  u.outlets.all Outlet.hasRoom

/-- A tally is pending or outstanding (R63). -/
def TallyState.inTheWay : TallyState → Bool
  | .pending _ _ => true
  | .outstanding _ => true
  | _ => false

def Part.putOutlet (p : Part) (q : Port) (o : Outlet) : Part :=
  { p with outlets := { p.outlets with outlets := p.outlets.outlets.set q o } }

/-- A record joins the tail of an enabled outlet's queue, and is offered if it becomes the head (R148, R149). -/
def Part.pushRecord (r : Record) (p : Part) (q : Port) : Part :=
  let o := p.outlets.outlets.get q
  if o.enabled then
    let p1 := p.putOutlet q { o with queue := o.queue ++ [r], state := .offered }
    if o.queue.isEmpty then p1.send q (.deliver r) else p1
  else p

/-- An append: the record takes the next sequence and joins every enabled outlet (R147, R148). -/
def Part.appendRecord (p : Part) (b : RecordBody) : Part :=
  let r : Record := { sequence := p.outlets.nextSequence, body := b }
  [Port.a, Port.b, Port.c].foldl (Part.pushRecord r)
    { p with outlets := { p.outlets with nextSequence := nextNumber p.outlets.nextSequence } }

/-- The TALLY record as it stands at the append (R156). -/
def OutletUnit.tallyRecord (u : OutletUnit) (forced periodic : Bool) : TallyRecord :=
  { number := u.nextTally, forced := forced, periodic := periodic, saturated := u.saturated
    counts := u.counters }

/-- A pending tally is appended once every enabled outlet has a free slot; the counters start again (R156). -/
def Part.tryTally (p : Part) : Part :=
  match p.outlets.tally with
  | .pending forced periodic =>
    if p.outlets.allRoom then
      let p1 := p.appendRecord (.tally (p.outlets.tallyRecord forced periodic))
      let u := { p1.outlets with counters := Counters.zero, saturated := false }
      let number := nextNumber p.outlets.nextTally
      { p1 with outlets := { u with nextTally := number, tally := .outstanding p.outlets.nextSequence } }
    else p
  | _ => p

/-- The counter of an outcome (R153). -/
def LockageOutcome.counter : LockageOutcome → Counter
  | .completed => .completed
  | .completedLate => .completedLate
  | .returned => .returned
  | .withdrawn => .withdrawn
  | .abandoned => .abandoned

/-- The counts of an ending, with its record if it made one (R153, R159). -/
def OutletUnit.countEnding (u : OutletUnit) (o : LockageOutcome) (r : Option LockageRecord) : OutletUnit :=
  let u1 := u.bump o.counter 1
  match r with
  | some x => ((u1.bump .lockageRecords 1).bump .vessels x.lines.length).bump .tollSum x.total
  | none => u1

/-- The interval has been reached (R155). -/
def OutletUnit.periodicDue (u : OutletUnit) : Bool :=
  decide (u.interval ≠ 0) && decide (u.interval ≤ u.counters.lockageRecords)

/-- The tally state after the periodic test and a waiting FORCE_TALLY (R155, R158, R159). -/
def OutletUnit.dueTally (u : OutletUnit) : TallyState :=
  match u.tally with
  | .waiting => .pending true u.periodicDue
  | .none => if u.periodicDue then .pending false true else .none
  | .pending forced periodic => .pending forced (periodic || u.periodicDue)
  | .outstanding n => .outstanding n

/-- What the outlet unit does at step 4 of an ending (R159). -/
def Part.countEnding (p : Part) (o : LockageOutcome) (r : Option LockageRecord) : Part :=
  let u := p.outlets.countEnding o r
  ({ p with outlets := { u with tally := u.dueTally } }).tryTally

/-- A head draw reported by the works controller: counted by the outlet unit (R35, R153), and by the lockage that
started the transfer while it is current, up to 255 (R94, R96). -/
def Part.headDraw (p : Part) (n : Nat) : Part :=
  { p with
    outlets := p.outlets.bump .headDraws 1
    lockage := p.lockage.map fun l =>
      if l.number = n then { l with headDraws := min 255 (l.headDraws + 1) } else l }

/-- The transfer of sluice k ends: timer, trim and transfer cleared, a head draw through S0 reported (R35). -/
def Part.endTransfer (p : Part) (k : Sluice) : Part :=
  let r := p.sluices.get k
  let ended := { r with transfer := none, trim := 0, rampTimer := none, due := false }
  let p1 := { p with sluices := p.sluices.set k ended }
  match r.transfer with
  | some t => if k = .g0 then p1.headDraw t.lockage else p1
  | none => p1

/-- An outlet offers its head once more after a restart (R149, R160). -/
def Part.offerHead (p : Part) (q : Port) : Part :=
  let o := p.outlets.outlets.get q
  match o.queue with
  | r :: _ => (p.putOutlet q { o with state := .offered }).send q (.deliver r)
  | [] => p.putOutlet q { o with state := .idle }

/-- The head of an outlet's queue leaves it (R150). -/
def Part.removeHead (p : Part) (q : Port) : Part :=
  let o := p.outlets.outlets.get q
  p.putOutlet q { o with queue := o.queue.tail }

/-- A sequence still stands on some enabled outlet (R157). -/
def OutletUnit.standing (u : OutletUnit) (n : Nat) : Bool :=
  !u.outlets.all fun o => !o.enabled || o.queue.all fun r => decide (r.sequence ≠ n)

/-- An outstanding tally that stands on no enabled outlet ceases to be outstanding (R157). -/
def Part.settleTally (p : Part) : Part :=
  match p.outlets.tally with
  | .outstanding n =>
    if p.outlets.standing n then p else { p with outlets := { p.outlets with tally := .none } }
  | _ => p

/-- The tests of R146 against a configuration as it would be stored. -/
def OutletUnit.busy (u : OutletUnit) (g : OutletsGroup) : Bool :=
  let b := u.outlets.b
  let c := u.outlets.c
  (decide (g.authorityEnable ≠ b.enabled) && !b.queue.isEmpty)
    || (decide (g.quayEnable ≠ c.enabled) && !c.queue.isEmpty)
    || (decide (g.accountsDepth ≠ u.outlets.a.depth) && !u.outlets.a.queue.isEmpty)
    || (decide (g.authorityDepth ≠ b.depth) && !b.queue.isEmpty)
    || (decide (g.quayDepth ≠ c.depth) && !c.queue.isEmpty)
    || u.tally.inTheWay
    || (decide (g.interval ≠ 0) && decide (g.interval ≤ u.counters.lockageRecords))

/-- The outlet unit takes a new configuration (R146). -/
def OutletUnit.configure (u : OutletUnit) (g : OutletsGroup) : OutletUnit :=
  { u with
    outlets := ⟨{ u.outlets.a with depth := g.accountsDepth },
                { u.outlets.b with enabled := g.authorityEnable, depth := g.authorityDepth },
                { u.outlets.c with enabled := g.quayEnable, depth := g.quayDepth }⟩
    interval := g.interval }

end Sys2Proof.Machine
end

