-- ==== Sys2Proof/Machine/Plan.lean ====
section
/-! DEFINITION. The plan builder (chapter 5): the predicted flight state, the five parts of a plan, and the
plan of a turn from the chamber states and gate records at the latch. -/

namespace Sys2Proof.Machine

/-- The predicted flight state (R78): each chamber's state and whether each gate is predicted OPEN. -/
structure Predicted where
  c1 : ChamberState
  c2 : ChamberState
  c3 : ChamberState
  opened : Four Bool
deriving DecidableEq, Repr

/-- The predicted effect of a step (R78). -/
def Predicted.after (f : Predicted) : Work → Predicted
  | .close g => { f with opened := f.opened.set g false }
  | .openGate g => { f with opened := f.opened.set g true }
  | .transfer .g0 => { f with c1 := .full }
  | .transfer .g1 => { f with c1 := .empty, c2 := .full }
  | .transfer .g2 => { f with c2 := .empty, c3 := .full }
  | .transfer .g3 => { f with c3 := .empty }
  | .move _ _ => f
  | .commit => f

/-- A plan in the building, with the state it predicts so far. -/
structure Draft where
  flight : Predicted
  steps : List PlanStep
deriving DecidableEq, Repr

/-- A step appended with its predicted effect applied (R78). -/
def Draft.add (d : Draft) (ph : Phase) (w : Work) : Draft :=
  { flight := d.flight.after w, steps := d.steps ++ [⟨w, ph⟩] }

/-- Steps appended in order, all of one phase. -/
def Draft.addAll (d : Draft) (ph : Phase) (ws : List Work) : Draft :=
  ws.foldl (fun x w => x.add ph w) d

/-- CLOSE for a gate predicted OPEN (R79). -/
def Draft.closeIfOpen (d : Draft) (g : Gate) : Draft :=
  if d.flight.opened.get g then d.add .prepare (.close g) else d

/-- The PREPARE part (R79). -/
def Draft.prepare (d : Draft) : Draft :=
  Gate.all.foldl Draft.closeIfOpen d

/-- The SETTING part of an UP plan (R80). -/
def Draft.setUp (d : Draft) : Draft :=
  let d1 := if d.flight.c3 ≠ .empty then d.addAll .setting [.transfer .g3] else d
  let d2 := if d1.flight.c1 ≠ .full then d1.addAll .setting [.transfer .g0] else d1
  if d2.flight.c2 ≠ .full then d2.addAll .setting [.transfer .g1, .transfer .g0] else d2

/-- The SETTING part of a DOWN plan (R81). -/
def Draft.setDown (d : Draft) : Draft :=
  let d1 := if d.flight.c3 ≠ .empty then d.addAll .setting [.transfer .g3] else d
  let d2 := if d1.flight.c2 ≠ .empty then d1.addAll .setting [.transfer .g2, .transfer .g3] else d1
  if d2.flight.c1 ≠ .full then d2.addAll .setting [.transfer .g0] else d2

/-- The SETTING part of a direction. -/
def Draft.set (d : Draft) : Direction → Draft
  | .up => d.setUp
  | .down => d.setDown

/-- OPEN, MOVE and CLOSE of one gate in a direction. -/
def passGate (g : Gate) (dir : Direction) : List Work :=
  [.openGate g, .move g dir, .close g]

/-- The ENTRY part (R82). -/
def Draft.enter (d : Draft) (dir : Direction) : Draft :=
  d.addAll .entry (passGate dir.entryGate dir)

/-- The COMMIT step of class C (R83). -/
def Draft.commitStep (d : Draft) (cc : ClearanceClass) : Draft :=
  if cc = .c then d.add .commit .commit else d

/-- The carrying steps of an UP plan before its exit (R84). -/
def carryUp : List Work :=
  .transfer .g2 :: passGate .g2 .up ++ .transfer .g1 :: passGate .g1 .up ++ [.transfer .g0]

/-- The carrying steps of a DOWN plan before its exit (R85). -/
def carryDown : List Work :=
  .transfer .g1 :: passGate .g1 .down ++ .transfer .g2 :: passGate .g2 .down ++ [.transfer .g3]

/-- The CARRYING and EXIT part (R84, R85). -/
def Draft.carry (d : Draft) : Direction → Draft
  | .up => (d.addAll .carrying carryUp).addAll .exit (passGate .g0 .up)
  | .down => (d.addAll .carrying carryDown).addAll .exit (passGate .g3 .down)

/-- The predicted state at the latch, from judged chambers and gate records (R77, R78). -/
def Part.predicted (p : Part) : Predicted :=
  { c1 := p.chamberState .c1, c2 := p.chamberState .c2, c3 := p.chamberState .c3
    opened := p.gates.map fun r => decide (r.state ≠ .closed) }

/-- The plan from a predicted state: prepare, set, enter, commit, carry (section 5.3). -/
def planFrom (f : Predicted) (d : Direction) (cc : ClearanceClass) : Draft :=
  ((((Draft.prepare { flight := f, steps := [] }).set d).enter d).commitStep cc).carry d

/-- Some chamber's state is UNKNOWN (R77). -/
def Predicted.unknown (f : Predicted) : Bool :=
  decide (f.c1 = .unknown) || decide (f.c2 = .unknown) || decide (f.c3 = .unknown)

/-- The plan builder's answer: a plan, or none because a chamber is UNKNOWN (R75, R77). -/
def Part.buildPlan (p : Part) (d : Direction) (cc : ClearanceClass) : Option (List PlanStep) :=
  if p.predicted.unknown then none else some (planFrom p.predicted d cc).steps

/-- The steps of phase RETURN (R109). -/
def returnSteps (d : Direction) : List PlanStep :=
  (passGate d.entryGate d.opposite).map fun w => ⟨w, .returning⟩

end Sys2Proof.Machine
end

