-- ==== Sys2Proof/Machine/Queues.lean ====
section
/-! DEFINITION. The vessel queues' operations (chapter 3): order, tickets, registration's tests, calls, convoy
formation and return. -/

namespace Sys2Proof.Machine

def Part.queueOf (p : Part) : Direction → List Vessel
  | .up => p.upQueue
  | .down => p.downQueue

def Part.setQueue (p : Part) (d : Direction) (q : List Vessel) : Part :=
  match d with
  | .up => { p with upQueue := q }
  | .down => { p with downQueue := q }

/-- The convoy of the current lockage, empty when there is none. -/
def Part.convoy (p : Part) : List Vessel :=
  match p.lockage with
  | some l => l.convoy
  | none => []

/-- The slots a queue reserves for a returnable convoy of its direction (R51). -/
def Part.reserved (p : Part) (d : Direction) : Nat :=
  match p.lockage with
  | some l => if l.direction = d ∧ l.entryPassed = false then l.convoy.length else 0
  | none => 0

/-- A queue is full when its records and reserved slots make 12 (R51). -/
def Part.queueFull (p : Part) (d : Direction) : Bool :=
  decide (Config.queueLimit ≤ (p.queueOf d).length + p.reserved d)

/-- Every record that holds a ticket in use (R48). -/
def Part.registered (p : Part) : List Vessel :=
  p.upQueue ++ p.downQueue ++ p.convoy

/-- The hull mark stands in a queue or in the convoy (R48, R49). -/
def Part.hullInUse (p : Part) (h : List Byte) : Bool :=
  p.registered.any fun v => decide (v.hull = h)

/-- The first value from t on that is not in use (R48). -/
def freeTicket : Nat → Nat → List Nat → Nat
  | 0, t, _ => t
  | n + 1, t, used => if used.contains t then freeTicket n (nextNumber t) used else t

/-- The ticket an accepted registration is assigned (R48). -/
def Part.newTicket (p : Part) : Nat :=
  freeTicket p.registered.length p.nextTicket (p.registered.map (·.ticket))

/-- A vessel's place among the waiting: behind the last priority record, or at the tail (R47). -/
def placeVessel (v : Vessel) (q : List Vessel) : List Vessel :=
  if v.priority then q.takeWhile (·.priority) ++ v :: q.dropWhile (·.priority) else q ++ [v]

/-- The position a newly placed vessel takes, 1 being the head (R47). -/
def placePosition (v : Vessel) (q : List Vessel) : Nat :=
  if v.priority then (q.takeWhile (·.priority)).length + 1 else q.length + 1

/-- A returned convoy at the head of its groups, in convoy order (R57). -/
def mergeConvoy (vs q : List Vessel) : List Vessel :=
  vs.filter (·.priority) ++ q.takeWhile (·.priority)
    ++ (vs.filter fun v => !v.priority) ++ q.dropWhile (·.priority)

/-- A hull mark character: A to Z or 0 to 9 (R46, R185). -/
def hullChar (b : Byte) : Bool :=
  (decide (0x41 ≤ b.toNat) && decide (b.toNat ≤ 0x5A)) || (decide (0x30 ≤ b.toNat) && decide (b.toNat ≤ 0x39))

/-- A hull mark of 1 to 8 such characters (R46). -/
def hullOk (h : List Byte) : Bool :=
  decide (0 < h.length) && decide (h.length ≤ 8) && h.all hullChar

/-- The account number is one its kind allows (R49, test 3). -/
def accountOk (k : AccountKind) (n : Option Nat) : Bool :=
  match k with
  | .cash => true
  | _ => match n with
    | some x => decide (1 ≤ x) && decide (x ≤ 99999999)
    | none => false

/-- The length after the raise of R50. -/
def raisedLength (n : Nat) : Nat := max 50 n

/-- The usable length of the FLIGHT group; 0 while it is UNSET, which is the model's choice (log entry 12). -/
def Part.usableLength (p : Part) : Nat :=
  match p.settings.flight with
  | some f => f.usableLength
  | none => 0

/-- The refusal of a REGISTER request, the first that applies (R49); `none` when every test passes. -/
def Part.registerRefusal (p : Part) (v : RegisterRequest) : Option Reason :=
  if p.mode = .startup ∨ p.mode = .survey then some .notInService
  else if p.hullInUse v.hull then some .duplicate
  else if (match Direction.ofCode v.direction with | some d => p.queueFull d | none => false) then
    some .queueFull
  else
    match Direction.ofCode v.direction, VesselClass.ofCode v.cls, AccountKind.ofCode v.accountKind with
    | some _, some _, some k =>
      if hullOk v.hull = false ∨ v.draught < 300 ∨ 5000 < v.draught ∨ accountOk k v.accountNumber = false then
        some .badValue
      else if p.usableLength < raisedLength v.length then some .tooLong
      else none
    | _, _, _ => some .badValue

/-- The account number the record keeps: dropped for CASH (R50). -/
def keptAccount (k : AccountKind) (n : Option Nat) : Option Nat :=
  if k = .cash then none else n

/-- The vessel record an accepted registration builds (R50). -/
def Part.newVessel (p : Part) (v : RegisterRequest) (d : Direction) (c : VesselClass) (k : AccountKind) : Vessel :=
  { ticket := p.newTicket, hull := v.hull, direction := d, cls := c, length := raisedLength v.length
    draught := v.draught, laden := v.laden, accountKind := k, accountNumber := keptAccount k v.accountNumber
    priority := v.priority, registered := p.clockNow }

/-- The call of a direction, judged from its head vessel alone (R53). -/
def Part.callOf (p : Part) (d : Direction) : Bool :=
  match p.queueOf d with
  | v :: _ => p.passable [v] && decide (v.length ≤ p.usableLength)
  | [] => false

/-- The priority bit of a direction (R53). -/
def Part.priorityOf (p : Part) (d : Direction) : Bool :=
  match p.queueOf d with
  | v :: _ => p.callOf d && v.priority
  | [] => false

/-- Both calls and priority bits as R53 gives them now. -/
def Part.presentCalls (p : Part) : Calls :=
  { up := p.callOf .up, down := p.callOf .down
    upPriority := p.priorityOf .up, downPriority := p.priorityOf .down }

/-- The calls are derived again (R54). -/
def Part.deriveCalls (p : Part) : Part :=
  { p with calls := p.presentCalls }

/-- The length a convoy takes: its lengths and a gap between neighbours (R55). -/
def convoyLength (gap : Nat) (vs : List Vessel) : Nat :=
  vs.foldl (fun s v => s + v.length) 0 + (vs.length - 1) * gap

/-- A convoy that may stand: its count, its length and its passability (R55). -/
def Part.convoyFits (p : Part) (f : Flight) (vs : List Vessel) : Bool :=
  decide (vs.length ≤ f.convoyMaximum) && decide (convoyLength f.vesselGap vs ≤ f.usableLength)
    && p.passable vs

/-- The convoy grown vessel by vessel in queue order until the first that does not join (R55). -/
def Part.growConvoy (p : Part) (f : Flight) : List Vessel → List Vessel → List Vessel
  | taken, [] => taken
  | taken, v :: rest =>
    if p.convoyFits f (taken ++ [v]) then p.growConvoy f (taken ++ [v]) rest else taken

/-- The convoy of a direction from its queue as it stands; the head always qualifies (R55). While FLIGHT is UNSET
the head vessel alone, which is the model's choice (log entry 12). -/
def Part.formConvoy (p : Part) (d : Direction) : List Vessel :=
  match p.queueOf d with
  | [] => []
  | v :: rest =>
    match p.settings.flight with
    | some f => p.growConvoy f [v] rest
    | none => [v]

/-- The convoy leaves its queue at the latch, and the calls are derived again (R56). -/
def Part.takeConvoy (p : Part) (d : Direction) (vs : List Vessel) : Part :=
  (p.setQueue d ((p.queueOf d).drop vs.length)).deriveCalls

/-- The convoy goes back to its queue, and the calls are derived again (R57). -/
def Part.returnConvoy (p : Part) (d : Direction) (vs : List Vessel) : Part :=
  (p.setQueue d (mergeConvoy vs (p.queueOf d))).deriveCalls

/-- The place of a ticket in a queue, 1 being the head. -/
def positionOf (ticket : Nat) (q : List Vessel) : Option Nat :=
  (q.findIdx? fun v => decide (v.ticket = ticket)).map (· + 1)

/-- The queue that holds a ticket, with the vessel and its position (R52). -/
def Part.findTicket (p : Part) (ticket : Nat) : Option (Direction × Vessel × Nat) :=
  match positionOf ticket p.upQueue, p.upQueue.find? fun v => decide (v.ticket = ticket) with
  | some i, some v => some (.up, v, i)
  | _, _ =>
    match positionOf ticket p.downQueue, p.downQueue.find? fun v => decide (v.ticket = ticket) with
    | some i, some v => some (.down, v, i)
    | _, _ => none

/-- The record at a position leaves its queue (R52). -/
def removeAt (i : Nat) (q : List Vessel) : List Vessel :=
  q.eraseIdx (i - 1)

end Sys2Proof.Machine
end

