-- ==== Sys2Proof/Machine/Sequencer.lean ====
section
/-! DEFINITION. The lockage sequencer (chapter 6): a step becoming current, its work, the OPEN tests, the moves,
the ends of a lockage, and what an announcement or a works report does to the step in hand. -/

namespace Sys2Proof.Machine

/-- The stage a step takes when it becomes current (R91, R95, R96, R100, R107); an OPEN step's own evaluation
follows at once and sets its stage (R97). -/
def Lockage.firstStage (l : Lockage) (s : PlanStep) : Stage :=
  match s.work with
  | .close _ => .travel
  | .transfer _ => .running
  | .openGate _ => .clearance
  | .move _ _ => if s.phase = .entry ∧ l.entry = .awaited then .awaiting else .underWay
  | .commit => .waiting

/-- The step is a carrying TRANSFER of a class C lockage (R96). -/
def Lockage.commits (l : Lockage) (s : PlanStep) : Bool :=
  match s.work with
  | .transfer _ => decide (s.phase = .carrying) && decide (l.cls = .c)
  | _ => false

/-- The lockage record as step i, s, becomes current (R93, R96). -/
def Lockage.takeStep (l : Lockage) (i : Nat) (s : PlanStep) : Lockage :=
  { l with current := i, stage := l.firstStage s, tideReported := false, moveDone := false
           commitment := if l.commits s then some .passed else l.commitment }

/-- The kinds reported are emptied (R113). -/
def Part.clearReported (p : Part) : Part :=
  { p with faults := { p.faults with reported := [] } }

/-- Step i becomes current: its stage, the kinds reported emptied, and the STEP event (R93, R113). -/
def Part.makeCurrent (p : Part) (i : Nat) : Part :=
  match p.lockage with
  | none => p
  | some l =>
    match l.plan[i - 1]? with
    | none => p
    | some s =>
      let p1 := { p with lockage := some (l.takeStep i s) }
      p1.clearReported.refreshFaces.event (.step l.number i s p.clock)

/-- The stage of the step in hand. -/
def Part.setStage (p : Part) (g : Stage) : Part :=
  p.onLockage fun l => { l with stage := g }

/-! ### Transfers (R32, R34, R35) -/

/-- A transfer is recorded in its sluice and takes the compare (R32). Its first up-step counts as due. An UNORDERED
compare is reported at every position, at or above the effective cap too: the model's reading (log entry 32). -/
def Part.recordTransfer (p : Part) (k : Sluice) (n : Nat) : Part :=
  let t : Transfer := { phase := .ramping, timer := p.transferLimit k, lockage := n }
  let r := { p.sluices.get k with trim := 0, transfer := some t, rampTimer := none, due := true }
  let p1 := p.putSluice k { r with waiting := none }
  match p1.compare k with
  | .level => p1.beginClosing k
  | .unordered c => (p1.rampNext k).report (sensorFault c) (.sluice k)
  | _ => p1.rampNext k

/-- The sequencer starts a transfer through Sk for lockage n (R32). A sluice that still holds a transfer of
another lockage makes it wait; one of the same lockage, left CLOSING by a halt, is taken over (R124). -/
def Part.startTransfer (p : Part) (k : Sluice) (n : Nat) : Part :=
  let r := p.sluices.get k
  match r.transfer with
  | some t =>
    if t.lockage = n then p.putSluice k { r with transfer := some { t with timer := p.transferLimit k } }
    else p.putSluice k { r with waiting := some n }
  | none => p.recordTransfer k n

/-- The transfer of sluice k belongs to the current lockage. -/
def Part.ownsTransfer (p : Part) (k : Sluice) : Bool :=
  match (p.sluices.get k).transfer, p.lockage with
  | some t, some l => decide (t.lockage = l.number)
  | _, _ => false

/-- The transfer of the step in hand is stopped as a halt stops it (R105). -/
def Part.stopOwnTransfer (p : Part) (k : Sluice) : Part :=
  if p.ownsTransfer k then p.stopTransfer k
  else p.putSluice k { p.sluices.get k with waiting := none }

/-- The transfer of the step in hand: a TRANSFER's, or an OPEN's re-level (R105). -/
def Part.stopStepTransfer (p : Part) : Part :=
  match p.lockage, p.curStep with
  | some l, some s =>
    match s.work with
    | .transfer k => p.stopOwnTransfer k
    | .openGate g => if l.stage = .levelling then p.stopOwnTransfer g else p
    | _ => p
  | _, _ => p

/-! ### The end of a lockage (R94, R105) -/

/-- The convoy goes back to its queue (R94). -/
def LockageOutcome.returns (o : LockageOutcome) (entryPassed : Bool) : Bool :=
  match o with
  | .withdrawn => true
  | .abandoned => !entryPassed
  | _ => false

/-- The disposal of the convoy (R94, step 3). -/
def Part.dispose (p : Part) (l : Lockage) (o : LockageOutcome) : Part :=
  if o.returns l.entryPassed then p.returnConvoy l.direction l.convoy
  else p.appendRecord (.lockage (p.tollRecord l o))

/-- The lockage ends, in R94's order. -/
def Part.endLockage (p : Part) (o : LockageOutcome) : Part :=
  match p.lockage with
  | none => p
  | some l =>
    let back := o.returns l.entryPassed
    let p1 := (p.stopLockageTimers.onLockage fun x => { x with outcome := some o }).requestAllStop
    let p2 := (p1.dispose l o).countEnding o (if back then none else some (p1.tollRecord l o))
    let p3 := ({ p2 with lockage := none }).clearReported.enterMode .rest
    p3.event (.ending l.number o l.headDraws l.tideWait l.late
      (if back then none else some p1.outlets.nextSequence) (l.convoy.map (·.ticket)) back)

/-- The entry gate is given CLOSE unless it is CLOSED (R105, R125). -/
def Part.closeEntry (p : Part) (d : Direction) (c : Commander) : Part :=
  if (p.gates.get d.entryGate).state = .closed then p else p.closeGate d.entryGate c

/-- The lockage is withdrawn (R105). -/
def Part.withdraw (p : Part) : Part :=
  match p.lockage with
  | none => p
  | some l => ((p.stopLockageTimers.stopStepTransfer).closeEntry l.direction .sequencer).endLockage .withdrawn

/-- The outcome of a plan run to its end (R93). -/
def Lockage.finalOutcome (l : Lockage) (s : PlanStep) : LockageOutcome :=
  if s.phase = .returning then .returned else if l.late then .completedLate else .completed

/-! ### The work of a step -/

/-- The move limit as timer ms (R100). -/
def Part.moveLimit (p : Part) : Option Nat :=
  p.settings.works.map fun w => secondsToMs w.moveLimit

/-- The commitment window as timer ms, `none` for a window of 0 (R107). -/
def Part.windowLimit (p : Part) : Option Nat :=
  p.settings.works.bind fun w => if w.window = 0 then none else some (secondsToMs w.window)

/-- A move goes UNDER_WAY: the move timer starts and PROCEED is requested (R100). -/
def Part.moveUnderWay (p : Part) (g : Gate) (d : Direction) : Part :=
  let p1 := p.onLockage fun l => { l with stage := .underWay, moveTimer := p.moveLimit }
  p1.requestProceed (faceServing g d)

/-- The convoy waits for depth (R98). -/
def Part.waitTide (p : Part) (g : Gate) : Part :=
  match p.lockage with
  | none => p
  | some l =>
    if l.tideReported then p.setStage .tide
    else
      let p1 := p.onLockage fun x => { x with stage := .tide, tideWait := true, tideReported := true }
      p1.event (.tideWait l.number l.current g (p.headProven l.convoy) (p.tailProven l.convoy))

/-- The OPEN step waits for exit clearance (R97, test 1). -/
def Lockage.needsExit (l : Lockage) (ph : Phase) : Bool :=
  decide (ph = .exit) && decide (l.cls = .c) && decide (l.exit ≠ .given)

/-- The OPEN steps whose convoy must be passable (R97, test 2). -/
def Phase.testsDepth : Phase → Bool
  | .entry => true
  | .exit => true
  | .returning => true
  | _ => false

/-- An OPEN step of phase ph reaches TRAVEL (R97); that the exit's has is kept in the record, also when a halt puts
the step back to its tests (R108, log entry 19). -/
def Part.reachTravel (p : Part) (ph : Phase) : Part :=
  p.onLockage fun l => { l with stage := .travel, exitCommanded := l.exitCommanded || decide (ph = .exit) }

/-- Test 3 of the OPEN step, with whether the step ended (R97, R99, R24). -/
def Part.levelTest (p : Part) (g : Gate) (ph : Phase) (n : Nat) : Part × Bool :=
  match p.compare g with
  | .level =>
    match p.openAnswer g with
    | .completed => (p.reachTravel ph, true)
    | .taken => ((p.reachTravel ph).openGate g, false)
    | .declined => (p.setStage .level, false)
  | .unordered c => ((p.setStage .level).report (sensorFault c) (.gate g), false)
  | _ => ((p.setStage .levelling).startTransfer g n, false)

/-- The OPEN step's evaluation, with whether the step ended (R97). -/
def Part.evaluateOpen (p : Part) (l : Lockage) (g : Gate) (ph : Phase) : Part × Bool :=
  if l.needsExit ph then (p.setStage .clearance, false)
  else if ph.testsDepth && !p.passable l.convoy then (p.waitTide g, false)
  else p.levelTest g ph l.number

/-- The lockage returns: the steps after COMMIT are replaced (R109). -/
def Lockage.turnedBack (l : Lockage) : Lockage :=
  { l with plan := l.plan.take l.current ++ returnSteps l.direction, windowTimer := none }

/-- The COMMIT step as it becomes current, with whether it ended (R107). -/
def Part.beginCommit (p : Part) (l : Lockage) : Part × Bool :=
  match l.exit with
  | .given => (p, true)
  | .refused => (p.onLockage Lockage.turnedBack, true)
  | _ => (p.onLockage fun x => { x with windowTimer := p.windowLimit }, false)

/-- The MOVE step as it becomes current (R100, R106). -/
def Part.beginMove (p : Part) (l : Lockage) (g : Gate) (d : Direction) : Part :=
  if l.stage = .awaiting then (if p.link.lost then p.withdraw else p) else p.moveUnderWay g d

/-- The TRANSFER step's work, with whether it ended (R96). -/
def Part.beginTransfer (p : Part) (k : Sluice) (n : Nat) : Part × Bool :=
  let p1 := p.startTransfer k n
  if p1.ownsTransfer k && p1.transferDone k then (p1.endTransfer k, true) else (p1, false)

/-- The work of the step in hand begins, with whether the step ended at once (R93). -/
def Part.beginStep (p : Part) : Part × Bool :=
  match p.lockage, p.curStep with
  | some l, some s =>
    match s.work with
    | .close g => (p.closeGate g .sequencer, decide ((p.gates.get g).state = .closed))
    | .transfer k => p.beginTransfer k l.number
    | .openGate g => p.evaluateOpen l g s.phase
    | .move g d => (p.beginMove l g d, false)
    | .commit => p.beginCommit l
  | _, _ => (p, false)

/-- The step in hand has ended: its timers stop, and the next step becomes current with its work begun, or the
lockage ends after the last. The answer says whether the next step ended at once in its turn (R93). -/
def Part.nextStep (p : Part) : Part × Bool :=
  match p.lockage, p.curStep with
  | some l, some s =>
    if l.current < l.plan.length then (p.stopLockageTimers.makeCurrent (l.current + 1)).beginStep
    else (p.endLockage (l.finalOutcome s), false)
  | _, _ => (p, false)

/-- Steps follow one another while each ends at once (R93); the count bounds the chain by the longest plan. -/
def Part.advanceBy : Nat → Part → Part
  | 0, p => p
  | n + 1, p => if p.nextStep.2 then Part.advanceBy n p.nextStep.1 else p.nextStep.1

/-- The longest chain of steps: a plan holds at most 24, and a return adds 3 (R76, R109). -/
def longestPlan : Nat := 27

/-- The step in hand ends (R93). -/
def Part.advance (p : Part) : Part :=
  Part.advanceBy longestPlan p

/-- The chain goes on when a step ended. -/
def Part.carryOn (x : Part × Bool) : Part :=
  if x.2 then x.1.advance else x.1

/-- The work of the step in hand, and of the steps that follow at once (R93). -/
def Part.work (p : Part) : Part :=
  Part.carryOn p.beginStep

/-! ### What reaches the step in hand -/

/-- The OPEN step in hand and its stage, in WORKING. -/
def Part.openInHand (p : Part) : Option (Lockage × Gate × Phase) :=
  match p.lockage, p.curStep with
  | some l, some ⟨.openGate g, ph⟩ => if p.mode = .working then some (l, g, ph) else none
  | _, _ => none

/-- The stages in which an OPEN step evaluates again (R97). -/
def Stage.evaluates : Stage → Bool
  | .clearance => true
  | .tide => true
  | .level => true
  | _ => false

/-- The OPEN step in hand evaluates again at an arrival it waits for (R97). -/
def Part.reevaluateOpen (p : Part) : Part :=
  match p.openInHand with
  | some (l, g, ph) => if l.stage.evaluates then Part.carryOn (p.evaluateOpen l g ph) else p
  | none => p

/-- A gate's arrival at CLOSED reported to the sequencer (R95); while HALTED it ends no step (R111). -/
def Part.arrivedClosed (p : Part) (g : Gate) : Part :=
  match p.curStep with
  | some s => if p.mode = .working ∧ s.work = .close g then p.advance else p
  | none => p

/-- A gate's arrival at OPEN reported to the sequencer (R97, R111). -/
def Part.arrivedOpen (p : Part) (g : Gate) : Part :=
  match p.openInHand with
  | some (l, h, _) => if h = g ∧ l.stage = .travel then p.advance else p
  | none => p

/-- The end of lockage n's transfer through Sk reported to the sequencer (R96, R97, R111). -/
def Part.transferReported (p : Part) (k : Sluice) (n : Nat) : Part :=
  match p.lockage, p.curStep with
  | some l, some s =>
    if p.mode = .working ∧ l.number = n then
      match s.work with
      | .transfer j => if j = k then p.advance else p
      | .openGate g =>
        if g = k ∧ l.stage = .levelling then Part.carryOn (p.evaluateOpen l g s.phase) else p
      | _ => p
    else p
  | _, _ => p

/-- The transfer waiting behind an ended one starts, and may end at once (R32). -/
def Part.startWaiting (p : Part) (k : Sluice) (m : Nat) : Part :=
  let p1 := p.recordTransfer k m
  if p1.transferDone k then (p1.endTransfer k).transferReported k m else p1

/-- A transfer that has reached its end is ended and reported, and one that waits for it starts (R32, R35). -/
def Part.finishTransfer (p : Part) (k : Sluice) : Part :=
  let r := p.sluices.get k
  if p.transferDone k then
    match r.transfer, r.waiting with
    | _, some m => (p.endTransfer k).startWaiting k m
    | some t, none => (p.endTransfer k).transferReported k t.lockage
    | none, none => p
  else p

/-- A ramping transfer takes the compare afresh at an announcement (R34). -/
def Part.announceTransfer (p : Part) (k : Sluice) : Part :=
  if p.ramping k then
    match p.compare k with
    | .level => (p.beginClosing k).finishTransfer k
    | .unordered c => (p.rampNext k).report (sensorFault c) (.sluice k)
    | _ => p.rampNext k
  else p

/-- The announcement reaches an OPEN step that waits on the reach (R97). -/
def Part.announceOpen (p : Part) (r : Reach) : Part :=
  match p.openInHand with
  | some (_, g, _) => if r.isPound ∨ r = g.above ∨ r = g.below then p.reevaluateOpen else p
  | none => p

/-- A reach is announced to the works controller, the sequencer and the vessel queues (R8); the turn selector
and the survey take it at the end of the event. -/
def Part.announce (p : Part) (r : Reach) : Part :=
  let p1 := r.gates.foldl Part.announceTransfer (r.gates.foldl Part.retestGate p)
  let p2 := p1.announceOpen r
  if r.isPound then p2.deriveCalls else p2

/-- A due up-step held back by the interlock is issued once it holds (R33). -/
def Part.retestRamp (p : Part) (k : Sluice) : Part :=
  if p.ramping k then p.rampNext k else p

/-- A change of gate k's passage: the gates and sluices beside it test their interlock again (R28, R33). -/
def Part.retestBeside (p : Part) (g : Gate) : Part :=
  (g.before.toList ++ g.after.toList).foldl (fun q h => (q.retestGate h).retestRamp h) p

end Sys2Proof.Machine
end

