-- ==== Sys2Proof/Machine/Turns.lean ====
section
/-! DEFINITION. The turn selector (chapter 4): pattern, readiness, evaluation, the latch and its undoing; and the
survey (section 10.6). `settle` is what every arrival ends with: the survey's end test and the turn selector. -/

namespace Sys2Proof.Machine

/-- The index of a call pattern (R62). -/
def Pattern.index (b : Pattern) : Nat :=
  (if b.up then 1 else 0) + (if b.down then 2 else 0) + (if b.upPriority then 4 else 0)
    + (if b.downPriority then 8 else 0) + (if b.lastUp then 16 else 0)

/-- The call pattern composed from the calls and the last-direction bit (R62). -/
def Part.composePattern (p : Part) : Pattern :=
  { up := p.calls.up, down := p.calls.down, upPriority := p.calls.upPriority
    downPriority := p.calls.downPriority, lastUp := p.turn.pattern.lastUp }

/-- The conditions of readiness, each with whether it holds (R63). -/
def Part.readyView (p : Part) : ReadyView :=
  { modeRest := decide (p.mode = .rest)
    noInhibit := !p.navInhibit
    notFlooded := decide (p.flood = .navigable)
    linkUp := !p.link.lost
    outletsFree := p.outlets.allRoom
    noTally := !p.outlets.tally.inTheWay
    noForceWaiting := decide (p.outlets.tally ≠ .waiting)
    noRejectHold := decide (p.turn.rejectHold ≠ some p.turn.pattern) }

/-- Every condition of readiness holds. -/
def ReadyView.all (v : ReadyView) : Bool :=
  v.modeRest && v.noInhibit && v.notFlooded && v.linkUp && v.outletsFree && v.noTally && v.noForceWaiting
    && v.noRejectHold

/-- Readiness as R63 forms it. -/
def Part.formReadiness (p : Part) : Bool :=
  p.readyView.all

/-- The reject hold goes off once the pattern differs from the one held (R68). -/
def keepHold (held : Option Pattern) (now : Pattern) : Option Pattern :=
  if held = some now then held else none

/-- The pattern and the reject hold taken from an arrival (R64, R68). -/
def Part.takePattern (p : Part) : Part :=
  let now := p.composePattern
  { p with turn := { p.turn with pattern := now, rejectHold := keepHold p.turn.rejectHold now } }

/-- Pattern, hold and readiness recomputed without an evaluation (R64, R69). -/
def Part.recompute (p : Part) : Part :=
  let p1 := p.takePattern
  { p1 with turn := { p1.turn with readiness := p1.formReadiness } }

/-- The stored turn table's entry at the present pattern (R67). -/
def Part.turnEntry (p : Part) : TurnEntry :=
  (p.settings.turns.getD []).getD p.turn.pattern.index ⟨.hold, .c⟩

/-- REJECT: the hold is set, the event sent and the condition noted (R68). -/
def Part.rejectPattern (p : Part) : Part :=
  let b := p.turn.pattern
  let p1 := { p with turn := { p.turn with rejectHold := some b, readiness := false } }
  (p1.event (.turnRejected b)).note fun x => x.noteRejected b

/-- The lockage record of a successful latch (R92). -/
def newLockage (n : Nat) (d : Direction) (cc : ClearanceClass) (convoy : List Vessel) (plan : List PlanStep)
    (turnTime : Clock) : Lockage :=
  { number := n, direction := d, cls := cc, convoy := convoy, plan := plan, current := 1, stage := .travel
    entry := if cc = .a then .notNeeded else .awaited
    exit := if cc = .c then .awaited else .notNeeded
    commitment := if cc = .c then some .open_ else none
    entryPassed := false, exitCommanded := false, late := false, headDraws := 0, tideWait := false
    tideReported := false, moveTimer := none, windowTimer := none, moveDone := false, turnTime := turnTime
    outcome := none }

/-- READY on the entry face and STOP on every other (R92). -/
def Part.requestEntryReady (p : Part) (d : Direction) : Part :=
  ({ p with faces := faceMap fun f =>
      { faceOf p.faces f with requested := if f = d.entryFace then .ready else .stop } }).refreshFaces

/-- The set-up of a latched lockage up to the STEP event of step 1 (R70, R92, R93). -/
def Part.setUpLockage (p : Part) (l : Lockage) (b : Pattern) : Part :=
  let p1 := ({ p with lockage := some l, turn := { p.turn with planWait := false } }).enterMode .working
  let p2 := (p1.requestEntryReady l.direction).event
    (.turn l.number l.direction l.cls b (l.convoy.map (·.ticket)) l.turnTime l.plan.length)
  p2.makeCurrent 1

/-- The lockage is latched: while E-STOP stands it halts at its first step, otherwise the step's work begins
(R93, R121). -/
def Part.startLockage (p : Part) (l : Lockage) (b : Pattern) : Part :=
  let p1 := (p.setUpLockage l b).eStopStanding
  if p1.mode = .working then p1.work else p1

/-- The latch undone for want of a plan (R71); `was` is the pattern before the latch. -/
def Part.undoLatch (p : Part) (n : Nat) (d : Direction) (convoy : List Vessel) (was : Pattern) (f : Predicted) :
    Part :=
  let p1 := p.returnConvoy d convoy
  let back := { p1.turn.pattern with lastUp := was.lastUp }
  let p2 := { p1 with turn := { p1.turn with pattern := back, planWait := true } }
  p2.event (.noPlan n d was f.c1 f.c2 f.c3)

/-- The lockage number is spent and the last-direction bit turned, as the latch begins (R70). -/
def Part.turnTo (p : Part) (d : Direction) : Part :=
  let turned := { p.turn.pattern with lastUp := decide (d = .up) }
  { p with turn := { p.turn with nextLockage := nextNumber p.turn.nextLockage, pattern := turned } }

/-- The latch of a turn up to its plan: the convoy leaves its queue, the number is spent, the pattern composed
again (R56, R69, R70). -/
def Part.latched (p : Part) (d : Direction) : Part :=
  let p1 := (p.takeConvoy d (p.formConvoy d)).turnTo d
  { p1 with turn := { p1.turn with pattern := p1.composePattern } }

/-- The latch of a turn for a direction with a clearance class, whole (R69, R70, R71). -/
def Part.latch (p : Part) (d : Direction) (cc : ClearanceClass) : Part :=
  let q := p.latched d
  let n := p.turn.nextLockage
  let convoy := p.formConvoy d
  match q.buildPlan d cc with
  | some plan => q.startLockage (newLockage n d cc convoy plan p.clockNow) p.turn.pattern
  | none => q.undoLatch n d convoy p.turn.pattern q.predicted

/-- The evaluation of the present pattern (R67). -/
def Part.evaluateTurn (p : Part) : Part :=
  match p.turnEntry.action with
  | .hold => p
  | .reject => p.rejectPattern
  | .up => (p.latch .up p.turnEntry.cls).recompute
  | .down => (p.latch .down p.turnEntry.cls).recompute

/-- An arrival at the turn selector (R64, R66, R72): recomputed, and evaluated where those rules ask it. -/
def Part.turnArrival (p : Part) (classChange force : Bool) : Part :=
  let q := p.recompute
  if q.turn.readiness && (!p.turn.readiness || decide (q.turn.pattern ≠ p.turn.pattern)
      || (p.turn.planWait && classChange) || force) then q.evaluateTurn
  else q

/-! ### The survey -/

/-- The survey closes a gate that stands at no limit (R170). -/
def Part.surveyGate (p : Part) (g : Gate) : Part :=
  match (p.gates.get g).state with
  | .closed => p
  | .open_ => p
  | _ => p.closeGate g .survey

/-- The survey closes a sluice above 0 with no close in hand (R170). -/
def Part.surveySluice (p : Part) (k : Sluice) : Part :=
  if 0 < (p.sluices.get k).position ∧ (p.sluices.get k).state ≠ .closing then p.closeSluice k else p

/-- The survey's work as it begins (R170). -/
def Part.surveyWork (p : Part) : Part :=
  Gate.all.foldl Part.surveySluice (Gate.all.foldl Part.surveyGate p.clearReported)

/-- During the survey a gate whose state changes to STOPPED is given CLOSE (R170). -/
def Part.surveyStopped (p : Part) (g : Gate) (was : GateState) : Part :=
  if p.mode = .survey ∧ (p.gates.get g).state = .stopped ∧ was ≠ .stopped then p.closeGate g .survey else p

/-- During the survey a sluice whose position rises with no close in hand is given the close command (R170). -/
def Part.surveyRise (p : Part) (k : Sluice) (was : Nat) : Part :=
  if p.mode = .survey ∧ was < (p.sluices.get k).position then p.surveySluice k else p

/-- The gate stands CLOSED or OPEN (R171). -/
def GateRec.atLimit (r : GateRec) : Bool :=
  decide (r.state = .closed) || decide (r.state = .open_)

/-- The sluice stands CLOSED at position 0 (R171). -/
def SluiceRec.shut (r : SluiceRec) : Bool :=
  decide (r.state = .closed) && decide (r.position = 0)

/-- Every reach is in an ordered class: the survey's first end condition (R171). -/
def Part.reachesOrdered (p : Part) : Bool :=
  p.reaches.all fun r => r.cls.ordered

/-- The three end conditions of the survey hold (R171). -/
def Part.surveyDone (p : Part) : Bool :=
  p.reachesOrdered && p.gates.all GateRec.atLimit && p.sluices.all SluiceRec.shut

/-- The survey's end test (R171); the kinds reported cover the survey and are empty at REST (R113). -/
def Part.surveyTest (p : Part) : Part :=
  if p.mode = .survey ∧ p.surveyDone then (p.clearReported.enterMode .rest).event (.mode .rest none) else p

/-- The survey begins with its work; while E-STOP stands the flight halts from it at once (R121, R170). -/
def Part.beginSurvey (p : Part) : Part :=
  p.surveyWork.eStopStanding

/-- What every arrival ends with: the survey's end test, then the turn selector (R64, R171). -/
def Part.settle (p : Part) (classChange force : Bool := false) : Part :=
  p.surveyTest.turnArrival classChange force

end Sys2Proof.Machine
end

