-- ==== Sys2Proof/Machine/Settings.lean ====
section
/-! DEFINITION. The settings store (chapter 10): clamping and storing of each group, the loads, the clock, START,
CAPTURE_DATUM and LAMP_CLEAR. -/

namespace Sys2Proof.Machine

/-- A numeric field stored at the nearer end of its range (R163). -/
def clampInt (lo hi v : Int) : Int :=
  if v < lo then lo else if hi < v then hi else v

/-- The same for a field that holds a count or a length, never below 0. -/
def clampNat (lo hi : Nat) (v : Int) : Nat :=
  (clampInt lo hi v).toNat

/-- The field lies outside its range, so that it counts as clamped (R163). -/
def outside (lo hi v : Int) : Bool :=
  decide (v < lo) || decide (hi < v)

/-- The data of a load reply: how many fields were clamped, and the index of the first (R163). -/
def loadReply (flags : List Bool) : ReplyData :=
  .load (flags.filter id).length (flags.findIdx? id)

/-- The least and greatest level, sill or limit in mm (R163). -/
def lowLevel : Int := -5000
def highLevel : Int := 30000

/-! ### Storing each group (R163, R164) -/

def storeFlight (v : FlightLoad) : Flight :=
  { usableLength := clampNat 300 2500 v.usableLength
    convoyMaximum := clampNat 1 4 v.convoyMaximum
    vesselGap := clampNat 0 100 v.vesselGap
    n1 := clampInt lowLevel highLevel v.n1
    n2 := clampInt lowLevel highLevel v.n2
    headSill := clampInt lowLevel highLevel v.headSill
    tailSill := clampInt lowLevel highLevel v.tailSill
    keelClearance := clampInt 0 1000 v.keelClearance
    headFlood := clampInt lowLevel highLevel v.headFlood
    tailFlood := clampInt lowLevel highLevel v.tailFlood
    tolerance := v.tolerance.map (clampInt 5 100) }

/-- Which fields of a FLIGHT load are clamped, in index order. -/
def flightClamped (v : FlightLoad) : List Bool :=
  [outside 300 2500 v.usableLength, outside 1 4 v.convoyMaximum, outside 0 100 v.vesselGap,
   outside lowLevel highLevel v.n1, outside lowLevel highLevel v.n2,
   outside lowLevel highLevel v.headSill, outside lowLevel highLevel v.tailSill,
   outside 0 1000 v.keelClearance,
   outside lowLevel highLevel v.headFlood, outside lowLevel highLevel v.tailFlood]
  ++ Gate.all.map fun g => outside 5 100 (v.tolerance.get g)

/-- rmin as stored (R163). -/
def lowRaw (v : ReachLoad) : Nat :=
  clampNat 0 4095 v.rmin

/-- A REACH group as stored; rmax is never below rmin, and a pound stores no drift limit (R164). -/
def storeReach (v : ReachLoad) (r : Reach) : ReachGroup :=
  { zero := clampInt 0 4095 v.zero
    span := clampInt 500 20000 v.span
    datum := clampInt lowLevel highLevel v.datum
    rmin := (lowRaw v)
    rmax := clampNat (lowRaw v) 4095 v.rmax
    jump := clampNat 0 255 v.jump
    drift := if r.isPound then none else some (clampInt 10 500 v.drift) }

def reachClamped (v : ReachLoad) (r : Reach) : List Bool :=
  [outside 0 4095 v.zero, outside 500 20000 v.span, outside lowLevel highLevel v.datum,
   outside 0 4095 v.rmin, outside (lowRaw v) 4095 v.rmax, outside 0 255 v.jump,
   !r.isPound && outside 10 500 v.drift]

/-- The commitment window as stored: 0, or 10..900 with 1..9 raised to 10 (R163, R164). -/
def storeWindow (v : Int) : Nat :=
  if v ≤ 0 then 0 else clampNat 10 900 v

/-- The commitment window is clamped. -/
def windowClamped (v : Int) : Bool :=
  decide (v ≠ 0) && outside 10 900 v

def storeWorks (v : WorksLoad) : Works :=
  { travelLimit := v.travelLimit.map (clampNat 30 600)
    stepLimit := v.stepLimit.map (clampNat 2 60)
    rampInterval := v.rampInterval.map (clampNat 2 120)
    transferLimit := v.transferLimit.map (clampNat 30 1800)
    cap := v.cap.map (clampNat 1 15)
    moveLimit := clampNat 60 1800 v.moveLimit
    window := storeWindow v.window }

def worksClamped (v : WorksLoad) : List Bool :=
  (Gate.all.map fun g => outside 30 600 (v.travelLimit.get g))
  ++ (Gate.all.map fun g => outside 2 60 (v.stepLimit.get g))
  ++ (Gate.all.map fun g => outside 2 120 (v.rampInterval.get g))
  ++ (Gate.all.map fun g => outside 30 1800 (v.transferLimit.get g))
  ++ (Gate.all.map fun g => outside 1 15 (v.cap.get g))
  ++ [outside 60 1800 v.moveLimit, windowClamped v.window]

/-- One class of the TARIFF group as stored; a wrong exempt code is NO (R129). -/
def storeClass (v : ClassLoad) : ClassTariff :=
  { base := clampNat 0 65535 v.base
    rate := clampNat 0 5000 v.rate
    freeLength := clampNat 0 2500 v.freeLength
    ladenPercent := clampNat 100 250 v.ladenPercent
    exempt := v.exempt.getD false }

def classClamped (v : ClassLoad) : List Bool :=
  [outside 0 65535 v.base, outside 0 5000 v.rate, outside 0 2500 v.freeLength,
   outside 100 250 v.ladenPercent, v.exempt.isNone]

def classMap {α β : Type} (f : α → β) (v : PerClass α) : PerClass β :=
  ⟨f v.pleasure, f v.passenger, f v.dryCargo, f v.tanker, f v.pushTow, f v.workCraft, f v.authority, f v.rescue⟩

def classList {α : Type} (v : PerClass α) : List α :=
  [v.pleasure, v.passenger, v.dryCargo, v.tanker, v.pushTow, v.workCraft, v.authority, v.rescue]

def storeTariff (v : TariffLoad) : Tariff :=
  { classes := classMap storeClass v.classes
    passPercent := clampNat 0 100 v.passPercent
    waterRate := clampNat 0 20000 v.waterRate
    delayCredit := clampNat 0 65535 v.delayCredit
    returnPercent := clampNat 0 100 v.returnPercent
    hourBand := v.hourBand.map (clampNat 0 3)
    bandPercent := v.bandPercent.map (clampNat 50 300) }

def tariffClamped (v : TariffLoad) : List Bool :=
  ((classList v.classes).flatMap classClamped)
  ++ [outside 0 100 v.passPercent, outside 0 20000 v.waterRate, outside 0 65535 v.delayCredit,
      outside 0 100 v.returnPercent]
  ++ v.hourBand.map (outside 0 3) ++ v.bandPercent.map (outside 50 300)

/-- The action as stored at an index: UP needs bit 0 of the index and DOWN bit 1 (R65). -/
def storeAction (a : Option Action) (i : Nat) : Action :=
  match a with
  | some .up => if i % 2 = 1 then .up else .hold
  | some .down => if i / 2 % 2 = 1 then .down else .hold
  | some x => x
  | none => .hold

/-- A TURNS entry as stored at its index (R65). -/
def storeTurnEntry (v : TurnEntryLoad) (i : Nat) : TurnEntry :=
  { action := storeAction v.action i, cls := v.cls.getD .c }

/-- A TURNS entry counts once, whatever of it was clamped (R65). -/
def turnEntryClamped (v : TurnEntryLoad) (i : Nat) : Bool :=
  decide (some (storeAction v.action i) ≠ v.action) || v.cls.isNone

/-- A TURNS load as stored. -/
def storeTurns (v : List TurnEntryLoad) : List TurnEntry :=
  v.zipIdx.map fun x => storeTurnEntry x.1 x.2

def turnsClamped (v : List TurnEntryLoad) : List Bool :=
  v.zipIdx.map fun x => turnEntryClamped x.1 x.2

def storeOutlets (v : OutletsLoad) : OutletsGroup :=
  { authorityEnable := v.authorityEnable.getD false
    quayEnable := v.quayEnable.getD false
    accountsDepth := clampNat 1 8 v.accountsDepth
    authorityDepth := clampNat 1 8 v.authorityDepth
    quayDepth := clampNat 1 8 v.quayDepth
    interval := clampNat 0 250 v.interval }

def outletsClamped (v : OutletsLoad) : List Bool :=
  [v.authorityEnable.isNone, v.quayEnable.isNone, outside 1 8 v.accountsDepth, outside 1 8 v.authorityDepth,
   outside 1 8 v.quayDepth, outside 0 250 v.interval]

def storeResponses (v : ResponsesLoad) : Responses :=
  { sensorStale := v.sensorStale.getD .halt
    sensorLimited := v.sensorLimited.getD .halt
    transferTimeout := v.transferTimeout.getD .halt
    levelDrift := v.levelDrift.getD .halt
    lampFailed := v.lampFailed.getD .halt
    moveTimeout := v.moveTimeout.getD .halt
    periodCode := clampNat 0 7 v.periodCode }

def responsesClamped (v : ResponsesLoad) : List Bool :=
  [v.sensorStale.isNone, v.sensorLimited.isNone, v.transferTimeout.isNone, v.levelDrift.isNone,
   v.lampFailed.isNone, v.moveTimeout.isNone, outside 0 7 v.periodCode]

/-! ### Loads (R165, R166) -/

/-- The modes in which a group is loaded (R165, test 1). -/
def modeLoads : Mode → Bool
  | .startup => true
  | .rest => true
  | _ => false

/-- The settings changed by an accepted load. -/
def Part.store (p : Part) (f : Settings → Settings) : Part :=
  { p with settings := f p.settings }

/-- A load that passes its tests: the reply, then the effect of the new group (R165). -/
def Part.takeLoad (p : Part) (tag : Tag) (flags : List Bool) (effect : Part → Part) : Part :=
  p.acceptFirst tag effect fun _ => loadReply flags

/-- The FLIGHT group is stored and handed on (R166). -/
def Part.applyFlight (p : Part) (g : Flight) : Part :=
  (p.store fun s => { s with flight := some g }).deriveCalls.settle

/-- The reach record restarted by a REACH load (R18); the sample timer keeps running. -/
def ReachRec.restarted (r : ReachRec) : ReachRec :=
  { ReachRec.reset with sampleTimer := r.sampleTimer }

/-- The REACH group is stored and its reach restarted and announced (R18, R166). -/
def Part.applyReach (p : Part) (r : Reach) (g : ReachGroup) : Part :=
  let was := p.reaches.get r
  let p1 := p.store fun s => { s with reach := s.reach.set r (some g) }
  let p2 := { p1 with reaches := p1.reaches.set r was.restarted }
  (p2.announce r).settle (decide (was.cls ≠ .settling))

/-- The TURNS group is stored; at REST the hold ends and the pattern is evaluated (R66). -/
def Part.applyTurns (p : Part) (t : List TurnEntry) : Part :=
  let p1 := p.store fun s => { s with turns := some t }
  if p.mode = .rest then
    ({ p1 with turn := { p1.turn with rejectHold := none } }).settle false true
  else p1

/-- The OUTLETS group is stored and taken by the outlet unit (R146, R166). -/
def Part.applyOutlets (p : Part) (g : OutletsGroup) : Part :=
  let p1 := p.store fun s => { s with outlets := some g }
  ({ p1 with outlets := p1.outlets.configure g }).settle

/-- The watchdog period of a code, in ms; `none` is off (R164, R182). -/
def watchdogPeriod : Nat → Option Nat
  | 1 => some 5000
  | 2 => some 10000
  | 3 => some 20000
  | 4 => some 30000
  | 5 => some 60000
  | 6 => some 120000
  | 7 => some 300000
  | _ => none

/-- The RESPONSES group is stored; an armed watchdog restarts with the new period (R166, R182). -/
def Part.applyResponses (p : Part) (g : Responses) : Part :=
  let p1 := p.store fun s => { s with responses := some g }
  if p1.link.armed then { p1 with link := { p1.link with watchdog := watchdogPeriod g.periodCode } } else p1

/-! ### The clock (R167, R168) -/

/-- A clock one second later (R167). -/
def Clock.next (c : Clock) : Clock :=
  if c.second < 86399 then { c with second := c.second + 1 }
  else { day := if c.day < 65535 then c.day + 1 else 0, second := 0 }

/-- A second of the part's timebase has passed (R167). -/
def Part.advanceClock (p : Part) : Part :=
  { p with clock := p.clock.map Clock.next, secondCount := Config.secondPeriod }

/-- The clock is set and its second count restarts (R168). -/
def Part.setClock (p : Part) (day second : Nat) : Part :=
  { p with clock := some ⟨day, second⟩, secondCount := Config.secondPeriod }

/-! ### START (R169) -/

/-- What is missing for START, in the order of R162 and the clock last (R169). -/
def Part.missing (p : Part) : List Missing :=
  (if p.settings.flight.isNone then [Missing.flight] else [])
  ++ (Reach.all.filter fun r => (p.settings.reach.get r).isNone).map Missing.reach
  ++ (if p.settings.works.isNone then [Missing.works] else [])
  ++ (if p.settings.tariff.isNone then [Missing.tariff] else [])
  ++ (if p.settings.turns.isNone then [Missing.turns] else [])
  ++ (if p.settings.outlets.isNone then [Missing.outlets] else [])
  ++ (if p.settings.responses.isNone then [Missing.responses] else [])
  ++ (if p.clock.isNone then [Missing.clock] else [])

/-- The settings are complete (R162). -/
def Part.complete (p : Part) : Bool :=
  p.missing.isEmpty

/-- The effect of an accepted START (R169, R170, R171). -/
def Part.startSurvey (p : Part) : Part :=
  ((p.enterMode .survey).event (.mode .survey none)).beginSurvey.settle

/-! ### CAPTURE_DATUM (R19, R20) -/

/-- The new zero before clamping (R19). -/
def capturedZero (raw level datum span : Int) : Int :=
  raw - roundAway ((level - datum) * 4096) span

/-- The isolation level after a capture, for an isolated chamber (R20). -/
def Part.recapture (p : Part) (c : Chamber) : Part :=
  let r := p.reaches.get c.reach
  if p.isolated c then
    let level := if r.cls = .valid then p.level c.reach else none
    { p with reaches := p.reaches.set c.reach { r with isolationLevel := level, driftReported := false } }
  else p

/-- Drift is tested, and reported once in an isolation (R17). -/
def Part.driftTest (p : Part) (c : Chamber) : Part :=
  let r := p.reaches.get c.reach
  if p.drifts c ∧ r.driftReported = false then
    ({ p with reaches := p.reaches.set c.reach { r with driftReported := true } }).report .levelDrift (.chamber c)
  else p

/-- The drift test of a reach; the pounds have none (R17). -/
def Part.driftOf (p : Part) (r : Reach) : Part :=
  match r.chamber with
  | some c => p.driftTest c
  | none => p

/-- The effect of a capture: the zero is written, the isolation kept honest, the reach announced (R20). -/
def Part.applyZero (p : Part) (r : Reach) (g : ReachGroup) : Part :=
  let p1 := p.store fun s => { s with reach := s.reach.set r (some g) }
  let p2 := match r.chamber with
    | some c => p1.recapture c
    | none => p1
  ((p2.driftOf r).announce r).settle

/-- A CAPTURE_DATUM request (R19); `none` when it is refused BAD_VALUE. -/
def Part.captureGroup (p : Part) (r : Reach) (level : Int) : Option (ReachGroup × Bool) :=
  let x := p.reaches.get r
  match p.settings.reach.get r with
  | some g =>
    if level < lowLevel ∨ highLevel < level ∨ x.cls.ordered = false then none
    else
      let z := capturedZero (x.previousRaw.getD 0) level g.datum g.span
      some ({ g with zero := clampInt 0 4095 z }, outside 0 4095 z)
  | none => none

/-! ### LAMP_CLEAR (R44) -/

/-- How many lamps are failed. -/
def Part.failedLamps (p : Part) : Nat :=
  (lampList.filter fun x => (lampOf p.lamps x.1 x.2).failed).length

/-- Every lamp's failed mark is cleared (R44). -/
def Part.clearLamps (p : Part) : Part :=
  { p with lamps := lampMap fun f k => { lampOf p.lamps f k with failed := false } }

end Sys2Proof.Machine
end

