-- ==== Sys2Proof/Machine/Samples.lean ====
section
/-! DEFINITION. The reach records' own changes: a sample arriving and a sample period without one (sections 1.2
and 1.7), and the meanings of SAMPLE_ARRIVAL and SAMPLE_TIMER_EXPIRY. -/

namespace Sys2Proof.Machine

/-- A sample accepted: classified and stored (R3). -/
def ReachRec.accepted (x : ReachRec) (g : ReachGroup) (raw : Nat) : ReachRec :=
  { x with cls := classOf g raw, window := pushFour x.window (clampRaw g raw), previousRaw := some raw
           missed := 0 }

/-- A sample in SETTLING (R2). -/
def ReachRec.settled (x : ReachRec) (g : ReachGroup) (raw : Nat) : ReachRec :=
  let y := { x with settleCount := min 20 (x.settleCount + 1), window := pushFour x.window (clampRaw g raw)
                    previousRaw := some raw, missed := 0 }
  if y.settleCount = 20 then { y with cls := classOf g raw } else y

/-- A sample in an ordered class: accepted, or rejected by the jump test (R4). -/
def ReachRec.tested (x : ReachRec) (g : ReachGroup) (raw : Nat) : ReachRec :=
  match x.previousRaw with
  | some q =>
    if g.jump = 0 ∨ rawDiff raw q ≤ g.jump then x.accepted g raw
    else { x with cls := .broken, runCount := 1, run := [raw], missed := 0 }
  | none => x.accepted g raw

/-- The recovery run extended, or restarted with the sample alone (R5). -/
def ReachRec.extended (x : ReachRec) (g : ReachGroup) (raw : Nat) : ReachRec :=
  match x.run.getLast? with
  | some q =>
    if rawDiff raw q ≤ g.jump then { x with run := pushFour x.run raw, runCount := x.runCount + 1, missed := 0 }
    else { x with run := [raw], runCount := 1, missed := 0 }
  | none => { x with run := [raw], runCount := 1, missed := 0 }

/-- A sample in BROKEN; the twentieth consistent one recovers the reach (R5). -/
def ReachRec.recovering (x : ReachRec) (g : ReachGroup) (raw : Nat) : ReachRec :=
  let y := x.extended g raw
  if 20 ≤ y.runCount then
    { y with cls := classOf g raw, window := y.run.map (clampRaw g), previousRaw := some raw
             run := [], runCount := 0 }
  else y

/-- A reach record after a sample, by its class (R2 to R6). -/
def ReachRec.sampled (x : ReachRec) (g : ReachGroup) (raw : Nat) : ReachRec :=
  match x.cls with
  | .settling => x.settled g raw
  | .stale => x.accepted g raw
  | .broken => x.recovering g raw
  | .valid => x.tested g raw
  | .limitedLow => x.tested g raw
  | .limitedHigh => x.tested g raw

/-- A reach record after a sample arrival; with its group UNSET only the timer and the missed count act (R1, R7). -/
def ReachRec.arrival (x : ReachRec) (g : Option ReachGroup) (raw : Nat) : ReachRec :=
  let y := match g with
    | some s => x.sampled s raw
    | none => { x with missed := 0 }
  { y with sampleTimer := Config.samplePeriod }

/-- What the fifth missed period does (R7). -/
def ReachRec.silent (x : ReachRec) : ReachRec :=
  match x.cls with
  | .settling => x
  | .broken => { x with run := [], runCount := 0 }
  | .stale => x
  | .valid => { x with cls := .stale }
  | .limitedLow => { x with cls := .stale }
  | .limitedHigh => { x with cls := .stale }

/-- A reach record after a sample period without a sample (R7). -/
def ReachRec.missedPeriod (x : ReachRec) : ReachRec :=
  let y := { x with missed := min 5 (x.missed + 1), sampleTimer := Config.samplePeriod }
  if x.missed = 4 then y.silent else y

/-- A class change is noted in the condition record where R8 asks it. -/
def Part.noteClass (p : Part) (r : Reach) (was : ReadingClass) : Part :=
  let now := (p.reaches.get r).cls
  if now ≠ was ∧ notedClass now then p.note fun c => c.noteReach r now else p

/-- The isolation level is recorded at the first moment the chamber is isolated and VALID (R16). -/
def Part.examineReach (p : Part) (r : Reach) : Part :=
  match r.chamber with
  | some c => { p with reaches := p.reaches.set c.reach (p.examined c) }
  | none => p

/-- SAMPLE_ARRIVAL: the record, the note, drift, the announcement, in R8's order. -/
def execSampleArrival (r : Reach) (raw : Fin 4096) (s : State) : Host.Outcome State Fault Refusal :=
  let p := s.part
  let was := (p.reaches.get r).cls
  let p1 := { p with reaches := p.reaches.set r ((p.reaches.get r).arrival (p.settings.reach.get r) raw.val) }
  let p2 := ((p1.noteClass r was).examineReach r).driftOf r
  .next { s with part := (p2.announce r).settle (decide ((p1.reaches.get r).cls ≠ was)) }

/-- SAMPLE_TIMER_EXPIRY: the missed period, and a class change noted and announced (R7, R8). -/
def execSampleTimerExpiry (r : Reach) (s : State) : Host.Outcome State Fault Refusal :=
  let p := s.part
  let was := (p.reaches.get r).cls
  let p1 := { p with reaches := p.reaches.set r (p.reaches.get r).missedPeriod }
  if (p1.reaches.get r).cls = was then .next { s with part := p1 }
  else .next { s with part := ((p1.noteClass r was).announce r).settle true }

end Sys2Proof.Machine
end

