-- ==== Sys2Proof/Machine/Field.lean ====
section
/-! DEFINITION. What the field and the part's own timers do: gates, sluices, lamps, E-STOP, NAV-INHIBIT, moves and
windows, and the commands that examine again what a moment of the part decides (chapters 1, 2, 4, 6, 7, 9). -/

namespace Sys2Proof.Machine

/-! ### Gates (R26, R27, R28) -/

/-- A gate record with one limit input as it now stands. -/
def GateRec.withInput (r : GateRec) (l : Limit) (b : Bool) : GateRec :=
  match l with
  | .closedLimit => { r with atClosed := b }
  | .openLimit => { r with atOpen := b }

/-- The limit input as it stands. -/
def GateRec.input (r : GateRec) : Limit → Bool
  | .closedLimit => r.atClosed
  | .openLimit => r.atOpen

/-- A gate at rest at a limit: drive OFF, timer stopped (R26). -/
def GateRec.rest (r : GateRec) (s : GateState) : GateRec :=
  { r with state := s, drive := .off, travelTimer := none }

/-- The record after a limit is asserted that leaves the other negated (R26). -/
def GateRec.asserted (r : GateRec) : Limit → GateRec
  | .closedLimit => if r.state = .closing ∨ r.state = .stopped then r.rest .closed else r
  | .openLimit =>
    if r.state = .opening ∨ r.state = .stopped then { r.rest .open_ with openPending := false } else r

/-- The record after a limit is negated (R26). -/
def GateRec.negated (r : GateRec) : Limit → GateRec
  | .closedLimit =>
    if r.state = .closed then { r with state := .stopped }
    else if r.state = .stopped ∧ r.atOpen then { r with state := .open_ } else r
  | .openLimit =>
    if r.state = .open_ then { r with state := .stopped }
    else if r.state = .stopped ∧ r.atClosed then { r with state := .closed } else r

/-- Both limits asserted: everything stops (R26). -/
def GateRec.double (r : GateRec) : GateRec :=
  { r.rest .stopped with openPending := false }

/-- A gate record after a change of a limit input, as `r` holds the inputs after it (R26). -/
def GateRec.limitChanged (r : GateRec) (l : Limit) (b : Bool) : GateRec :=
  if r.atClosed && r.atOpen then r.double
  else if b then r.asserted l
  else r.negated l

/-- What a change of a limit input reports: a double limit, or an arrival to its commander (R26). -/
def Part.limitReport (p : Part) (g : Gate) (was : GateRec) : Part :=
  let r := p.gates.get g
  if r.atClosed && r.atOpen then p.report .gateLimit (.gate g)
  else if was.commander ≠ .sequencer then p
  else if was.state = .closing ∧ r.state = .closed then p.arrivedClosed g
  else if was.openPending ∧ r.state = .open_ then p.arrivedOpen g
  else p

/-- LIMIT_INPUT_CHANGE (R26): the record, what it reports, then the tests that a changed passage and a changed
gate bring (R28, R33, R97, R170). An input that already stands so is no change. -/
def execLimitInputChange (g : Gate) (l : Limit) (b : Bool) (s : State) : Host.Outcome State Fault Refusal :=
  let p := s.part
  let was := p.gates.get g
  if was.input l = b then .next s
  else
    let p1 := p.putGate g ((was.withInput l b).limitChanged l b)
    let p2 := ((p1.limitReport g was).retestBeside g).reevaluateOpen
    .next { s with part := (p2.surveyStopped g was.state).settle }

/-- TRAVEL_TIMER_EXPIRY of a running timer (R27). -/
def execTravelTimerExpiry (g : Gate) (s : State) : Host.Outcome State Fault Refusal :=
  let p := s.part
  let r := p.gates.get g
  if r.travelTimer.isNone then .next s
  else
    let p1 := (p.putGate g { r.rest .stopped with openPending := false }).report .gateTimeout (.gate g)
    .next { s with part := (p1.reevaluateOpen.surveyStopped g r.state).settle }

/-- The two tests of a gate with open pending; a change of its state reaches an OPEN step that waits (R28, R97). -/
def Part.resumeTravel (p : Part) (g : Gate) : Part :=
  let q := p.retestGate g
  if (q.gates.get g).state = (p.gates.get g).state then q else q.reevaluateOpen

/-- GATE_TRAVEL_RESUME: a gate with open pending takes its two tests again (R28). -/
def execGateTravelResume (g : Gate) (s : State) : Host.Outcome State Fault Refusal :=
  .next { s with part := (s.part.resumeTravel g).settle }

/-! ### Sluices and transfers (R30 to R36) -/

/-- The feedback shows the position the step in flight should reach (R30). -/
def SluiceRec.confirms (r : SluiceRec) (n : Nat) : Bool :=
  match r.step with
  | some (_, target) => decide (target = n)
  | none => false

/-- The feedback confirms an up-step. -/
def SluiceRec.confirmsUp (r : SluiceRec) (n : Nat) : Bool :=
  match r.step with
  | some (.up, target) => decide (target = n)
  | _ => false

/-- The record at the feedback's new position, a confirmed step ended (R30). -/
def SluiceRec.moved (r : SluiceRec) (n : Nat) : SluiceRec :=
  if r.confirms n then { r with position := n, step := none, stepTimer := none } else { r with position := n }

/-- A change with no step in flight and no close in hand is taken as it stands (R30). -/
def SluiceRec.shifted (r : SluiceRec) : SluiceRec :=
  match r.state with
  | .closed => if 0 < r.position then { r with state := .held } else r
  | .held => if r.position = 0 then { r with state := .closed } else r
  | _ => r

/-- A closing goes on from the position it has reached (R31). -/
def Part.closeOn (p : Part) (k : Sluice) (r : SluiceRec) : Part :=
  if r.position = 0 then p.putSluice k { r with state := .closed }
  else (p.putSluice k { r with state := .closing }).stepSluice k .down

/-- A ramping sluice at a new position: the ramp interval starts after an up-step, and the ramp goes on (R33, R35).
A transfer's first up-step, due from its start, waits only for a step still in flight (R124): where that is an earlier
up-step, its confirmation starts no interval (log entry 33). -/
def Part.rampOn (p : Part) (k : Sluice) (r : SluiceRec) (up : Bool) : Part :=
  let r1 := if up && !r.due then { r with rampTimer := p.rampInterval k } else r
  (p.putSluice k r1).rampNext k

/-- The sluice takes a change of its position feedback (R30, R31, R33). While a step is in flight and no transfer is
ramping, a feedback that does not confirm it changes the position alone: a sluice CLOSED at 0 by a close command
with an up-step in flight stays CLOSED until that step is confirmed or its timer expires (log entry 16). -/
def Part.takePosition (p : Part) (k : Sluice) (n : Nat) : Part :=
  let was := p.sluices.get k
  let r := was.moved n
  if p.ramping k then p.rampOn k r (was.confirmsUp n)
  else if r.step.isSome then p.putSluice k r
  else if was.state = .closing ∨ was.confirms n then p.closeOn k r
  else p.putSluice k r.shifted

/-- POSITION_FEEDBACK_CHANGE (R30): the sluice, the end of its transfer (R35), then the tests a changed passage
and position bring (R28, R33, R97, R170). A feedback that already stands so is no change. -/
def execPositionFeedbackChange (k : Sluice) (n : Fin 16) (s : State) : Host.Outcome State Fault Refusal :=
  let p := s.part
  let was := (p.sluices.get k).position
  if was = n.val then .next s
  else
    let p1 := (p.takePosition k n.val).finishTransfer k
    let p2 := (p1.retestBeside k).reevaluateOpen
    .next { s with part := (p2.surveyRise k was).settle }

/-- The record after a step that was not confirmed in time (R30). -/
def SluiceRec.stalled (r : SluiceRec) : SluiceRec :=
  { r with step := none, stepTimer := none, target := r.position
           state := if r.position = 0 then .closed else .held }

/-- STEP_TIMER_EXPIRY of a running timer (R30). -/
def execStepTimerExpiry (k : Sluice) (s : State) : Host.Outcome State Fault Refusal :=
  let p := s.part
  let r := p.sluices.get k
  if r.stepTimer.isNone then .next s
  else
    let p1 := (p.putSluice k r.stalled).report .sluiceStall (.sluice k)
    .next { s with part := (p1.finishTransfer k).settle }

/-- RAMP_INTERVAL_EXPIRY of a running interval: the next up-step is due (R33). -/
def execRampIntervalExpiry (k : Sluice) (s : State) : Host.Outcome State Fault Refusal :=
  let p := s.part
  let r := p.sluices.get k
  if r.rampTimer.isNone then .next s
  else .next { s with part := (p.putSluice k { r with rampTimer := none, due := true }).retestRamp k }

/-- DUE_UP_STEP_ISSUE: a due up-step held back is issued if R33's conditions now hold. -/
def execDueUpStepIssue (k : Sluice) (s : State) : Host.Outcome State Fault Refusal :=
  .next { s with part := s.part.retestRamp k }

/-- The transfer timer of a sluice as it stands. -/
def SluiceRec.transferTimer (r : SluiceRec) : Option Nat :=
  r.transfer.bind (·.timer)

/-- TRANSFER_TIMER_EXPIRY of a running timer (R36). -/
def execTransferTimerExpiry (k : Sluice) (s : State) : Host.Outcome State Fault Refusal :=
  let p := s.part
  let r := p.sluices.get k
  if r.transferTimer.isNone then .next s
  else
    let stopped := r.transfer.map fun t => { t with timer := none }
    let p1 := p.putSluice k { r with transfer := stopped }
    .next { s with part := (p1.report .transferTimeout (.sluice k)).settle }

/-! ### Lamps (R42, R43) -/

/-- Every lamp at the refresh (R42); the refresh period starts again. -/
def Part.refreshLamps (p : Part) (current : LampMap Bool) : Part :=
  { p with lampTimer := Config.lampPeriod
           lamps := lampMap fun f k => (lampOf p.lamps f k).refreshed (lampOf current f k) }

/-- The lamps that this refresh found failed, in lamp order. -/
def newlyFailed (was now : LampMap LampRec) : List (Face × Colour) :=
  lampList.filter fun x => (lampOf now x.1 x.2).failed && !(lampOf was x.1 x.2).failed

/-- A lamp that becomes failed is noted, and put to the fault handler while its face's move asks PROCEED (R43). -/
def Part.lampLost (p : Part) (x : Face × Colour) : Part :=
  let p1 := p.note fun c => c.noteLamp x.1 x.2
  if (faceOf p1.faces x.1).requested = .proceed ∧ p1.movesThrough x.1 then p1.lampDecision x.1 else p1

/-- LAMP_REFRESH with what each lamp's current sense shows (R42, R43). -/
def execLampRefresh (current : LampMap Bool) (s : State) : Host.Outcome State Fault Refusal :=
  let p := s.part
  let p1 := p.refreshLamps current
  .next { s with part := ((newlyFailed p.lamps p1.lamps).foldl Part.lampLost p1).settle }

/-! ### Inputs of the flight (R63, R121) -/

/-- E_STOP_ASSERTED (R121). An input that already stands asserted is no assertion. -/
def execEStopAsserted (s : State) : Host.Outcome State Fault Refusal :=
  if s.part.eStop then .next s
  else .next { s with part := (({ s.part with eStop := true }).report .eStop .flight).settle }

/-- E_STOP_NEGATED starts nothing (R121). -/
def execEStopNegated (s : State) : Host.Outcome State Fault Refusal :=
  .next { s with part := { s.part with eStop := false } }

/-- NAV_INHIBIT_CHANGE (R63, R64). -/
def execNavInhibitChange (b : Bool) (s : State) : Host.Outcome State Fault Refusal :=
  .next { s with part := ({ s.part with navInhibit := b }).settle }

/-! ### The lockage's timers (R102, R107) -/

/-- The lockage whose move timer runs. -/
def Part.timedMove (p : Part) : Option Lockage :=
  p.lockage.filter (·.moveTimer.isSome)

/-- The lockage whose window timer runs. -/
def Part.timedWindow (p : Part) : Option Lockage :=
  p.lockage.filter (·.windowTimer.isSome)

/-- MOVE_TIMER_EXPIRY of a running timer (R102). -/
def execMoveTimerExpiry (s : State) : Host.Outcome State Fault Refusal :=
  match s.part.timedMove with
  | none => .next s
  | some l =>
    let p1 := s.part.onLockage fun x => { x with moveTimer := none }
    .next { s with part := (p1.report .moveTimeout (.lockage l.number l.current)).settle }

/-- The COMMIT step is in hand in WORKING. -/
def Part.commitInHand (p : Part) : Bool :=
  match p.curStep with
  | some x => decide (x.work = .commit) && decide (p.mode = .working)
  | none => false

/-- WINDOW_TIMER_EXPIRY of a running timer: the COMMIT step ends (R107). -/
def execWindowTimerExpiry (s : State) : Host.Outcome State Fault Refusal :=
  match s.part.timedWindow with
  | none => .next s
  | some _ =>
    let p1 := s.part.onLockage fun x => { x with windowTimer := none }
    .next { s with part := (if p1.commitInHand then p1.advance else p1).settle }

/-- CLOCK_ADVANCE: a second of the part's timebase (R167). -/
def execClockAdvance (s : State) : Host.Outcome State Fault Refusal :=
  .next { s with part := s.part.advanceClock }

/-! ### Moments of the part, examined again on command -/

/-- TURN_EVALUATE: the turn selector recomputes, and evaluates where R64 asks it (R67). -/
def execTurnEvaluate (s : State) : Host.Outcome State Fault Refusal :=
  .next { s with part := s.part.turnArrival false false }

/-- TALLY_APPEND: a pending tally is appended if every enabled outlet has a free slot (R156). -/
def execTallyAppend (s : State) : Host.Outcome State Fault Refusal :=
  .next { s with part := s.part.tryTally.turnArrival false false }

/-- SURVEY_END: the survey's end test (R171). -/
def execSurveyEnd (s : State) : Host.Outcome State Fault Refusal :=
  .next { s with part := s.part.settle }

/-- OPEN_STEP_EVALUATE: the OPEN step in hand takes its tests (R97). -/
def execOpenStepEvaluate (s : State) : Host.Outcome State Fault Refusal :=
  .next { s with part := s.part.reevaluateOpen.settle }

end Sys2Proof.Machine
end

