-- ==== Sys2Proof/Machine/Resets.lean ====
section
/-! DEFINITION. Power-on and the two restarts (sections 10.7 and 9.8), in R172's order. -/

namespace Sys2Proof.Machine

/-- The state a gate's limit inputs give at a reset (R23). -/
def limitState (atClosed atOpen : Bool) : GateState :=
  if atClosed && !atOpen then .closed else if atOpen && !atClosed then .open_ else .stopped

/-- A gate record after a reset, its inputs as they stand (R23). -/
def GateRec.reset (r : GateRec) : GateRec :=
  { state := limitState r.atClosed r.atOpen, drive := .off, travelTimer := none, openPending := false
    commander := .nobody, atClosed := r.atClosed, atOpen := r.atOpen }

/-- A sluice record after a reset, before the close command of R31 (R29). -/
def SluiceRec.reset (r : SluiceRec) : SluiceRec :=
  { SluiceRec.initial with position := r.position }

/-- The reset of gates, sluices, faces and lamps, with the close command to every sluice above 0 (R172, step 3). -/
def Part.resetWorks (p : Part) : Part :=
  let p1 := { p with gates := p.gates.map GateRec.reset, sluices := p.sluices.map SluiceRec.reset }
  let p2 := Gate.all.foldl Part.closeSluice p1
  { p2 with faces := faceMap FaceRec.reset, lamps := lampMap LampRec.reset, lampTimer := Config.lampPeriod }

/-- Every reach record restarts (R1, R7). -/
def Part.resetReaches (p : Part) : Part :=
  { p with reaches := p.reaches.map fun _ => ReachRec.reset }

/-- The tally a restart leaves: a FORCE_TALLY that waited is pending (R158, R160). -/
def TallyState.released : TallyState → TallyState
  | .waiting => .pending true false
  | x => x

/-- The current lockage is discarded and counted lost to reset (R58, R91, R160, R172 step 1). -/
def Part.discardLockage (p : Part) : Part :=
  match p.lockage with
  | none => p
  | some _ =>
    let u := p.outlets.bump .lostToReset 1
    { p with lockage := none, outlets := { u with tally := u.tally.released } }

/-- No halt survives a reset (R113, R172 step 2). -/
def Part.clearFaults (p : Part) : Part :=
  { p with faults := { halt := none, reported := [] } }

/-- What RESTART_CLEAR empties (R162, R172 step 5). -/
def Part.clearSettings (p : Part) : Part :=
  { p with settings := Settings.unset, upQueue := [], downQueue := [] }

/-- The turn selector after a restart (R61); the calls are derived again from what the queues hold (R59). -/
def Part.resetTurn (p : Part) (kind : RestartKind) : Part :=
  let p1 := p.deriveCalls
  let last := match kind with
    | .keep => p.turn.pattern.lastUp
    | .clear => false
  let pattern : Pattern :=
    { up := p1.calls.up, down := p1.calls.down, upPriority := p1.calls.upPriority
      downPriority := p1.calls.downPriority, lastUp := last }
  { p1 with turn := { pattern := pattern, readiness := false, rejectHold := none, planWait := false
                      nextLockage := p.turn.nextLockage } }

/-- The condition record after a reset (R179). -/
def Conditions.restart (c : RestartCause) : Conditions :=
  { Conditions.empty with restarted := some c }

/-- The link interface after a reset; the strap rate is read again (R175, section 11.1). -/
def Part.resetLink (p : Part) (c : RestartCause) : Part :=
  { p with link := { receivers := ⟨.hunting, .hunting, .hunting⟩, checkErrors := ⟨0, 0, 0⟩
                     conditions := Conditions.restart c, armed := false, watchdog := none, lost := false
                     rate := p.straps } }

/-- The mode after a restart, with the survey begun where it is SURVEY (R170, R173). -/
def Part.resetMode (p : Part) (kind : RestartKind) : Part :=
  if kind = .keep ∧ p.complete then ({ p with mode := .survey }).surveyWork else { p with mode := .startup }

/-- A double limit found at a reset is reported in the mode after it (R23, R172 step 8). -/
def Part.reportDouble (p : Part) (g : Gate) : Part :=
  let r := p.gates.get g
  if r.atClosed && r.atOpen then p.report .gateLimit (.gate g) else p

/-- The outlets offer their heads again, and a pending tally is appended if there is room (R149, R160). -/
def Part.reofferOutlets (p : Part) : Part :=
  ([Port.a, Port.b, Port.c].foldl Part.offerHead p).tryTally

/-- The reset of a RESTART, as one event in R172's order. -/
def Part.restart (p : Part) (kind : RestartKind) : Part :=
  let p1 := p.discardLockage.clearFaults.resetWorks.resetReaches
  let p2 := match kind with
    | .keep => p1
    | .clear => p1.clearSettings
  let cause : RestartCause := match kind with
    | .keep => .keep
    | .clear => .clear
  let p3 := (((p2.resetTurn kind).resetMode kind).resetLink cause).eStopStanding.reofferOutlets
  (Gate.all.foldl Part.reportDouble p3).settle

/-- The field connections as power-on finds them. -/
def Part.withInputs (p : Part) (v : FieldInputs) : Part :=
  let gate (g : Gate) : GateRec :=
    { GateRec.initial with atClosed := v.closedLimit.get g, atOpen := v.openLimit.get g }
  let sluice (k : Sluice) : SluiceRec := { SluiceRec.initial with position := (v.feedback.get k).val }
  { p with
    eStop := v.eStop
    navInhibit := v.navInhibit
    straps := v.straps
    gates := ⟨gate .g0, gate .g1, gate .g2, gate .g3⟩
    sluices := ⟨sluice .g0, sluice .g1, sluice .g2, sluice .g3⟩ }

/-- Power-on: the reset of an empty part with the field as it stands (R172, R173). -/
def Part.powerOn (v : FieldInputs) : Part :=
  let p := ((Part.initial.withInputs v).resetWorks).resetLink .power
  (Gate.all.foldl Part.reportDouble p).settle

/-- POWER_ON: nothing of the part's state before it is kept. -/
def execPowerOn (v : FieldInputs) (s : State) : Host.Outcome State Fault Refusal :=
  .next { s with part := Part.powerOn v }

/-- The RESTART reply precedes the reset (R172). -/
def Part.takeRestart (p : Part) (tag : Tag) (kind : RestartKind) : Part :=
  (p.accept .a tag (.restart kind)).restart kind

def execRestartKeep (tag : Tag) (s : State) : Host.Outcome State Fault Refusal :=
  .next { s with part := s.part.takeRestart tag .keep }

def execRestartClear (tag : Tag) (s : State) : Host.Outcome State Fault Refusal :=
  .next { s with part := s.part.takeRestart tag .clear }

end Sys2Proof.Machine
end

