-- ==== Sys2Proof/Machine/Requests.lean ====
section
/-! DEFINITION. The requests that act: the loads, the clock, START, the vessel queues, the clearances, moves,
trims, halts and recoveries, tallies and outlets. Each `take…` is the request as its block takes it. -/

namespace Sys2Proof.Machine

/-! ### Loads (R165) -/

/-- A load outside STARTUP and REST is refused (R165, test 1). -/
def Part.ifLoads (p : Part) (tag : Tag) (q : Part) : Part :=
  if modeLoads p.mode then q else p.refuse .a tag .notAtRest

def Part.takeLoadFlight (p : Part) (tag : Tag) (v : FlightLoad) : Part :=
  p.ifLoads tag (p.takeLoad tag (flightClamped v) fun q => q.applyFlight (storeFlight v))

def Part.takeLoadReach (p : Part) (tag : Tag) (i : Nat) (v : ReachLoad) : Part :=
  p.ifLoads tag (match Reach.ofIndex i with
    | some r => p.takeLoad tag (reachClamped v r) fun q => q.applyReach r (storeReach v r)
    | none => p.refuse .a tag .badValue)

def Part.takeLoadWorks (p : Part) (tag : Tag) (v : WorksLoad) : Part :=
  p.ifLoads tag (p.takeLoad tag (worksClamped v) fun q =>
    q.store fun s => { s with works := some (storeWorks v) })

def Part.takeLoadTariff (p : Part) (tag : Tag) (v : TariffLoad) : Part :=
  p.ifLoads tag (p.takeLoad tag (tariffClamped v) fun q =>
    q.store fun s => { s with tariff := some (storeTariff v) })

def Part.takeLoadTurns (p : Part) (tag : Tag) (v : List TurnEntryLoad) : Part :=
  p.ifLoads tag (p.takeLoad tag (turnsClamped v) fun q => q.applyTurns (storeTurns v))

def Part.takeLoadOutlets (p : Part) (tag : Tag) (v : OutletsLoad) : Part :=
  p.ifLoads tag (if p.outlets.busy (storeOutlets v) then p.refuse .a tag .outletBusy
    else p.takeLoad tag (outletsClamped v) fun q => q.applyOutlets (storeOutlets v))

def Part.takeLoadResponses (p : Part) (tag : Tag) (v : ResponsesLoad) : Part :=
  p.ifLoads tag (p.takeLoad tag (responsesClamped v) fun q => q.applyResponses (storeResponses v))

/-! ### Clock, START, datum and lamps -/

/-- SET_CLOCK (R168). -/
def Part.takeSetClock (p : Part) (tag : Tag) (day second : Nat) : Part :=
  if 86399 < second then p.refuse .a tag .badValue
  else (p.accept .a tag (.clock p.clock)).setClock day second

/-- START (R169). -/
def Part.takeStart (p : Part) (tag : Tag) : Part :=
  if p.mode ≠ .startup then p.refuse .a tag .notCurrent
  else if p.complete then (p.accept .a tag .nothing).startSurvey
  else p.refuse .a tag (.setupIncomplete p.missing)

/-- CAPTURE_DATUM (R19, R20). -/
def Part.takeCaptureDatum (p : Part) (tag : Tag) (i : Nat) (level : Int) : Part :=
  if p.mode ≠ .rest then p.refuse .a tag .notAtRest
  else
    match Reach.ofIndex i with
    | none => p.refuse .a tag .badValue
    | some r =>
      match p.captureGroup r level with
      | none => p.refuse .a tag .badValue
      | some (g, clamped) => (p.accept .a tag (.datum g.zero clamped)).applyZero r g

/-- LAMP_CLEAR (R44). -/
def Part.takeLampClear (p : Part) (tag : Tag) : Part :=
  if p.mode ≠ .rest then p.refuse .a tag .notAtRest
  else (p.accept .a tag (.lamps p.failedLamps)).clearLamps

/-! ### The vessel queues (R49, R50, R52) -/

/-- The vessel takes its place, and its ticket is spent (R47, R48, R50). -/
def Part.enrol (p : Part) (v : Vessel) : Part :=
  let p1 := p.setQueue v.direction (placeVessel v (p.queueOf v.direction))
  ({ p1 with nextTicket := nextNumber v.ticket }).deriveCalls

/-- The reply and the effect of an accepted REGISTER (R50). -/
def Part.acceptRegister (p : Part) (tag : Tag) (v : RegisterRequest) (x : Vessel) : Part :=
  let dropped := decide (x.accountKind = .cash) && v.accountNumber.isSome
  let reply : ReplyData := .register x.ticket (placePosition x (p.queueOf x.direction)) x.length
    (decide (v.length < 50)) dropped
  ((p.accept .a tag reply).enrol x).settle

/-- REGISTER (R49, R50). -/
def Part.takeRegister (p : Part) (tag : Tag) (v : RegisterRequest) : Part :=
  match p.registerRefusal v with
  | some r => p.refuse .a tag r
  | none =>
    match Direction.ofCode v.direction, VesselClass.ofCode v.cls, AccountKind.ofCode v.accountKind with
    | some d, some c, some k => p.acceptRegister tag v (p.newVessel v d c k)
    | _, _, _ => p.refuse .a tag .badValue

/-- CANCEL (R52). -/
def Part.takeCancel (p : Part) (tag : Tag) (ticket : Nat) : Part :=
  if p.convoy.any fun v => decide (v.ticket = ticket) then p.refuse .a tag .inLockage
  else
    match p.findTicket ticket with
    | none => p.refuse .a tag .noSuchTicket
    | some (d, v, i) =>
      let p1 := p.accept .a tag (.cancel v.hull d i)
      (p1.setQueue d (removeAt i (p1.queueOf d))).deriveCalls.settle

/-! ### Clearances (R103, R104, R108) -/

/-- The reply to an accepted clearance request, from the record as it is stored (R103). -/
def Lockage.clearanceReply (l : Lockage) (withdrew returned : Bool) : ReplyData :=
  .clearance l.number l.entry l.exit l.commitment l.late withdrew returned

/-- An accepted clearance: the record as changed, then the reply (R103). -/
def Part.storeClearance (p : Part) (tag : Tag) (l : Lockage) (withdrew returned : Bool) : Part :=
  ({ p with lockage := some l }).accept .a tag (l.clearanceReply withdrew returned)

/-- The entry move waits in AWAITING in WORKING (R104). -/
def Part.entryAwaiting (p : Part) : Option (Gate × Direction) :=
  match p.lockage, p.curStep with
  | some l, some ⟨.move g d, .entry⟩ => if p.mode = .working ∧ l.stage = .awaiting then some (g, d) else none
  | _, _ => none

/-- The entry move proceeds once its clearance is given (R104). -/
def Part.releaseEntry (p : Part) : Part :=
  match p.entryAwaiting with
  | some (g, d) => p.moveUnderWay g d
  | none => p

/-- ENTRY_CLEAR once the lockage is found (R103, R104). -/
def Part.entryClear (p : Part) (tag : Tag) (l : Lockage) : Part :=
  if l.entry = .notNeeded then p.refuse .a tag .notNeeded
  else if l.entry = .given then p.accept .a tag (l.clearanceReply false false)
  else (p.storeClearance tag { l with entry := .given } false false).releaseEntry.settle

/-- ENTRY_REFUSE once the lockage is found (R103, R104). -/
def Part.entryRefuse (p : Part) (tag : Tag) (l : Lockage) : Part :=
  if l.entry = .notNeeded then p.refuse .a tag .notNeeded
  else if l.entryPassed then p.refuse .a tag .tooLate
  else if l.entry = .refused then p.accept .a tag (l.clearanceReply false false)
  else if p.mode = .working then
    (p.storeClearance tag { l with entry := .refused } true false).withdraw.settle
  else p.storeClearance tag { l with entry := .refused } false false

/-- The steps of phase RETURN stand in the plan (R108). -/
def Lockage.returns (l : Lockage) : Bool :=
  l.plan.any fun s => decide (s.phase = .returning)

/-- The exit OPEN has reached TRAVEL, now or before a halt, or a later step is current (R108). -/
def Lockage.exitBegun (l : Lockage) : Bool :=
  l.exitCommanded ||
    match l.plan[l.current - 1]? with
    | some ⟨.openGate _, .exit⟩ => decide (l.stage = .travel)
    | some ⟨_, .exit⟩ => true
    | _ => false

/-- EXIT_CLEAR once the lockage is found (R103, R108). -/
def Part.exitClear (p : Part) (tag : Tag) (l : Lockage) : Part :=
  if l.exit = .notNeeded then p.refuse .a tag .notNeeded
  else if l.returns then p.refuse .a tag .tooLate
  else if l.exit = .given then p.accept .a tag (l.clearanceReply false false)
  else
    let p1 := p.storeClearance tag { l with exit := .given } false false
    (if p1.commitInHand then p1.advance else p1.reevaluateOpen).settle

/-- EXIT_REFUSE once the lockage is found (R103, R108, R109); a stored refusal is a change of the exit clearance,
at which a waiting OPEN step evaluates (R97). -/
def Part.exitRefuse (p : Part) (tag : Tag) (l : Lockage) : Part :=
  if l.exit = .notNeeded then p.refuse .a tag .notNeeded
  else if l.returns then p.accept .a tag (l.clearanceReply false false)
  else if l.exitBegun then p.refuse .a tag .tooLate
  else if l.exit = .refused then p.accept .a tag (l.clearanceReply false false)
  else if l.commitment = some .passed then
    (p.storeClearance tag { l with exit := .refused, late := true } false false).reevaluateOpen.settle
  else if p.commitInHand then
    let p1 := p.storeClearance tag { l with exit := .refused } false true
    (p1.onLockage Lockage.turnedBack).advance.settle
  else (p.storeClearance tag { l with exit := .refused } false false).reevaluateOpen.settle

/-- A request that names the current lockage is handed its record; any other is refused NOT_CURRENT (R103). -/
def Part.ifCurrent (p : Part) (tag : Tag) (n : Nat) (f : Lockage → Part) : Part :=
  match p.lockage with
  | some l => if l.number = n then f l else p.refuse .a tag .notCurrent
  | none => p.refuse .a tag .notCurrent

def Part.takeEntryClear (p : Part) (tag : Tag) (n : Nat) : Part :=
  p.ifCurrent tag n (p.entryClear tag)

def Part.takeEntryRefuse (p : Part) (tag : Tag) (n : Nat) : Part :=
  p.ifCurrent tag n (p.entryRefuse tag)

def Part.takeExitClear (p : Part) (tag : Tag) (n : Nat) : Part :=
  p.ifCurrent tag n (p.exitClear tag)

def Part.takeExitRefuse (p : Part) (tag : Tag) (n : Nat) : Part :=
  p.ifCurrent tag n (p.exitRefuse tag)

/-! ### MOVE_DONE and TRIM -/

/-- The move step in hand ends: its timer stops and its face is requested STOP (R100). -/
def Part.endMove (p : Part) (g : Gate) (d : Direction) : Part :=
  ((p.onLockage fun l => { l with moveTimer := none }).requestAspect (faceServing g d) .stop).advance

/-- MOVE_DONE for the move in hand, UNDER_WAY (R100, R101). -/
def Part.confirmMove (p : Part) (g : Gate) (d : Direction) : Part :=
  if p.mode = .working then (p.endMove g d).settle
  else p.onLockage fun l => { l with moveDone := true }

/-- MOVE_DONE once the lockage is found (R101). -/
def Part.moveDone (p : Part) (tag : Tag) (index : Nat) (l : Lockage) : Part :=
  match p.curStep with
  | some ⟨.move g d, _⟩ =>
    if index = l.current ∧ l.stage ≠ .awaiting then (p.accept .a tag .nothing).confirmMove g d
    else p.refuse .a tag .notCurrent
  | _ => p.refuse .a tag .notCurrent

def Part.takeMoveDone (p : Part) (tag : Tag) (n index : Nat) : Part :=
  p.ifCurrent tag n (p.moveDone tag index)

/-- The trim after an adjustment, saturating (R37). -/
def trimmed (trim adjustment : Int) : Int :=
  clampInt (-15) 15 (trim + adjustment)

/-- The adjustment is one TRIM allows (R37). -/
def adjusts (a : Int) : Bool :=
  decide (a = 1) || decide (a = -1)

/-- TRIM once its sluice is found (R37). -/
def Part.trimSluice (p : Part) (tag : Tag) (k : Sluice) (a : Int) : Part :=
  let r := p.sluices.get k
  if r.transfer.isNone then p.refuse .a tag .notCurrent
  else
    let p1 := p.putSluice k { r with trim := trimmed r.trim a }
    (p1.accept .a tag (.trim (trimmed r.trim a) (p1.effectiveCap k))).retestRamp k

/-- TRIM (R37). -/
def Part.takeTrim (p : Part) (tag : Tag) (i : Nat) (a : Int) : Part :=
  match Gate.ofIndex i with
  | some k => if adjusts a then p.trimSluice tag k a else p.refuse .a tag .badValue
  | none => p.refuse .a tag .badValue

/-! ### HALT, RESUME, ABANDON (R122 to R126) -/

/-- A lockage or a survey runs. -/
def modeRuns : Mode → Bool
  | .working => true
  | .survey => true
  | _ => false

/-- HALT (R122). -/
def Part.takeHalt (p : Part) (tag : Tag) : Part :=
  if p.mode = .halted then p.accept .a tag (.halt .halted false)
  else p.acceptFirst tag (fun q => (q.report .operatorHalt .flight).settle)
    fun q => .halt q.mode (modeRuns p.mode)

/-- A gate has both its limit inputs asserted (R123). -/
def Part.doubleLimit (p : Part) : Bool :=
  !p.gates.all fun r => !(r.atClosed && r.atOpen)

/-- A reach of the compare across g is BROKEN (R123). -/
def Part.brokenBeside (p : Part) (g : Gate) : Bool :=
  decide ((p.reaches.get g.above).cls = .broken) || decide ((p.reaches.get g.below).cls = .broken)

/-- The halted step needs a compare that a BROKEN reach spoils (R123). -/
def Part.needsBroken (p : Part) : Bool :=
  match p.curStep with
  | some ⟨.transfer k, _⟩ => p.brokenBeside k
  | some ⟨.openGate g, _⟩ => p.brokenBeside g
  | _ => false

/-- A cause that refuses RESUME persists (R123). -/
def Part.stillFaulted (p : Part) : Bool :=
  p.eStop || p.doubleLimit || p.needsBroken

/-- The halt record is cleared and the mode it gives way to is announced (R124, R126). -/
def Part.leaveHalt (p : Part) (m : Mode) : Part :=
  (({ p with faults := { p.faults with halt := none } }).enterMode m).event (.mode m none)

/-- The halted re-level of an OPEN step is taken as a TRANSFER (R124): its own transfer still in CLOSING is taken
over, and any other starts anew from the present position (R32). At its end the step evaluates from its first test.
A step halted in LEVELLING has its re-level in flight, also where the halt stopped or ended it (log entry 18). -/
def Part.restartRelevel (p : Part) (g : Gate) (n : Nat) : Part :=
  let x := (p.setStage .levelling).beginTransfer g n
  if x.2 then x.1.transferReported g n else x.1

/-- The halted step restarts by its kind (R124, step 4). -/
def Part.restartStep (p : Part) (l : Lockage) (s : PlanStep) : Part :=
  match s.work with
  | .openGate g =>
    let p1 := p.makeCurrent l.current
    if l.stage = .levelling then p1.restartRelevel g l.number else p1.work
  | .move g d =>
    if l.moveDone then (p.makeCurrent l.current).endMove g d
    else if (p.gates.get g).state ≠ .open_ then (p.makeCurrent (l.current - 1)).work
    else (p.makeCurrent l.current).work
  | _ => (p.makeCurrent l.current).work

/-- The record examined at RESUME before the halted step restarts (R111, R124). -/
def Part.resumeLockage (p : Part) : Part :=
  match p.lockage, p.curStep with
  | some l, some s =>
    if l.entry = .refused ∧ l.entryPassed = false then p.withdraw
    else
      let p1 := if l.entryPassed then p else p.requestAspect l.direction.entryFace .ready
      p1.restartStep l s
  | _, _ => p

/-- An accepted RESUME: a lockage halt (R124) or a survey halt (R126). -/
def Part.resumeFlight (p : Part) : Part :=
  match p.lockage with
  | some _ => ((p.leaveHalt .working).resumeLockage).settle
  | none => (p.leaveHalt .survey).beginSurvey.settle

/-- RESUME (R123). -/
def Part.takeResume (p : Part) (tag : Tag) : Part :=
  if p.mode ≠ .halted then p.refuse .a tag .notCurrent
  else if p.stillFaulted then p.refuse .a tag .stillFaulted
  else p.acceptFirst tag Part.resumeFlight fun q => .resume q.mode

/-- An accepted ABANDON: a lockage halt (R125) or a survey halt (R126). The entry gate of a convoy that has not
entered is given CLOSE while E-STOP is asserted too, the model's reading of R125 (log entry 31). -/
def Part.abandonFlight (p : Part) : Part :=
  match p.lockage with
  | some l =>
    let p1 := { p with faults := { p.faults with halt := none } }
    let p2 := if l.entryPassed then p1 else p1.closeEntry l.direction .nobody
    ((p2.endLockage .abandoned).event (.mode .rest none)).settle
  | none => (p.leaveHalt .survey).beginSurvey.settle

/-- ABANDON (R125). -/
def Part.takeAbandon (p : Part) (tag : Tag) : Part :=
  if p.mode ≠ .halted then p.refuse .a tag .notCurrent
  else (p.accept .a tag .nothing).abandonFlight

/-! ### The outlet unit's requests (R150, R158) -/

/-- A lockage is current in WORKING or HALTED, so a FORCE_TALLY waits (R158). -/
def Part.tallyWaits (p : Part) : Bool :=
  decide (p.mode = .working) || (decide (p.mode = .halted) && p.lockage.isSome)

/-- The tally state a FORCE_TALLY leaves (R158). -/
def Part.forceTally (p : Part) : Part :=
  match p.outlets.tally with
  | .none =>
    if p.tallyWaits then ({ p with outlets := { p.outlets with tally := .waiting } }).settle
    else (({ p with outlets := { p.outlets with tally := .pending true false } }).tryTally).settle
  | _ => p

/-- The tally state in the reply (R158). -/
def forceReply (was now : TallyState) : TallyReply :=
  match was with
  | .none =>
    match now with
    | .waiting => .waiting
    | .pending _ _ => .pending
    | .outstanding _ => .outstanding
    | .none => .unchanged
  | _ => .unchanged

/-- FORCE_TALLY (R158). -/
def Part.takeForceTally (p : Part) (tag : Tag) : Part :=
  p.acceptFirst tag Part.forceTally fun q => .tally (forceReply p.outlets.tally q.outlets.tally)

/-- The head of an outlet is taken: the reply, the next offer, and what the freed slot brings (R150, R156, R157). -/
def Part.takeHead (p : Part) (q : Port) (tag : Tag) (n : Nat) : Part :=
  let p1 := p.removeHead q
  let head := ((p1.outlets.outlets.get q).queue.head?).map (·.sequence)
  let p2 := (p1.accept q tag (.taken n head)).offerHead q
  p2.settleTally.tryTally.settle

/-- TAKEN (R150). -/
def Part.takeTaken (p : Part) (q : Port) (tag : Tag) (n : Nat) : Part :=
  match (p.outlets.outlets.get q).queue with
  | r :: _ => if r.sequence = n then p.takeHead q tag n else p.refuse q tag .notHead
  | [] => p.refuse q tag .notHead

end Sys2Proof.Machine
end

