-- ==== Sys2Proof/Machine/Queries.lean ====
section
/-! DEFINITION. What the host sees (R21, R45, R60, R74, R112, R128, R161, R174, R181), the condition rule (R180),
and the meanings of the request rows, each handed to its block with its reply on its port. -/

namespace Sys2Proof.Machine

/-! ### The views -/

def Part.reachView (p : Part) (r : Reach) : ReachView :=
  let x := p.reaches.get r
  { cls := x.cls, level := p.level r, previousRaw := x.previousRaw, missed := x.missed }

def Part.chamberView (p : Part) (c : Chamber) : ChamberView :=
  { state := p.chamberState c, isolationLevel := (p.reaches.get c.reach).isolationLevel }

def GateRec.view (r : GateRec) : GateView :=
  { state := r.state, atClosed := r.atClosed, atOpen := r.atOpen, openPending := r.openPending }

/-- The cap and the effective cap are absent while WORKS is UNSET (R45). -/
def Part.sluiceView (p : Part) (k : Sluice) : SluiceView :=
  let r := p.sluices.get k
  { position := r.position, state := r.state, cap := p.settings.works.map fun w => w.cap.get k, trim := r.trim
    effectiveCap := p.settings.works.map fun _ => p.effectiveCap k, phase := r.transfer.map (·.phase) }

def FaceRec.view (r : FaceRec) : FaceView :=
  { requested := r.requested, shown := r.shown }

def LampRec.view (r : LampRec) : LampView :=
  { command := r.command, armed := r.armed, failed := r.failed }

/-- Which end conditions of the survey still fail (R174). -/
def Part.surveyView (p : Part) : SurveyView :=
  { readingsFail := !p.reachesOrdered
    gatesFail := !p.gates.all GateRec.atLimit
    sluicesFail := !p.sluices.all SluiceRec.shut
    reaches := Reach.all.filter fun r => !(p.reaches.get r).cls.ordered
    gates := Gate.all.filter fun g => !(p.gates.get g).atLimit
    sluices := Gate.all.filter fun k => decide ((p.sluices.get k).position ≠ 0) }

/-- The response table of a RESPONSES group (R115, R128). -/
def Responses.table (g : Responses) : ResponseTable :=
  { sensorStale := g.sensorStale, sensorLimited := g.sensorLimited, transferTimeout := g.transferTimeout
    levelDrift := g.levelDrift, lampFailed := g.lampFailed, moveTimeout := g.moveTimeout }

/-- The groups that are UNSET (R174). -/
def Part.unsetGroups (p : Part) : List Missing :=
  p.missing.filter fun m => decide (m ≠ .clock)

/-- The QUERY_FLIGHT data (R21, R45, R74, R128, R174). -/
def Part.flightView (p : Part) : FlightView :=
  { reaches := ⟨p.reachView .head, p.reachView .c1, p.reachView .c2, p.reachView .c3, p.reachView .tail⟩
    c1 := p.chamberView .c1
    c2 := p.chamberView .c2
    c3 := p.chamberView .c3
    flood := p.flood
    gates := p.gates.map GateRec.view
    sluices := ⟨p.sluiceView .g0, p.sluiceView .g1, p.sluiceView .g2, p.sluiceView .g3⟩
    faces := faceMap fun f => (faceOf p.faces f).view
    lamps := lampMap fun f k => (lampOf p.lamps f k).view
    pattern := p.turn.pattern.index
    readiness := p.turn.readiness
    conditions := p.readyView
    rejectHold := p.turn.rejectHold.map (·.index)
    planWait := p.turn.planWait
    nextLockage := p.turn.nextLockage
    mode := p.mode
    halt := p.faults.halt
    responses := p.settings.responses.map Responses.table
    reported := p.faults.reported
    eStop := p.eStop
    unset := p.unsetGroups
    clock := p.clock
    survey := if p.mode = .survey then some p.surveyView else none }

def Part.queueView (p : Part) (d : Direction) : QueueView :=
  { count := (p.queueOf d).length, reserved := p.reserved d, call := p.callOf d, priority := p.priorityOf d
    records := p.queueOf d }

/-- The QUERY_QUEUES data (R60). -/
def Part.queuesView (p : Part) : QueuesView :=
  { up := p.queueView .up, down := p.queueView .down, nextTicket := p.nextTicket
    lockage := p.lockage.map fun l =>
      { direction := l.direction, tickets := l.convoy.map (·.ticket), returnable := !l.entryPassed } }

/-- The QUERY_LOCKAGE data of a lockage (R112). -/
def Lockage.view (l : Lockage) : LockageView :=
  { number := l.number, direction := l.direction, cls := l.cls
    convoy := l.convoy.map fun v => (v.ticket, v.hull)
    plan := l.plan, current := l.current, stage := l.stage, entry := l.entry, exit := l.exit
    commitment := l.commitment, entryPassed := l.entryPassed, late := l.late, headDraws := l.headDraws
    tideWait := l.tideWait, tideReported := l.tideReported, moveTimer := l.moveTimer
    windowTimer := l.windowTimer, moveDone := l.moveDone, turnTime := l.turnTime, outcome := l.outcome }

def Outlet.view (o : Outlet) : OutletView :=
  { enabled := o.enabled, depth := o.depth, state := o.state, count := o.queue.length
    sequences := o.queue.map (·.sequence) }

/-- The QUERY_OUTLETS data (R161). -/
def OutletUnit.view (u : OutletUnit) : OutletsView :=
  { outlets := u.outlets.map Outlet.view, nextSequence := u.nextSequence, interval := u.interval
    counters := u.counters, saturated := u.saturated, nextTally := u.nextTally, tally := u.tally }

/-- The QUERY_LINK data (R181). -/
def Part.linkView (p : Part) : LinkView :=
  { rate := p.link.rate, checkErrors := p.link.checkErrors
    periodCode := p.settings.responses.map (·.periodCode), armed := p.link.armed, watchdog := p.link.watchdog
    lost := p.link.lost }

/-! ### The condition rule (R180, R181) -/

/-- The condition record is shown to the host and cleared (R179, R180, R181). -/
def Part.showConditions (p : Part) (tag : Tag) : Part :=
  (p.send .a (.condition tag p.link.conditions)).note fun _ => Conditions.empty

/-- A query on port A under the condition rule (R180). -/
def Part.query (p : Part) (tag : Tag) (d : ReplyData) : Part :=
  if p.link.conditions.critical then p.showConditions tag else p.accept .a tag d

def Part.takeQueryFlight (p : Part) (tag : Tag) : Part := p.query tag (.flight p.flightView)

def Part.takeQueryQueues (p : Part) (tag : Tag) : Part := p.query tag (.queues p.queuesView)

def Part.takeQueryLockage (p : Part) (tag : Tag) : Part := p.query tag (.lockage (p.lockage.map Lockage.view))

def Part.takeQueryOutlets (p : Part) (tag : Tag) : Part := p.query tag (.outlets p.outlets.view)

def Part.takeQueryLink (p : Part) (tag : Tag) : Part := p.query tag (.link p.linkView)

/-- What PEEK returns of the outlet of a port (R151). -/
def Part.peekData (p : Part) (q : Port) : ReplyData :=
  let o := p.outlets.outlets.get q
  .peek o.queue.length o.queue.head?

/-- PEEK: on port A a query under the condition rule, on B and C answered whatever stands (R151, R180). -/
def Part.takePeek (p : Part) (q : Port) (tag : Tag) : Part :=
  if q = .a then p.query tag (p.peekData .a) else p.accept q tag (p.peekData q)

/-! ### The request rows -/

def execLoadFlight (tag : Tag) (v : FlightLoad) (s : State) : Host.Outcome State Fault Refusal :=
  .next { s with part := s.part.takeLoadFlight tag v }

def execLoadReach (tag : Tag) (reach : Nat) (v : ReachLoad) (s : State) : Host.Outcome State Fault Refusal :=
  .next { s with part := s.part.takeLoadReach tag reach v }

def execLoadWorks (tag : Tag) (v : WorksLoad) (s : State) : Host.Outcome State Fault Refusal :=
  .next { s with part := s.part.takeLoadWorks tag v }

def execLoadTariff (tag : Tag) (v : TariffLoad) (s : State) : Host.Outcome State Fault Refusal :=
  .next { s with part := s.part.takeLoadTariff tag v }

def execLoadTurns (tag : Tag) (v : List TurnEntryLoad) (s : State) : Host.Outcome State Fault Refusal :=
  .next { s with part := s.part.takeLoadTurns tag v }

def execLoadOutlets (tag : Tag) (v : OutletsLoad) (s : State) : Host.Outcome State Fault Refusal :=
  .next { s with part := s.part.takeLoadOutlets tag v }

def execLoadResponses (tag : Tag) (v : ResponsesLoad) (s : State) : Host.Outcome State Fault Refusal :=
  .next { s with part := s.part.takeLoadResponses tag v }

def execSetClock (tag : Tag) (day second : Nat) (s : State) : Host.Outcome State Fault Refusal :=
  .next { s with part := s.part.takeSetClock tag day second }

def execStart (tag : Tag) (s : State) : Host.Outcome State Fault Refusal :=
  .next { s with part := s.part.takeStart tag }

def execRegister (tag : Tag) (v : RegisterRequest) (s : State) : Host.Outcome State Fault Refusal :=
  .next { s with part := s.part.takeRegister tag v }

def execCancel (tag : Tag) (ticket : Nat) (s : State) : Host.Outcome State Fault Refusal :=
  .next { s with part := s.part.takeCancel tag ticket }

def execEntryClear (tag : Tag) (n : Nat) (s : State) : Host.Outcome State Fault Refusal :=
  .next { s with part := s.part.takeEntryClear tag n }

def execEntryRefuse (tag : Tag) (n : Nat) (s : State) : Host.Outcome State Fault Refusal :=
  .next { s with part := s.part.takeEntryRefuse tag n }

def execExitClear (tag : Tag) (n : Nat) (s : State) : Host.Outcome State Fault Refusal :=
  .next { s with part := s.part.takeExitClear tag n }

def execExitRefuse (tag : Tag) (n : Nat) (s : State) : Host.Outcome State Fault Refusal :=
  .next { s with part := s.part.takeExitRefuse tag n }

def execMoveDone (tag : Tag) (n index : Nat) (s : State) : Host.Outcome State Fault Refusal :=
  .next { s with part := s.part.takeMoveDone tag n index }

def execTrim (tag : Tag) (sluice : Nat) (adjustment : Int) (s : State) : Host.Outcome State Fault Refusal :=
  .next { s with part := s.part.takeTrim tag sluice adjustment }

def execHalt (tag : Tag) (s : State) : Host.Outcome State Fault Refusal :=
  .next { s with part := s.part.takeHalt tag }

def execResume (tag : Tag) (s : State) : Host.Outcome State Fault Refusal :=
  .next { s with part := s.part.takeResume tag }

def execAbandon (tag : Tag) (s : State) : Host.Outcome State Fault Refusal :=
  .next { s with part := s.part.takeAbandon tag }

def execForceTally (tag : Tag) (s : State) : Host.Outcome State Fault Refusal :=
  .next { s with part := s.part.takeForceTally tag }

def execCaptureDatum (tag : Tag) (reach : Nat) (level : Int) (s : State) : Host.Outcome State Fault Refusal :=
  .next { s with part := s.part.takeCaptureDatum tag reach level }

def execLampClear (tag : Tag) (s : State) : Host.Outcome State Fault Refusal :=
  .next { s with part := s.part.takeLampClear tag }

/-- CONDITION_READ (R181). -/
def execConditionRead (tag : Tag) (s : State) : Host.Outcome State Fault Refusal :=
  .next { s with part := s.part.showConditions tag }

def execQueryFlight (tag : Tag) (s : State) : Host.Outcome State Fault Refusal :=
  .next { s with part := s.part.takeQueryFlight tag }

def execQueryQueues (tag : Tag) (s : State) : Host.Outcome State Fault Refusal :=
  .next { s with part := s.part.takeQueryQueues tag }

def execQueryLockage (tag : Tag) (s : State) : Host.Outcome State Fault Refusal :=
  .next { s with part := s.part.takeQueryLockage tag }

def execQueryOutlets (tag : Tag) (s : State) : Host.Outcome State Fault Refusal :=
  .next { s with part := s.part.takeQueryOutlets tag }

def execQueryLink (tag : Tag) (s : State) : Host.Outcome State Fault Refusal :=
  .next { s with part := s.part.takeQueryLink tag }

def execTaken (q : Port) (tag : Tag) (n : Nat) (s : State) : Host.Outcome State Fault Refusal :=
  .next { s with part := s.part.takeTaken q tag n }

def execPeek (q : Port) (tag : Tag) (s : State) : Host.Outcome State Fault Refusal :=
  .next { s with part := s.part.takePeek q tag }

end Sys2Proof.Machine
end

