-- ==== Sys2Proof/Machine/Link.lean ====
section
/-! DEFINITION. The link interface (chapter 11): receivers, the check, valid frames, the watchdog, and the routing
of a request to the block that owns it. -/

namespace Sys2Proof.Machine

/-! ### The check (R185) -/

/-- One bit into the CRC-16 with polynomial 0x1021 (R185). -/
def crcBit (crc : BitVec 16) (bit : Bool) : BitVec 16 :=
  if crc.msb = bit then crc <<< 1 else (crc <<< 1) ^^^ 0x1021#16

/-- The bits of a byte, most significant first (R185). -/
def bitsOf (b : Byte) : List Bool :=
  [b.getLsbD 7, b.getLsbD 6, b.getLsbD 5, b.getLsbD 4, b.getLsbD 3, b.getLsbD 2, b.getLsbD 1, b.getLsbD 0]

/-- One byte into the CRC-16. -/
def crcByte (crc : BitVec 16) (b : Byte) : BitVec 16 :=
  (bitsOf b).foldl crcBit crc

/-- The CRC-16 over some bytes, from 0xFFFF (R185). -/
def crc16 (bs : List Byte) : BitVec 16 :=
  bs.foldl crcByte 0xFFFF#16

/-- The check bytes over LEN, KIND, TAG and BODY match (R176). -/
def frameOk (len : Nat) (bytes : List Byte) : Bool :=
  decide (crc16 (BitVec.ofNat 8 len :: bytes.take len) = BitVec.ofNat 16 (natOf (bytes.drop len)))

/-! ### The watchdog (R182, R183) -/

/-- The watchdog period in force; off while RESPONSES is UNSET (R182). -/
def Part.period (p : Part) : Option Nat :=
  p.settings.responses.bind fun g => watchdogPeriod g.periodCode

/-- The link is lost or restored: the signal controller derives its faces again (R40, R183). -/
def Part.setLost (p : Part) (b : Bool) : Part :=
  ({ p with link := { p.link with lost := b } }).refreshFaces

/-- A lost link is restored: noted, and the three blocks told (R183). -/
def Part.restoreLink (p : Part) : Part :=
  if p.link.lost then ((p.setLost false).note Conditions.noteLinkRestored).settle else p

/-- What a valid frame on port A does before its request is judged (R182). -/
def Part.feedWatchdog (p : Part) : Part :=
  let p1 := p.restoreLink
  { p1 with link := { p1.link with armed := true, watchdog := p1.period } }

/-- The entry move waits in AWAITING in WORKING, so a lost link withdraws the lockage (R106). -/
def Part.withdrawAwaiting (p : Part) : Part :=
  match p.entryAwaiting with
  | some _ => p.withdraw
  | none => p

/-- WATCHDOG_EXPIRY of a running timer (R183). -/
def execWatchdogExpiry (s : State) : Host.Outcome State Fault Refusal :=
  let p := s.part
  if p.link.watchdog.isNone then .next s
  else
    let p1 := { p with link := { p.link with watchdog := none } }
    let p2 := (p1.note Conditions.noteLinkLost).setLost true
    .next { s with part := p2.withdrawAwaiting.settle }

/-! ### Routing (R177) -/

/-- The kinds allowed on ports B and C (R177). -/
def kindAllowed (q : Port) (k : RequestKind) : Bool :=
  match q with
  | .a => true
  | _ => decide (k = .taken) || decide (k = .peek)

/-- A frame that no block takes is noted and refused BAD_MESSAGE (R177). -/
def Part.badMessage (p : Part) (q : Port) (tag : Tag) : Part :=
  (p.note Conditions.noteBadMessage).refuse q tag .badMessage

/-- A request handed to the block that owns it (R177). What is no request is not handed on. -/
def Part.request (p : Part) : Instr → Part
  | .loadFlight tag v => p.takeLoadFlight tag v
  | .loadReach tag r v => p.takeLoadReach tag r v
  | .loadWorks tag v => p.takeLoadWorks tag v
  | .loadTariff tag v => p.takeLoadTariff tag v
  | .loadTurns tag v => p.takeLoadTurns tag v
  | .loadOutlets tag v => p.takeLoadOutlets tag v
  | .loadResponses tag v => p.takeLoadResponses tag v
  | .setClock tag day second => p.takeSetClock tag day second
  | .start tag => p.takeStart tag
  | .register tag v => p.takeRegister tag v
  | .cancel tag ticket => p.takeCancel tag ticket
  | .entryClear tag n => p.takeEntryClear tag n
  | .entryRefuse tag n => p.takeEntryRefuse tag n
  | .exitClear tag n => p.takeExitClear tag n
  | .exitRefuse tag n => p.takeExitRefuse tag n
  | .moveDone tag n i => p.takeMoveDone tag n i
  | .trim tag k a => p.takeTrim tag k a
  | .halt tag => p.takeHalt tag
  | .resume tag => p.takeResume tag
  | .abandon tag => p.takeAbandon tag
  | .forceTally tag => p.takeForceTally tag
  | .captureDatum tag r level => p.takeCaptureDatum tag r level
  | .lampClear tag => p.takeLampClear tag
  | .restartKeep tag => p.takeRestart tag .keep
  | .restartClear tag => p.takeRestart tag .clear
  | .conditionRead tag => p.showConditions tag
  | .queryFlight tag => p.takeQueryFlight tag
  | .queryQueues tag => p.takeQueryQueues tag
  | .queryLockage tag => p.takeQueryLockage tag
  | .queryOutlets tag => p.takeQueryOutlets tag
  | .queryLink tag => p.takeQueryLink tag
  | .taken q tag n => p.takeTaken q tag n
  | .peek q tag => p.takePeek q tag
  | _ => p

/-- A known request of the right length reaches its block; a RESTART of no kind is refused BAD_VALUE (R172). -/
def Part.route (p : Part) (q : Port) (tag : Tag) (k : RequestKind) (body : List Byte) : Part :=
  match requestOf q tag k body with
  | some i => p.request i
  | none => p.refuse q tag .badValue

/-- The byte is the code of a message that the part itself sends (R177). -/
def sentCode (kind : Byte) : Bool :=
  [MessageKind.accepted, .refused, .condition, .event, .deliver].any fun k => decide (kind = Config.kindCode k)

/-- The request kind of a frame; the codes of what the part sends are unknown, as R177's table says. -/
def requestKind (kind : Byte) (body : List Byte) : Option RequestKind :=
  if sentCode kind then none else Config.kindOf kind body

/-- A valid frame judged by its kind and its length (R177). -/
def Part.judge (p : Part) (q : Port) (kind : Byte) (tag : Tag) (body : List Byte) : Part :=
  match requestKind kind body with
  | some k =>
    if kindAllowed q k && decide (body.length = bodyLength k) then p.route q tag k body
    else p.badMessage q tag
  | none => p.badMessage q tag

/-- What was sent before a reply in its own event follows it (R178, R184): of the messages beyond the first `n`, the
`held` ones give way to the one behind them, the reply. -/
def replyFirst (n held : Nat) (ms : List Msg) : List Msg :=
  let new := ms.drop n
  ms.take n ++ (new.drop held).take 1 ++ new.take held ++ new.drop (held + 1)

/-- The messages of part q on port A with those that part p has sent since `before` put behind the reply that
followed them (R178, R184; log entry 22). -/
def Part.holdBack (q p before : Part) : Part :=
  let n := before.sent.a.length
  { q with sent := q.sent.set .a (replyFirst n (p.sent.a.length - n) q.sent.a) }

/-- The frame is a RESTART that the part takes (R172). -/
def takesRestart (kind : Byte) (tag : Tag) (body : List Byte) : Bool :=
  match requestKind kind body with
  | some .restart =>
    decide (body.length = bodyLength .restart) && (requestOf .a tag .restart body).isSome
  | _ => false

/-- Part p without the events it has sent since `before`, which a reset overtakes (R184). -/
def Part.overtaken (p before : Part) : Part :=
  { p with sent := p.sent.set .a before.sent.a }

/-- A valid frame on port A: the watchdog first, then the request, whose reply precedes the events of a link that
the frame restored; a RESTART's reset overtakes these (R177, R182, R184). -/
def Part.frameOnA (p : Part) (kind : Byte) (tag : Tag) (body : List Byte) : Part :=
  let p1 := p.feedWatchdog
  let p2 := if takesRestart kind tag body then p1.overtaken p else p1
  (p2.judge .a kind tag body).holdBack p2 p

/-- A valid frame, one event (R177). -/
def Part.validFrame (p : Part) (q : Port) (bytes : List Byte) : Part :=
  match bytes with
  | kind :: tag :: body => if q = .a then p.frameOnA kind tag body else p.judge q kind tag body
  | _ => p

/-! ### Receivers (R176) -/

/-- The receiver of a port replaced. -/
def Part.setReceiver (p : Part) (q : Port) (r : Receiver) : Part :=
  { p with link := { p.link with receivers := p.link.receivers.set q r } }

/-- A frame with a failed check is discarded and counted (R176). -/
def Part.countCheck (p : Part) (q : Port) : Part :=
  { p with link := { p.link with
      checkErrors := p.link.checkErrors.set q (min 65535 (p.link.checkErrors.get q + 1)) } }

/-- A complete frame is checked, and taken if its check matches (R176, R177). -/
def Part.completeFrame (p : Part) (q : Port) (len : Nat) (bytes : List Byte) : Part :=
  let p1 := p.setReceiver q .hunting
  if frameOk len bytes then p1.validFrame q (bytes.take len) else p1.countCheck q

/-- A frame discarded with BAD_MESSAGE noted (R176). -/
def Part.dropFrame (p : Part) (q : Port) : Part :=
  (p.setReceiver q .hunting).note Conditions.noteBadMessage

/-- A byte in HUNTING: 0xA5 begins a frame, any other is ignored (R176). -/
def Part.hunt (p : Part) (q : Port) (b : Byte) : Part :=
  if b = 0xA5#8 then p.setReceiver q (.inFrame none [] 0) else p

/-- The length byte: 2..240 is taken, any other discards the frame (R176). -/
def Part.takeLen (p : Part) (q : Port) (b : Byte) : Part :=
  if 2 ≤ b.toNat ∧ b.toNat ≤ 240 then p.setReceiver q (.inFrame (some b.toNat) [] 0) else p.dropFrame q

/-- A byte of a frame whose LEN is known; LEN + 2 of them complete it (R176). -/
def Part.frameByte (p : Part) (q : Port) (len : Nat) (bytes : List Byte) (b : Byte) : Part :=
  if (bytes ++ [b]).length = len + 2 then p.completeFrame q len (bytes ++ [b])
  else p.setReceiver q (.inFrame (some len) (bytes ++ [b]) 0)

/-- A byte as the port's receiver takes it; one that ends a gap over 50 ms is taken in HUNTING (R176). -/
def Part.receive (p : Part) (q : Port) (b : Byte) : Part :=
  match p.link.receivers.get q with
  | .hunting => p.hunt q b
  | .inFrame len bytes gap =>
    if Config.gapLimit < gap then (p.dropFrame q).hunt q b
    else
      match len with
      | none => p.takeLen q b
      | some n => p.frameByte q n bytes b

/-- BYTE_RECEIVED (R176, R177). -/
def execByteReceived (q : Port) (b : Byte) (s : State) : Host.Outcome State Fault Refusal :=
  .next { s with part := s.part.receive q b }

/-- GAP_TIMEOUT: a gap over 50 ms inside a frame (R176). In HUNTING there is no frame to discard. -/
def execGapTimeout (q : Port) (s : State) : Host.Outcome State Fault Refusal :=
  match s.part.link.receivers.get q with
  | .hunting => .next s
  | .inFrame _ _ _ => .next { s with part := s.part.dropFrame q }

end Sys2Proof.Machine
end

