-- ==== Sys2Proof/Machine/Dispatch.lean ====
section
/-! DEFINITION. One arm per command of the table, each one direct call of its meaning. -/

namespace Sys2Proof.Machine

def exec (i : Instr) (s : State) : Host.Outcome State Fault Refusal :=
  match i with
  | .sampleArrival r raw => Sys2Proof.Machine.execSampleArrival r raw s
  | .sampleTimerExpiry r => Sys2Proof.Machine.execSampleTimerExpiry r s
  | .limitInputChange g l asserted => Sys2Proof.Machine.execLimitInputChange g l asserted s
  | .travelTimerExpiry g => Sys2Proof.Machine.execTravelTimerExpiry g s
  | .positionFeedbackChange k position => Sys2Proof.Machine.execPositionFeedbackChange k position s
  | .stepTimerExpiry k => Sys2Proof.Machine.execStepTimerExpiry k s
  | .rampIntervalExpiry k => Sys2Proof.Machine.execRampIntervalExpiry k s
  | .dueUpStepIssue k => Sys2Proof.Machine.execDueUpStepIssue k s
  | .gateTravelResume g => Sys2Proof.Machine.execGateTravelResume g s
  | .transferTimerExpiry k => Sys2Proof.Machine.execTransferTimerExpiry k s
  | .lampRefresh current => Sys2Proof.Machine.execLampRefresh current s
  | .eStopAsserted => Sys2Proof.Machine.execEStopAsserted s
  | .eStopNegated => Sys2Proof.Machine.execEStopNegated s
  | .navInhibitChange asserted => Sys2Proof.Machine.execNavInhibitChange asserted s
  | .moveTimerExpiry => Sys2Proof.Machine.execMoveTimerExpiry s
  | .windowTimerExpiry => Sys2Proof.Machine.execWindowTimerExpiry s
  | .watchdogExpiry => Sys2Proof.Machine.execWatchdogExpiry s
  | .clockAdvance => Sys2Proof.Machine.execClockAdvance s
  | .byteReceived q b => Sys2Proof.Machine.execByteReceived q b s
  | .gapTimeout q => Sys2Proof.Machine.execGapTimeout q s
  | .powerOn inputs => Sys2Proof.Machine.execPowerOn inputs s
  | .loadFlight tag v => Sys2Proof.Machine.execLoadFlight tag v s
  | .loadReach tag reach v => Sys2Proof.Machine.execLoadReach tag reach v s
  | .loadWorks tag v => Sys2Proof.Machine.execLoadWorks tag v s
  | .loadTariff tag v => Sys2Proof.Machine.execLoadTariff tag v s
  | .loadTurns tag v => Sys2Proof.Machine.execLoadTurns tag v s
  | .loadOutlets tag v => Sys2Proof.Machine.execLoadOutlets tag v s
  | .loadResponses tag v => Sys2Proof.Machine.execLoadResponses tag v s
  | .setClock tag day second => Sys2Proof.Machine.execSetClock tag day second s
  | .start tag => Sys2Proof.Machine.execStart tag s
  | .register tag v => Sys2Proof.Machine.execRegister tag v s
  | .cancel tag ticket => Sys2Proof.Machine.execCancel tag ticket s
  | .entryClear tag lockage => Sys2Proof.Machine.execEntryClear tag lockage s
  | .entryRefuse tag lockage => Sys2Proof.Machine.execEntryRefuse tag lockage s
  | .exitClear tag lockage => Sys2Proof.Machine.execExitClear tag lockage s
  | .exitRefuse tag lockage => Sys2Proof.Machine.execExitRefuse tag lockage s
  | .moveDone tag lockage index => Sys2Proof.Machine.execMoveDone tag lockage index s
  | .trim tag sluice adjustment => Sys2Proof.Machine.execTrim tag sluice adjustment s
  | .halt tag => Sys2Proof.Machine.execHalt tag s
  | .resume tag => Sys2Proof.Machine.execResume tag s
  | .abandon tag => Sys2Proof.Machine.execAbandon tag s
  | .forceTally tag => Sys2Proof.Machine.execForceTally tag s
  | .captureDatum tag reach level => Sys2Proof.Machine.execCaptureDatum tag reach level s
  | .lampClear tag => Sys2Proof.Machine.execLampClear tag s
  | .restartKeep tag => Sys2Proof.Machine.execRestartKeep tag s
  | .restartClear tag => Sys2Proof.Machine.execRestartClear tag s
  | .conditionRead tag => Sys2Proof.Machine.execConditionRead tag s
  | .queryFlight tag => Sys2Proof.Machine.execQueryFlight tag s
  | .queryQueues tag => Sys2Proof.Machine.execQueryQueues tag s
  | .queryLockage tag => Sys2Proof.Machine.execQueryLockage tag s
  | .queryOutlets tag => Sys2Proof.Machine.execQueryOutlets tag s
  | .queryLink tag => Sys2Proof.Machine.execQueryLink tag s
  | .taken q tag sequence => Sys2Proof.Machine.execTaken q tag sequence s
  | .peek q tag => Sys2Proof.Machine.execPeek q tag s
  | .turnEvaluate => Sys2Proof.Machine.execTurnEvaluate s
  | .tallyAppend => Sys2Proof.Machine.execTallyAppend s
  | .surveyEnd => Sys2Proof.Machine.execSurveyEnd s
  | .openStepEvaluate => Sys2Proof.Machine.execOpenStepEvaluate s

end Sys2Proof.Machine
end

