-- ==== Sys2Proof/Machine/Wire.lean ====
section
/-! DEFINITION. The bytes of the messages the part sends (R185, R186): frames, parts, and the LOCKAGE and TALLY
bodies. What the spec describes by named fields alone stays free (log entry 4). -/

namespace Sys2Proof

/-- The data bytes of an ACCEPTED reply with its mark; the spec gives the named fields alone (log entry 4). -/
opaque Config.replyBytes : Option Bool → Machine.ReplyData → List Byte

/-- The body of a REFUSED reply with its mark (log entry 4). -/
opaque Config.reasonBytes : Option Bool → Machine.Reason → List Byte

/-- The body of a CONDITION reply (log entry 4). -/
opaque Config.conditionBytes : Machine.Conditions → List Byte

/-- The body of an EVENT (log entry 4). -/
opaque Config.eventBytes : Machine.Event → List Byte

/-- What stands before the head record's bytes in a PEEK reply: the mark and the queue count (log entry 4). -/
opaque Config.peekBytes : Option Bool → Nat → List Byte

end Sys2Proof

namespace Sys2Proof.Machine

/-- A number as n bytes, high byte first (R185). -/
def bytesOf : Nat → Nat → List Byte
  | 0, _ => []
  | n + 1, v => BitVec.ofNat 8 (v / 256 ^ n) :: bytesOf n v

/-- The two check bytes of a frame, high byte first (R185). -/
def checkBytes (core : List Byte) : List Byte :=
  bytesOf 2 (crc16 core).toNat

/-- A frame: start, LEN, KIND, TAG, BODY, CHECK (R185). -/
def frame (k : MessageKind) (tag : Tag) (body : List Byte) : List Byte :=
  let core := BitVec.ofNat 8 (body.length + 2) :: Config.kindCode k :: tag :: body
  0xA5#8 :: core ++ checkBytes core

/-- A hull mark in 8 bytes, filled up with bytes of 0 (R185). -/
def hullBytes (h : List Byte) : List Byte :=
  (h ++ List.replicate 8 0).take 8

/-- Flags summed: the i-th counts 2 to the i (R186). -/
def flagByte (flags : List Bool) : List Byte :=
  bytesOf 1 (flags.foldr (fun b n => 2 * n + if b then 1 else 0) 0)

/-- The outcome's code (R185). -/
def LockageOutcome.code : LockageOutcome → Nat
  | .completed => 0
  | .completedLate => 1
  | .returned => 2
  | .withdrawn => 3
  | .abandoned => 4

/-- A time in 2 + 4 bytes: day, second of day (R186). -/
def clockBytes (c : Clock) : List Byte :=
  bytesOf 2 c.day ++ bytesOf 4 c.second

/-- A vessel line, 31 bytes (R186). -/
def lineBytes (x : Line) : List Byte :=
  bytesOf 2 x.ticket ++ hullBytes x.hull ++ bytesOf 1 x.cls.index ++ bytesOf 2 x.length
    ++ bytesOf 1 x.accountKind.code ++ bytesOf 4 (x.accountNumber.getD 0) ++ bytesOf 4 x.tariffFee
    ++ bytesOf 4 x.waterShare ++ bytesOf 4 x.lineFee
    ++ flagByte [x.roundedUp, x.capped, x.exempt, x.creditFloored]

/-- The 39 bytes of a LOCKAGE body before its lines (R186). -/
def lockageHead (sequence : Nat) (r : LockageRecord) : List Byte :=
  bytesOf 1 1 ++ bytesOf 2 sequence ++ bytesOf 2 r.number ++ bytesOf 1 r.direction.code ++ bytesOf 1 r.cls.code
    ++ bytesOf 1 r.outcome.code ++ clockBytes r.turnTime ++ clockBytes r.endTime ++ bytesOf 1 r.headDraws
    ++ bytesOf 4 r.waterDue ++ bytesOf 4 r.waterCharged ++ bytesOf 4 r.waterWaived
    ++ flagByte [r.tideWait, r.late] ++ bytesOf 4 r.total ++ bytesOf 1 r.lines.length

/-- A LOCKAGE body (R186). -/
def lockageBytes (sequence : Nat) (r : LockageRecord) : List Byte :=
  lockageHead sequence r ++ r.lines.flatMap lineBytes

/-- The nine two-byte counts of a TALLY body (R186). -/
def countBytes (c : Counters) : List Byte :=
  bytesOf 2 c.lockageRecords ++ bytesOf 2 c.vessels ++ bytesOf 2 c.completed ++ bytesOf 2 c.completedLate
    ++ bytesOf 2 c.returned ++ bytesOf 2 c.withdrawn ++ bytesOf 2 c.abandoned ++ bytesOf 2 c.lostToReset
    ++ bytesOf 2 c.headDraws

/-- A TALLY body, 28 bytes (R186). -/
def tallyBytes (sequence : Nat) (r : TallyRecord) : List Byte :=
  bytesOf 1 2 ++ bytesOf 2 sequence ++ bytesOf 2 r.number ++ flagByte [r.forced, r.periodic, r.saturated]
    ++ countBytes r.counts ++ bytesOf 4 r.counts.tollSum

/-- The body of a DELIVER message (R149, R186). -/
def recordBytes (r : Record) : List Byte :=
  match r.body with
  | .lockage x => lockageBytes r.sequence x
  | .tally x => tallyBytes r.sequence x

/-- The data bytes of an ACCEPTED reply; PEEK carries the record's own bytes after its count (R151, R186). -/
def dataBytes (mark : Option Bool) (d : ReplyData) : List Byte :=
  match d with
  | .peek n (some r) => Config.peekBytes mark n ++ recordBytes r
  | d => Config.replyBytes mark d

/-- How many parts a reply's data makes, at most 236 bytes each and never none (R185). -/
def partCount (bs : List Byte) : Nat :=
  max 1 ((bs.length + 235) / 236)

/-- The frames of an ACCEPTED reply: each body begins with the part's number and the number of parts (R185). -/
def replyFrames (tag : Tag) (bs : List Byte) : List (List Byte) :=
  let n := partCount bs
  (List.range n).map fun i =>
    frame .accepted tag (bytesOf 1 (i + 1) ++ bytesOf 1 n ++ (bs.drop (236 * i)).take 236)

/-- The frames of a message as its port transmits them; what the part sends of its own accord carries TAG 0 (R178,
R185). -/
def Msg.frames : Msg → List (List Byte)
  | .accepted tag mark d => replyFrames tag (dataBytes mark d)
  | .refused tag mark r => [frame .refused tag (Config.reasonBytes mark r)]
  | .condition tag c => [frame .condition tag (Config.conditionBytes c)]
  | .event e => [frame .event 0 (Config.eventBytes e)]
  | .deliver r => [frame .deliver 0 (recordBytes r)]

/-- The bytes a port has transmitted (R178). -/
def Part.transmitted (p : Part) (q : Port) : List Byte :=
  ((p.sent.get q).flatMap Msg.frames).flatten

end Sys2Proof.Machine
end

