-- ==== Sys2Proof/Safety.lean ====
section
/-! DEFINITION. What counts as a safe flight and a sound part, in the terms the statements use: each predicate says
of one part, or of one step, what a rule promises of every moment. -/

namespace Sys2Proof

/-! ### What a command may write -/

/-- The commands that may change a settings group (R165, R20, R162); a byte may complete such a request. -/
def Instr.storesSettings : Instr → Bool
  | .loadFlight _ _ => true
  | .loadReach _ _ _ => true
  | .loadWorks _ _ => true
  | .loadTariff _ _ => true
  | .loadTurns _ _ => true
  | .loadOutlets _ _ => true
  | .loadResponses _ _ => true
  | .captureDatum _ _ _ => true
  | .restartClear _ => true
  | .powerOn _ => true
  | .byteReceived _ _ => true
  | _ => false

/-- The commands that may change the clock (R167, R168). -/
def Instr.setsClock : Instr → Bool
  | .setClock _ _ _ => true
  | .clockAdvance => true
  | .powerOn _ => true
  | .byteReceived _ _ => true
  | _ => false

/-- The commands that may spend a ticket (R48). -/
def Instr.spendsTicket : Instr → Bool
  | .register _ _ => true
  | .powerOn _ => true
  | .byteReceived _ _ => true
  | _ => false

/-- The commands that may change the outlets' configuration (R146). -/
def Instr.configuresOutlets : Instr → Bool
  | .loadOutlets _ _ => true
  | .powerOn _ => true
  | .byteReceived _ _ => true
  | _ => false

/-- The commands that may change what the link interface holds beside the condition record (R175). -/
def Instr.actsOnLink : Instr → Bool
  | .byteReceived _ _ => true
  | .gapTimeout _ => true
  | .watchdogExpiry => true
  | .loadResponses _ _ => true
  | .restartKeep _ => true
  | .restartClear _ => true
  | .powerOn _ => true
  | _ => false

/-- The commands that may change the reading of reach r (R2 to R7); a REACH load restarts the reach it names (R18). -/
def Instr.readsReach (r : Reach) : Instr → Bool
  | .sampleArrival q _ => decide (q = r)
  | .sampleTimerExpiry q => decide (q = r)
  | .loadReach _ i _ => decide (i = r.index)
  | .restartKeep _ => true
  | .restartClear _ => true
  | .powerOn _ => true
  | .byteReceived _ _ => true
  | _ => false

/-- The commands that may change what the lamps' current sense has shown (R42, R44). -/
def Instr.sensesLamps : Instr → Bool
  | .lampRefresh _ => true
  | .lampClear _ => true
  | .restartKeep _ => true
  | .restartClear _ => true
  | .powerOn _ => true
  | .byteReceived _ _ => true
  | _ => false

/-- The commands that may take a record off an outlet's queue (R150). -/
def Instr.takesRecord : Instr → Bool
  | .taken _ _ _ => true
  | .powerOn _ => true
  | .byteReceived _ _ => true
  | _ => false

/-- The command is the request of a kind, with the tag and the port of its frame (R177, R178). -/
def Instr.RequestedBy (x : Port) (tag : Tag) (c : Instr) : RequestKind → Prop
  | .loadFlight => ∃ v, c = .loadFlight tag v
  | .loadReach => ∃ r v, c = .loadReach tag r v
  | .loadWorks => ∃ v, c = .loadWorks tag v
  | .loadTariff => ∃ v, c = .loadTariff tag v
  | .loadTurns => ∃ v, c = .loadTurns tag v
  | .loadOutlets => ∃ v, c = .loadOutlets tag v
  | .loadResponses => ∃ v, c = .loadResponses tag v
  | .setClock => ∃ day second, c = .setClock tag day second
  | .start => c = .start tag
  | .register => ∃ v, c = .register tag v
  | .cancel => ∃ ticket, c = .cancel tag ticket
  | .entryClear => ∃ n, c = .entryClear tag n
  | .entryRefuse => ∃ n, c = .entryRefuse tag n
  | .exitClear => ∃ n, c = .exitClear tag n
  | .exitRefuse => ∃ n, c = .exitRefuse tag n
  | .moveDone => ∃ n i, c = .moveDone tag n i
  | .trim => ∃ k a, c = .trim tag k a
  | .halt => c = .halt tag
  | .resume => c = .resume tag
  | .abandon => c = .abandon tag
  | .forceTally => c = .forceTally tag
  | .captureDatum => ∃ r level, c = .captureDatum tag r level
  | .lampClear => c = .lampClear tag
  | .restart => c = .restartKeep tag ∨ c = .restartClear tag
  | .conditionRead => c = .conditionRead tag
  | .queryFlight => c = .queryFlight tag
  | .queryQueues => c = .queryQueues tag
  | .queryLockage => c = .queryLockage tag
  | .queryOutlets => c = .queryOutlets tag
  | .queryLink => c = .queryLink tag
  | .taken => ∃ n, c = .taken x tag n
  | .peek => c = .peek x tag

end Sys2Proof

namespace Sys2Proof.Machine

/-- The drive a gate's state calls for (R23). -/
def GateState.drive : GateState → Drive
  | .opening => .openDrive
  | .closing => .closeDrive
  | _ => .off

/-- Every gate's drive is the one its state calls for (R23). -/
def Part.DrivesMatch (p : Part) : Prop :=
  ∀ g, (p.gates.get g).drive = (p.gates.get g).state.drive

/-- A face shows PROCEED only while its gate is OPEN and the current step is a move through that gate in the
direction the face serves (R40). -/
def Part.ProceedGuarded (p : Part) : Prop :=
  ∀ f, (faceOf p.faces f).shown = .proceed →
    (p.gates.get f.gate).state = .open_ ∧ ∃ ph, p.curStep = some ⟨.move f.gate f.direction, ph⟩

/-- The halt record is present exactly while the mode is HALTED (R113). -/
def Part.HaltMatches (p : Part) : Prop :=
  p.faults.halt.isSome = true ↔ p.mode = .halted

/-- No hull mark appears more than once among the two queues and the current convoy (R48). -/
def Part.HullsDistinct (p : Part) : Prop :=
  (p.registered.map (·.hull)).Nodup

/-- All priority records of a queue come before its others (R47). -/
def priorityFirst (q : List Vessel) : Prop :=
  ∀ v ∈ q.dropWhile (·.priority), v.priority = false

/-- Both queues hold their priority records first (R47). -/
def Part.QueuesOrdered (p : Part) : Prop :=
  priorityFirst p.upQueue ∧ priorityFirst p.downQueue

/-- A number the part assigns next lies in 1..65,535 (spec/00_scope.md, "Counters and numbers"). -/
def assignable (n : Nat) : Prop :=
  1 ≤ n ∧ n ≤ 65535

/-- The four counters the part assigns from lie in their range (R48, R61, R147, R156). -/
def Part.NumbersInRange (p : Part) : Prop :=
  assignable p.nextTicket ∧ assignable p.turn.nextLockage ∧ assignable p.outlets.nextSequence
    ∧ assignable p.outlets.nextTally

/-- Every sluice's position and trim lie in their ranges (R29). -/
def Part.SluicesInRange (p : Part) : Prop :=
  ∀ k, (p.sluices.get k).position ≤ 15 ∧ -15 ≤ (p.sluices.get k).trim ∧ (p.sluices.get k).trim ≤ 15

/-- A gate's OPEN drive, where a step turned it on, has a LEVEL compare and a closed far side (R22, R24, R28). -/
def OpensSafely (p q : Part) : Prop :=
  ∀ g, (q.gates.get g).drive = .openDrive → (p.gates.get g).drive ≠ .openDrive →
    q.compare g = .level ∧ q.interlock g = true

/-- A gate's OPEN drive, where a step turned it on, has a closed far side (R22). -/
def OpensClosed (p q : Part) : Prop :=
  ∀ g, (q.gates.get g).drive = .openDrive → (p.gates.get g).drive ≠ .openDrive → q.interlock g = true

/-- An up-step of a sluice that a step issued has a closed far side (R22, R30). -/
def StepsUpSafely (p q : Part) : Prop :=
  ∀ k n, (q.sluices.get k).step = some (.up, n) → (p.sluices.get k).step ≠ some (.up, n) →
    q.interlock k = true

/-- What each port had sent still stands first: messages are only added (R178). -/
def SentGrows (p q : Part) : Prop :=
  ∀ x, p.sent.get x <+: q.sent.get x

/-- Every outlet's queue only grew at its tail (R148). -/
def RecordsGrow (p q : Part) : Prop :=
  ∀ x, (p.outlets.outlets.get x).queue <+: (q.outlets.outlets.get x).queue

/-- A mode in which an arrival neither ends a survey nor latches a turn (R63, R171). -/
def quietMode (m : Mode) : Prop :=
  m ≠ .survey ∧ m ≠ .rest

/-- No lockage or survey runs, and an arrival neither ends a survey nor latches a turn (R63, R111, R171). -/
def Part.StandsBy (p : Part) : Prop :=
  p.mode = .startup ∨ p.mode = .halted ∨ (p.mode = .rest ∧ p.navInhibit = true)

/-- A field of a load lies outside its range: (least, greatest, as sent). -/
def outOfRange (x : Int × Int × Int) : Bool :=
  decide (x.2.2 < x.1) || decide (x.2.1 < x.2.2)

/-- The data of a load's reply, from its fields in index order: how many were clamped and the first (R163). -/
def rangeReply (fields : List (Int × Int × Int)) : ReplyData :=
  .load (fields.filter outOfRange).length (fields.findIdx? outOfRange)

/-- The data of a load's reply from whether each field, in index order, was clamped (R163). -/
def flagReply (clamped : List Bool) : ReplyData :=
  .load (clamped.count true) (clamped.findIdx? id)

/-- A field as its range stores it (R163). -/
def nearest (lo hi v : Int) : Int :=
  max lo (min hi v)

/-- n is the quotient x / y rounded half away from zero (spec/00_scope.md, "Rounding"). -/
def RoundsAway (x y n : Int) : Prop :=
  2 * (y * n - x).natAbs ≤ y.natAbs ∧ (2 * (y * n - x).natAbs = y.natAbs → x.natAbs < (y * n).natAbs)

/-- What a recomputation without an evaluation leaves of the turn selector: readiness is no, and the lockage number,
the plan wait and the last-direction bit stand (R63, R64). -/
def TurnIdle (a b : TurnSelector) : Prop :=
  b.readiness = false ∧ b.nextLockage = a.nextLockage ∧ b.planWait = a.planWait
    ∧ b.pattern.lastUp = a.pattern.lastUp

/-- The call of a direction with its priority bit (R53). -/
def Calls.of (c : Calls) : Direction → Bool × Bool
  | .up => (c.up, c.upPriority)
  | .down => (c.down, c.downPriority)

/-- Each direction's call is present exactly when its head vessel alone is passable and no longer than the usable
length, and its priority bit when that vessel carries priority (R53). -/
def Part.CallsDerived (p : Part) : Prop :=
  ∀ d, ((p.calls.of d).1 = true ↔ ∃ v, (p.queueOf d).head? = some v ∧ p.passable [v] = true
        ∧ v.length ≤ p.usableLength)
    ∧ ((p.calls.of d).2 = true ↔ (p.calls.of d).1 = true ∧ ∃ v, (p.queueOf d).head? = some v ∧ v.priority = true)

/-- A change of a gate or a sluice leaves each chamber's isolation level as R16 says: none, with no drift reported,
where the chamber is not isolated; where it is, the level it had, or, if it had none and is VALID, its level now. -/
def IsolationFollows (p q : Part) : Prop :=
  ∀ c : Chamber,
    (q.isolated c = false → (q.reaches.get c.reach).isolationLevel = none
        ∧ (q.reaches.get c.reach).driftReported = false)
      ∧ (q.isolated c = true →
          (q.reaches.get c.reach).driftReported = (p.reaches.get c.reach).driftReported
            ∧ (q.reaches.get c.reach).isolationLevel =
                (if (p.reaches.get c.reach).isolationLevel = none ∧ (p.reaches.get c.reach).cls = .valid then
                  q.level c.reach else (p.reaches.get c.reach).isolationLevel))

/-- Every enabled outlet has a free slot (R152). -/
def OutletUnit.Room (u : OutletUnit) : Prop :=
  ∀ x, (u.outlets.get x).enabled = true → (u.outlets.get x).queue.length < (u.outlets.get x).depth

/-- A pending tally has been appended: the record of every counter, under the next sequence and tally number, stands
at the tail of every enabled outlet; the counters start again, and the tally is outstanding (R156). -/
def TallyAppended (u v : OutletUnit) (forced periodic : Bool) : Prop :=
  v = { u with
      outlets := v.outlets, counters := ⟨0, 0, 0, 0, 0, 0, 0, 0, 0, 0⟩, saturated := false
      nextSequence := nextNumber u.nextSequence, nextTally := nextNumber u.nextTally
      tally := .outstanding u.nextSequence }
    ∧ ∀ x, v.outlets.get x = if (u.outlets.get x).enabled then
        { u.outlets.get x with
          state := .offered
          queue := (u.outlets.get x).queue ++ [⟨u.nextSequence, .tally
            { number := u.nextTally, forced := forced, periodic := periodic, saturated := u.saturated
              counts := u.counters }⟩] }
      else u.outlets.get x

/-- The lockage's number, convoy, plan, place, stage, clearances and whether its exit has been commanded stand (R111,
R119). -/
def LockageKept (a b : Option Lockage) : Prop :=
  b.map (fun l => (l.number, l.convoy, l.plan, l.current, l.stage, l.entry, l.exit, l.commitment,
      l.exitCommanded))
    = a.map fun l => (l.number, l.convoy, l.plan, l.current, l.stage, l.entry, l.exit, l.commitment,
      l.exitCommanded)

/-- The flight has halted from part p for a fault of a kind and subject: the halt record, the mode, the timers of the
lockage, the FAULT and MODE events after what had been sent, and the fault noted as the latest with its halting mark
set (R117, R119). -/
def HaltedFrom (p q : Part) (k : FaultKind) (x : Subject) : Prop :=
  q.mode = .halted
    ∧ q.faults.halt = some { kind := k, subject := x, mode := p.mode, lockage := p.lockageNumber
                             index := p.stepIndex, time := p.clock }
    ∧ q.sent.a = p.sent.a ++ [.event (.fault k x .halt p.mode p.lockageNumber p.stepIndex p.clock),
        .event (.mode .halted (some k))]
    ∧ q.link = { p.link with conditions := { p.link.conditions with
        fault := some { kind := k, lockage := p.lockageNumber, index := p.stepIndex, halting := true } } }
    ∧ LockageKept p.lockage q.lockage
    ∧ (∀ l, q.lockage = some l → l.moveTimer = none ∧ l.windowTimer = none)
    ∧ (∀ f, (faceOf q.faces f).requested = .stop)
    ∧ (∀ f, (faceOf q.faces f).shown = if f.isApproach then .outOfService else .stop)
    ∧ (∀ g, (q.gates.get g).drive ≠ .openDrive)
    ∧ (∀ g, (q.gates.get g).state ≠ .opening ∧ (q.gates.get g).state ≠ .closing)
    ∧ (∀ k, q.ramping k = false)

end Sys2Proof.Machine
end

