-- ==== Sys2Proof/Certificates/Slice0/Obligations.lean ====
section
/-! DEFINITION. The statements for the provers, in the order of OBLIGATIONS.json. Each is about the model as it
stands, for every state and operand that meets its hypotheses; each docstring names the rules it formalises. -/

open Sys2Proof Sys2Proof.Machine

/-! ### The block -/

/-- A step takes the command at the front of the queue and runs it with the queue's rest; and every command answers
a next state, with the rest of the queue as it was (spec/00_scope.md: the part refuses requests, it does not
stop). -/
def Obligations.StepRunsFrontCommand : Prop :=
  (∀ (c : Instr) (s : State) (rest : List Instr), s.pending = c :: rest →
      step s = exec c { s with pending := rest })
    ∧ ∀ (c : Instr) (s : State), ∃ q, exec c s = .next { s with part := q }

/-- With no command waiting a step is one millisecond: every running timer has 1 ms less left, the gap inside a
frame is 1 ms longer, counted to 51 ms, a HUNTING receiver stays HUNTING, and nothing else changes. The model's
choice (log entry 1). -/
def Obligations.IdleMillisecondRunsTimers : Prop :=
  ∀ s : State, s.pending = [] → ∃ q, step s = .next { s with part := q }
    ∧ q = { s.part with
        reaches := q.reaches, gates := q.gates, sluices := q.sluices, lampTimer := s.part.lampTimer - 1
        lockage := q.lockage, secondCount := s.part.secondCount - 1
        link := { s.part.link with receivers := q.link.receivers
                                   watchdog := s.part.link.watchdog.map (· - 1) } }
    ∧ (∀ r, q.reaches.get r =
        { s.part.reaches.get r with sampleTimer := (s.part.reaches.get r).sampleTimer - 1 })
    ∧ (∀ g, q.gates.get g =
        { s.part.gates.get g with travelTimer := (s.part.gates.get g).travelTimer.map (· - 1) })
    ∧ (∀ k, q.sluices.get k =
        { s.part.sluices.get k with
          stepTimer := (s.part.sluices.get k).stepTimer.map (· - 1)
          rampTimer := (s.part.sluices.get k).rampTimer.map (· - 1)
          transfer := (s.part.sluices.get k).transfer.map fun t => { t with timer := t.timer.map (· - 1) } })
    ∧ q.lockage = (s.part.lockage.map fun l =>
        { l with moveTimer := l.moveTimer.map (· - 1), windowTimer := l.windowTimer.map (· - 1) })
    ∧ ∀ x, q.link.receivers.get x = match s.part.link.receivers.get x with
        | .hunting => .hunting
        | .inFrame len bytes gap => .inFrame len bytes (min 51 (gap + 1))

/-- What reset leaves by the spec's own values: no command waits; STARTUP; every reach SETTLING with an empty window
(R1, R7); all groups UNSET (R162) and the clock UNSET (R167); both queues empty, ticket 1 next and no call (R47,
R48, R59); an empty call pattern and lockage number 1 next (R61); no lockage; no halt (R113); gate and sluice
records (R23, R29); ACCOUNTS alone enabled, outlets IDLE and empty, depth 1, interval 0, sequence and tally number 1
next (R145, R147, R156); counters 0 and the saturated mark clear (R153, R154); approach faces OUT_OF_SERVICE and the
others STOP, no decision awaited (R39), their lamps as R42 says; RESTARTED with cause POWER and no other condition
(R179); every receiver HUNTING and the watchdog not armed (R175). That the field shows no limit and every sluice at
0 is the model's choice (log entry 5). And the machine right after reset meets every invariant stated below. -/
def Obligations.ResetLeavesTheSpecsValues : Prop :=
  (let p := State.reset.part
   State.reset.pending = [] ∧ p.mode = .startup
     ∧ (∀ r, (p.reaches.get r).cls = .settling ∧ (p.reaches.get r).window = [] ∧ (p.reaches.get r).settleCount = 0
         ∧ (p.reaches.get r).previousRaw = none ∧ (p.reaches.get r).missed = 0 ∧ (p.reaches.get r).run = []
         ∧ (p.reaches.get r).runCount = 0 ∧ (p.reaches.get r).isolationLevel = none
         ∧ (p.reaches.get r).driftReported = false ∧ (p.reaches.get r).sampleTimer = 200)
     ∧ p.settings = { flight := none, reach := ⟨none, none, none, none, none⟩, works := none, tariff := none
                      turns := none, outlets := none, responses := none }
     ∧ p.clock = none ∧ p.upQueue = [] ∧ p.downQueue = [] ∧ p.nextTicket = 1
     ∧ p.calls = ⟨false, false, false, false⟩
     ∧ p.turn = { pattern := ⟨false, false, false, false, false⟩, readiness := false, rejectHold := none
                  planWait := false, nextLockage := 1 }
     ∧ p.lockage = none ∧ p.faults = { halt := none, reported := [] }
     ∧ (∀ g, p.gates.get g = { state := .stopped, drive := .off, travelTimer := none, openPending := false
                               commander := .nobody, atClosed := false, atOpen := false })
     ∧ (∀ k, p.sluices.get k = { position := 0, state := .closed, target := 0, step := none, stepTimer := none
                                 trim := 0, transfer := none, rampTimer := none, due := false, waiting := none })
     ∧ p.outlets = { outlets := ⟨⟨true, 1, [], .idle⟩, ⟨false, 1, [], .idle⟩, ⟨false, 1, [], .idle⟩⟩, interval := 0
                     nextSequence := 1, counters := ⟨0, 0, 0, 0, 0, 0, 0, 0, 0, 0⟩, saturated := false
                     nextTally := 1, tally := .none }
     ∧ (∀ f, faceOf p.faces f = { requested := .stop, awaited := false
                                  shown := if f.isApproach then .outOfService else .stop })
     ∧ (∀ f c, lampOf p.lamps f c = { litLast := false, armed := false, failed := false
                                      output := decide (c = .red)
                                      command := if c = .green then .dark else if f.isApproach then .flash else .lit })
     ∧ p.link.conditions = { Conditions.empty with restarted := some .power }
     ∧ (∀ x, p.link.receivers.get x = .hunting ∧ p.link.checkErrors.get x = 0)
     ∧ p.link.armed = false ∧ p.link.watchdog = none ∧ p.link.lost = false)
    ∧ (let p := State.reset.part
       p.ProceedGuarded ∧ p.HaltMatches ∧ p.HullsDistinct ∧ p.QueuesOrdered ∧ p.DrivesMatch ∧ p.NumbersInRange
         ∧ p.SluicesInRange)

/-! ### What every step keeps -/

/-- After every step a face shows PROCEED only while its gate is OPEN and the step in hand is a move through that
gate in the direction the face serves (R40). -/
def Obligations.ProceedNeedsAnOpenGate : Prop :=
  ∀ s t : State, step s = .next t → s.part.ProceedGuarded → t.part.ProceedGuarded

/-- After every step the halt record is present exactly while the mode is HALTED (R113). -/
def Obligations.HaltRecordMarksHalted : Prop :=
  ∀ s t : State, step s = .next t → s.part.HaltMatches → t.part.HaltMatches

/-- After every step no hull mark stands twice among the two queues and the current convoy (R48, R49, R56, R57), and
all priority records of a queue stand before its others (R47, R57). -/
def Obligations.QueuesStaySound : Prop :=
  (∀ s t : State, step s = .next t → s.part.HullsDistinct → t.part.HullsDistinct)
    ∧ (∀ s t : State, step s = .next t → s.part.QueuesOrdered → t.part.QueuesOrdered)

/-- After every step each gate's drive is the one its state calls for: OPEN in OPENING, CLOSE in CLOSING, OFF in
every other state (R23 to R28). -/
def Obligations.DrivesFollowGateStates : Prop :=
  ∀ s t : State, step s = .next t → s.part.DrivesMatch → t.part.DrivesMatch

/-- After every step the numbers the part assigns next lie in 1..65,535, each sluice's position in 0..15 and its
trim in −15..+15 (spec/00_scope.md, "Counters and numbers"; R29). -/
def Obligations.CountersStayInRange : Prop :=
  ∀ s t : State, step s = .next t →
    (s.part.NumbersInRange → t.part.NumbersInRange) ∧ (s.part.SluicesInRange → t.part.SluicesInRange)

/-- No step turns on a gate's OPEN drive, or issues an up-step of a sluice, while a passage that R22 names for it is
open: the through path from HEAD to TAIL never opens by the part's own hand (R22, R30). -/
def Obligations.FarSideStaysClosed : Prop :=
  ∀ s t : State, step s = .next t → OpensClosed s.part t.part ∧ StepsUpSafely s.part t.part

/-- No command turns on a gate's OPEN drive unless the compare across it is LEVEL and its interlock holds (R24,
R28). A byte is left out here, because one frame can both restore the link and change the settings a compare
reads. -/
def Obligations.GatesOpenOverLevelWater : Prop :=
  ∀ (c : Instr) (s t : State), exec c s = .next t → (∀ q b, c ≠ .byteReceived q b) → OpensSafely s.part t.part

/-! ### What a command leaves alone -/

/-- Settings change only by a load, a capture, a RESTART_CLEAR or power-on; the clock only by SET_CLOCK and its own
seconds; the next ticket only by a REGISTER; the outlets' configuration only by an OUTLETS load; and what the link
interface holds beside its condition record only by its own commands, a RESPONSES load and a reset (R48, R146, R162,
R165, R167, R175). A byte may complete a frame that carries such a request. E-STOP, NAV-INHIBIT, the straps, a
gate's limit inputs and a sluice's position are what the field last showed: each changes only by its own command or
at power-on (R22, R26, R29, R63, R121). -/
def Obligations.CommandsKeepToTheirState : Prop :=
  (∀ (c : Instr) (s t : State), exec c s = .next t →
     (c.storesSettings = false → t.part.settings = s.part.settings)
       ∧ (c.setsClock = false → t.part.clock = s.part.clock ∧ t.part.secondCount = s.part.secondCount)
       ∧ (c.spendsTicket = false → t.part.nextTicket = s.part.nextTicket)
       ∧ (c.configuresOutlets = false → t.part.outlets.interval = s.part.outlets.interval
           ∧ ∀ x, (t.part.outlets.outlets.get x).enabled = (s.part.outlets.outlets.get x).enabled
               ∧ (t.part.outlets.outlets.get x).depth = (s.part.outlets.outlets.get x).depth)
       ∧ (c.actsOnLink = false → t.part.link = { s.part.link with conditions := t.part.link.conditions }))
    ∧ (∀ (c : Instr) (s t : State), exec c s = .next t → (∀ v, c ≠ .powerOn v) →
         (c ≠ .eStopAsserted → c ≠ .eStopNegated → t.part.eStop = s.part.eStop)
           ∧ ((∀ b, c ≠ .navInhibitChange b) → t.part.navInhibit = s.part.navInhibit)
           ∧ t.part.straps = s.part.straps
           ∧ (∀ g, (∀ b, c ≠ .limitInputChange g .closedLimit b) →
               (t.part.gates.get g).atClosed = (s.part.gates.get g).atClosed)
           ∧ (∀ g, (∀ b, c ≠ .limitInputChange g .openLimit b) →
               (t.part.gates.get g).atOpen = (s.part.gates.get g).atOpen)
           ∧ ∀ k, (∀ n, c ≠ .positionFeedbackChange k n) →
               (t.part.sluices.get k).position = (s.part.sluices.get k).position)

/-- A reach's reading changes only by its own samples and timer, a REACH load that names it or a reset; what a lamp's
current sense has shown, and the refresh period, only by a refresh, LAMP_CLEAR or a reset (R2 to R7, R18, R42, R44).
A byte may complete a frame that carries such a request. -/
def Obligations.ReadingsFrame : Prop :=
  ∀ (c : Instr) (s t : State), exec c s = .next t →
    (∀ r, c.readsReach r = false →
        t.part.reaches.get r = { s.part.reaches.get r with
          isolationLevel := (t.part.reaches.get r).isolationLevel
          driftReported := (t.part.reaches.get r).driftReported })
      ∧ (c.sensesLamps = false → t.part.lampTimer = s.part.lampTimer
          ∧ ∀ f k, lampOf t.part.lamps f k = { lampOf s.part.lamps f k with
              command := (lampOf t.part.lamps f k).command, output := (lampOf t.part.lamps f k).output })

/-- What a port has sent stands: a command only adds messages behind it. And a record leaves an outlet's queue only
by TAKEN: any other command only adds records at the tail (R148, R150, R160, R178). Power-on begins both afresh.
That a port keeps what it has sent is the model's choice (log entry 9). -/
def Obligations.MessagesAndRecordsOnlyGrow : Prop :=
  ∀ (c : Instr) (s t : State), exec c s = .next t →
    ((∀ v, c ≠ .powerOn v) → SentGrows s.part t.part)
      ∧ (c.takesRecord = false → RecordsGrow s.part t.part)

/-! ### Levels (chapter 1) -/

/-- A sample that is accepted in an ordered class, is the twentieth in SETTLING, or returns from STALE without a
jump test, is classified against the raw window, stored clamped at the newest end of a window of four, and becomes
the previous raw with no period missed (R3, R6). -/
def Obligations.SampleClassifiedAndStored : Prop :=
  ∀ (r : Reach) (raw : Fin 4096) (s : State) (g : ReachGroup), s.part.settings.reach.get r = some g →
    let x := s.part.reaches.get r
    (x.cls = .stale ∨ (x.cls = .settling ∧ x.settleCount = 19)
      ∨ (x.cls.ordered = true ∧ (g.jump = 0
          ∨ ∃ v, x.previousRaw = some v ∧ (raw.val - v) + (v - raw.val) ≤ g.jump))) →
    ∃ q, exec (.sampleArrival r raw) s = .next { s with part := q }
      ∧ (q.reaches.get r).cls =
          (if raw.val < g.rmin then .limitedLow else if g.rmax < raw.val then .limitedHigh else .valid)
      ∧ (q.reaches.get r).window = x.window.drop (x.window.length - 3)
          ++ [if raw.val < g.rmin then g.rmin else if g.rmax < raw.val then g.rmax else raw.val]
      ∧ (q.reaches.get r).previousRaw = some raw.val
      ∧ (q.reaches.get r).missed = 0
      ∧ (q.reaches.get r).sampleTimer = 200

/-- Before the twentieth sample a reach stays SETTLING and has no level, whatever the sample; each sample is counted
and stored clamped; a period without a sample leaves the class and the settle count (R2). A jump above the threshold
makes an ordered reach BROKEN with a run of that sample alone, and leaves its window and previous raw (R4); in
BROKEN a sample within the threshold of the newest of the run extends it, any other restarts it, and the twentieth
in a run recovers the reach from the run's four newest raws (R5). -/
def Obligations.SettlingAndRecoveryTakeTwenty : Prop :=
  (∀ (r : Reach) (s : State), (s.part.reaches.get r).cls = .settling →
     (∀ (raw : Fin 4096) (g : ReachGroup), s.part.settings.reach.get r = some g →
         (s.part.reaches.get r).settleCount < 19 →
         ∃ q, exec (.sampleArrival r raw) s = .next { s with part := q }
           ∧ (q.reaches.get r).cls = .settling
           ∧ (q.reaches.get r).settleCount = (s.part.reaches.get r).settleCount + 1
           ∧ (q.reaches.get r).window = (s.part.reaches.get r).window.drop ((s.part.reaches.get r).window.length - 3)
               ++ [if raw.val < g.rmin then g.rmin else if g.rmax < raw.val then g.rmax else raw.val]
           ∧ (q.reaches.get r).previousRaw = some raw.val ∧ (q.reaches.get r).missed = 0 ∧ q.level r = none)
       ∧ ∃ q, exec (.sampleTimerExpiry r) s = .next { s with part := q }
           ∧ (q.reaches.get r).cls = .settling
           ∧ (q.reaches.get r).settleCount = (s.part.reaches.get r).settleCount)
    ∧ (∀ (r : Reach) (raw : Fin 4096) (s : State) (g : ReachGroup), s.part.settings.reach.get r = some g →
         let x := s.part.reaches.get r
         let clamp := fun n => if n < g.rmin then g.rmin else if g.rmax < n then g.rmax else n
         (∀ v, x.cls.ordered = true → x.previousRaw = some v → 0 < g.jump →
             g.jump < (raw.val - v) + (v - raw.val) →
             ∃ q, exec (.sampleArrival r raw) s = .next { s with part := q }
               ∧ (q.reaches.get r).cls = .broken ∧ (q.reaches.get r).run = [raw.val] ∧ (q.reaches.get r).runCount = 1
               ∧ (q.reaches.get r).window = x.window ∧ (q.reaches.get r).previousRaw = x.previousRaw
               ∧ (q.reaches.get r).missed = 0 ∧ q.level r = none)
           ∧ (∀ v, x.cls = .broken → x.run.getLast? = some v → (raw.val - v) + (v - raw.val) ≤ g.jump →
               ∃ q, exec (.sampleArrival r raw) s = .next { s with part := q } ∧ (q.reaches.get r).missed = 0
                 ∧ if x.runCount < 19 then
                     (q.reaches.get r).cls = .broken ∧ (q.reaches.get r).runCount = x.runCount + 1
                       ∧ (q.reaches.get r).run = x.run.drop (x.run.length - 3) ++ [raw.val]
                       ∧ (q.reaches.get r).window = x.window ∧ (q.reaches.get r).previousRaw = x.previousRaw
                   else
                     (q.reaches.get r).cls =
                         (if raw.val < g.rmin then .limitedLow else if g.rmax < raw.val then .limitedHigh else .valid)
                       ∧ (q.reaches.get r).runCount = 0 ∧ (q.reaches.get r).run = []
                       ∧ (q.reaches.get r).window = (x.run.drop (x.run.length - 3) ++ [raw.val]).map clamp
                       ∧ (q.reaches.get r).previousRaw = some raw.val)
           ∧ (x.cls = .broken → (∀ v, x.run.getLast? = some v → g.jump < (raw.val - v) + (v - raw.val)) →
               ∃ q, exec (.sampleArrival r raw) s = .next { s with part := q }
                 ∧ (q.reaches.get r).cls = .broken ∧ (q.reaches.get r).run = [raw.val]
                 ∧ (q.reaches.get r).runCount = 1 ∧ (q.reaches.get r).window = x.window
                 ∧ (q.reaches.get r).missed = 0))

/-- A sample period without a sample is counted up to 5 and restarts the timer; the fifth makes an ordered reach
STALE and empties the run of a BROKEN one; nothing else of the reading changes, and without a change of class
nothing else of the part does (R7). A sample at a reach whose group is UNSET changes only the timer and the missed
count (R1). A change of class that a sample or a missed period causes is noted with the reach and its new class
exactly when that class is limited, STALE or BROKEN; the other reaches' entries stand (R8). A sample at an isolated
chamber records the isolation level at the first moment the chamber is VALID (R16); once it has one, drift proven by
the class's row of R17 is reported once as LEVEL_DRIFT, which halts a working flight under HALT (R17, R116, R117,
R119); stated where no transfer ramps and no gate waits. That an UNSET group's sample acts so is the model's reading
(log entry 24). -/
def Obligations.MissedPeriodsAndClassChanges : Prop :=
  (∀ (r : Reach) (s : State),
     let x := s.part.reaches.get r
     (∃ q, exec (.sampleTimerExpiry r) s = .next { s with part := q }
       ∧ q.reaches.get r = { x with
           cls := if x.missed = 4 ∧ x.cls.ordered = true then .stale else x.cls
           missed := min 5 (x.missed + 1), sampleTimer := 200
           run := if x.missed = 4 ∧ x.cls = .broken then [] else x.run
           runCount := if x.missed = 4 ∧ x.cls = .broken then 0 else x.runCount
           isolationLevel := (q.reaches.get r).isolationLevel
           driftReported := (q.reaches.get r).driftReported }
       ∧ ((x.missed = 4 → x.cls.ordered = false) → q = { s.part with reaches := s.part.reaches.set r (q.reaches.get r) }))
     ∧ ∀ raw, s.part.settings.reach.get r = none →
         ∃ q, exec (.sampleArrival r raw) s = .next { s with part := q }
           ∧ q.reaches.get r = { x with missed := 0, sampleTimer := 200
                                        isolationLevel := (q.reaches.get r).isolationLevel
                                        driftReported := (q.reaches.get r).driftReported })
    ∧ (∀ (r : Reach) (s : State) (c : Instr), (c = .sampleTimerExpiry r ∨ ∃ raw, c = .sampleArrival r raw) →
         ∃ q, exec c s = .next { s with part := q }
           ∧ q.link.conditions.reaches =
               if (q.reaches.get r).cls = (s.part.reaches.get r).cls ∨ (q.reaches.get r).cls = .valid
                   ∨ (q.reaches.get r).cls = .settling then s.part.link.conditions.reaches
               else s.part.link.conditions.reaches.set r (some (q.reaches.get r).cls))
    ∧ (∀ (c : Chamber) (raw : Fin 4096) (s : State) (g : ReachGroup) (d : Int),
         s.part.settings.reach.get c.reach = some g → g.drift = some d → 0 ≤ d → s.part.isolated c = true →
         (∀ k, s.part.ramping k = false) → (∀ h, (s.part.gates.get h).openPending = false) →
         let x := s.part.reaches.get c.reach
         ∃ q, exec (.sampleArrival c.reach raw) s = .next { s with part := q }
           ∧ (let y := q.reaches.get c.reach
              let proven := ∃ i, x.isolationLevel = some i ∧ ∃ n, q.level c.reach = some n
                ∧ ((y.cls = .valid ∧ (d < n - i ∨ d < i - n)) ∨ (y.cls = .limitedHigh ∧ d < n - i)
                  ∨ (y.cls = .limitedLow ∧ d < i - n))
              (s.part.StandsBy →
                  y.isolationLevel = (if x.isolationLevel = none ∧ y.cls = .valid then q.level c.reach
                    else x.isolationLevel)
                    ∧ (y.driftReported = true ↔ x.driftReported = true ∨ proven)
                    ∧ (¬ (proven ∧ x.driftReported = false) → q.sent = s.part.sent)
                    ∧ (proven → x.driftReported = false →
                        q.link.conditions.fault = some { kind := .levelDrift, lockage := s.part.lockageNumber
                                                         index := s.part.stepIndex
                                                         halting := s.part.link.conditions.halting }
                          ∧ q.sent.a = s.part.sent.a ++ (if s.part.mode = .halted then [] else
                              [.event (.fault .levelDrift (.chamber c) .none s.part.mode s.part.lockageNumber
                                s.part.stepIndex s.part.clock)])))
                ∧ ((s.part.mode = .working ∨ s.part.mode = .survey) → s.part.DrivesMatch →
                    s.part.responseOf .levelDrift = .halt → proven → x.driftReported = false →
                    HaltedFrom { s.part with link := { s.part.link with conditions := { s.part.link.conditions with
                      reaches := q.link.conditions.reaches } } } q .levelDrift (.chamber c))))

/-- The level of a raw is the datum and the quotient (r − z) × s / 4,096 rounded half away from zero, and it lies
within −25,000..50,000 for settings within their ranges (R9); a reach has a level in an ordered class alone, the
mean of the levels of its four raws rounded likewise. -/
def Obligations.LevelIsRoundedAwayFromZero : Prop :=
  (∀ (g : ReachGroup) (raw : Nat), RoundsAway (((raw : Int) - g.zero) * g.span) 4096 (rawLevel g raw - g.datum)
      ∧ (raw ≤ 4095 → 0 ≤ g.zero → g.zero ≤ 4095 → 500 ≤ g.span → g.span ≤ 20000 → -5000 ≤ g.datum →
          g.datum ≤ 30000 → -81900000 ≤ ((raw : Int) - g.zero) * g.span
            ∧ ((raw : Int) - g.zero) * g.span ≤ 81900000 ∧ -25000 ≤ rawLevel g raw ∧ rawLevel g raw ≤ 50000))
    ∧ (∀ (p : Part) (r : Reach), (p.reaches.get r).cls.ordered = false → p.level r = none)
    ∧ (∀ (p : Part) (r : Reach) (g : ReachGroup) (a b c d : Nat), p.settings.reach.get r = some g →
        (p.reaches.get r).cls.ordered = true → (p.reaches.get r).window = [a, b, c, d] →
        ∃ n, p.level r = some n
          ∧ RoundsAway (rawLevel g a + rawLevel g b + rawLevel g c + rawLevel g d) 4 n)

/-- The compare across a gate: UNORDERED if either class has no level; otherwise ABOVE, BELOW and LEVEL each exactly
when its row of R11 holds, and UNORDERED where none does; with the cause of R12. A tolerance is never below 0
(R163). With every group SET a chamber is UNKNOWN exactly when a reading its state involves is not VALID, and
otherwise FULL, EMPTY or PART by its bands and compares (R13); and a convoy of greatest draught D is passable
exactly when both pounds prove the depth D + keel clearance over their sills from a VALID or LIMITED_HIGH level
(R14). The cause while FLIGHT or a REACH group is UNSET is the model's choice (log entry 12). -/
def Obligations.CompareTakesItsTable : Prop :=
  (∀ (p : Part) (g : Gate),
    let u := (p.reaches.get g.above).cls
    let w := (p.reaches.get g.below).cls
    ((u.ordered = false ∨ w.ordered = false) → ∃ c, p.compare g = .unordered c)
      ∧ (∀ c, p.compare g = .unordered c → c =
          if u = .broken ∨ w = .broken then .broken else if u = .stale ∨ w = .stale then .stale else .limited)
      ∧ ∀ (f : Flight) (lu lw : Int), p.settings.flight = some f → p.level g.above = some lu →
          p.level g.below = some lw → 0 ≤ f.tolerance.get g →
          (p.compare g = .above ↔ f.tolerance.get g < lu - lw ∧ u ≠ .limitedLow ∧ w ≠ .limitedHigh)
            ∧ (p.compare g = .below ↔ lu - lw < -(f.tolerance.get g) ∧ u ≠ .limitedHigh ∧ w ≠ .limitedLow)
            ∧ (p.compare g = .level ↔ -(f.tolerance.get g) ≤ lu - lw ∧ lu - lw ≤ f.tolerance.get g
                ∧ u.limited = false ∧ w.limited = false))
    ∧ (∀ (p : Part) (f : Flight), p.settings.flight = some f → (∀ r, p.settings.reach.get r ≠ none) →
        let valid := fun r => (p.reaches.get r).cls = .valid
        let inside := fun (r : Reach) (n t : Int) => ∃ l, p.level r = some l ∧ n - t ≤ l ∧ l ≤ n + t
        let at1 := fun r => inside r f.n1 f.tolerance.g1
        let at2 := fun r => inside r f.n2 f.tolerance.g2
        let judged := fun (c : Chamber) (known full empty : Prop) =>
          (p.chamberState c = .unknown ↔ ¬ known) ∧ (p.chamberState c = .full ↔ known ∧ full)
            ∧ (p.chamberState c = .empty ↔ known ∧ empty) ∧ (p.chamberState c = .part ↔ known ∧ ¬ full ∧ ¬ empty)
        judged .c1 (valid .c1 ∧ valid .head) (p.compare .g0 = .level) (p.compare .g0 ≠ .level ∧ at1 .c1)
          ∧ judged .c2 (valid .c2) (at1 .c2) (¬ at1 .c2 ∧ at2 .c2)
          ∧ judged .c3 (valid .c3 ∧ valid .tail) (p.compare .g3 ≠ .level ∧ at2 .c3) (p.compare .g3 = .level))
    ∧ ∀ (p : Part) (f : Flight) (vs : List Vessel) (v : Vessel), p.settings.flight = some f → v ∈ vs →
        (∀ w ∈ vs, w.draught ≤ v.draught) →
        let proven := fun (r : Reach) (sill : Int) =>
          ((p.reaches.get r).cls = .valid ∨ (p.reaches.get r).cls = .limitedHigh)
            ∧ ∃ l, p.level r = some l ∧ (v.draught : Int) + f.keelClearance ≤ l - sill
        p.passable vs = true ↔ proven .head f.headSill ∧ proven .tail f.tailSill

/-- The flight is navigable exactly when both pounds are proven so, FLOODED when either is, and UNPROVEN otherwise;
a pound's judgement is R15's row for its class against its flood limit; and readiness counts only NAVIGABLE as not
flooded (R15, R63). -/
def Obligations.FloodIsProvenOrCounts : Prop :=
  ∀ (p : Part) (f : Flight), p.settings.flight = some f →
    let safe := fun (r : Reach) (m : Int) =>
      ((p.reaches.get r).cls = .valid ∨ (p.reaches.get r).cls = .limitedLow) ∧ ∃ l, p.level r = some l ∧ l ≤ m
    let flooded := fun (r : Reach) (m : Int) =>
      ((p.reaches.get r).cls = .valid ∨ (p.reaches.get r).cls = .limitedHigh) ∧ ∃ l, p.level r = some l ∧ m < l
    (p.flood = .flooded ↔ flooded .head f.headFlood ∨ flooded .tail f.tailFlood)
      ∧ (p.flood = .navigable ↔ safe .head f.headFlood ∧ safe .tail f.tailFlood)
      ∧ (p.formReadiness = true → safe .head f.headFlood ∧ safe .tail f.tailFlood)

/-- CAPTURE_DATUM at REST writes the new zero of R19 into the reach's group, clamped to 0..4,095, and leaves the
group's other fields, the other groups and the reading; the reply carries the zero and whether it was clamped. An
isolated chamber's isolation level becomes its new level if it is VALID and is cleared if not, and the capture
itself is no drift (R19, R20). NAV-INHIBIT is assumed for it so that no turn follows in the same moment. Outside REST
the request is refused NOT_AT_REST; at REST a reach index above 4, a level outside −5,000..30,000 and a reach in no
ordered class are refused BAD_VALUE; and a refusal is all that happens (R19). That a reach whose group is UNSET is
refused BAD_VALUE too is the model's choice (log entry 12). -/
def Obligations.CaptureMovesTheZero : Prop :=
  (∀ (tag : Tag) (i : Nat) (level : Int) (s : State),
     let refused := fun (x : Reason) =>
       exec (.captureDatum tag i level) s = .next { s with part := s.part.refuse .a tag x }
     (s.part.mode ≠ .rest → refused .notAtRest)
       ∧ (s.part.mode = .rest →
           (4 < i ∨ level < -5000 ∨ 30000 < level
             ∨ ∃ r : Reach, r.index = i
                 ∧ ((s.part.reaches.get r).cls.ordered = false ∨ s.part.settings.reach.get r = none)) →
           refused .badValue))
    ∧ ∀ (tag : Tag) (r : Reach) (level : Int) (s : State) (g : ReachGroup) (raw : Nat),
        s.part.mode = .rest → s.part.navInhibit = true → s.part.settings.reach.get r = some g →
        (s.part.reaches.get r).cls.ordered = true → (s.part.reaches.get r).previousRaw = some raw →
        -5000 ≤ level → level ≤ 30000 → 500 ≤ g.span →
        ∃ q z, exec (.captureDatum tag r.index level) s = .next { s with part := q }
          ∧ RoundsAway ((level - g.datum) * 4096) g.span (raw - z)
          ∧ q.settings = { s.part.settings with
              reach := s.part.settings.reach.set r (some { g with zero := max 0 (min 4095 z) }) }
          ∧ s.part.sent.a ++ [.accepted tag (some s.part.link.conditions.any)
              (.datum (max 0 (min 4095 z)) (decide (z < 0 ∨ 4095 < z)))] <+: q.sent.a
          ∧ (q.reaches.get r).window = (s.part.reaches.get r).window
          ∧ (q.reaches.get r).previousRaw = some raw ∧ (q.reaches.get r).cls = (s.part.reaches.get r).cls
          ∧ ∀ c d, r.chamber = some c → s.part.isolated c = true → g.drift = some d → 0 ≤ d →
              (q.reaches.get r).isolationLevel = (if (q.reaches.get r).cls = .valid then q.level r else none)
                ∧ (q.reaches.get r).driftReported = false

/-! ### Gates, sluices and transfers (chapter 2) -/

/-- A change of a limit input acts on the gate record by R26's rows, the double limit first, and the isolation of
the chambers follows (R16); an input that already stands so is no change. Stated where nothing runs, so that no
command follows an arrival. That an input which already stands so is no change is the model's reading (log entry
7). -/
def Obligations.LimitInputsMoveTheRecord : Prop :=
  ∀ (g : Gate) (l : Limit) (b : Bool) (s : State), s.part.StandsBy →
    let was := s.part.gates.get g
    let now := match l with
      | .closedLimit => { was with atClosed := b }
      | .openLimit => { was with atOpen := b }
    ∃ q, exec (.limitInputChange g l b) s = .next { s with part := q }
      ∧ (now = was → q = s.part)
      ∧ (now ≠ was → IsolationFollows s.part q)
      ∧ (now ≠ was → now.atClosed = true → now.atOpen = true →
          q.gates.get g = { now with state := .stopped, drive := .off, travelTimer := none, openPending := false }
            ∧ (s.part.mode ≠ .halted →
                .event (.fault .gateLimit (.gate g) .none s.part.mode s.part.lockageNumber s.part.stepIndex s.part.clock)
                  ∈ q.sent.a))
      ∧ (now ≠ was → l = .closedLimit → b = true → was.atOpen = false →
          q.gates.get g = if was.state = .closing ∨ was.state = .stopped
            then { now with state := .closed, drive := .off, travelTimer := none } else now)
      ∧ (now ≠ was → l = .openLimit → b = true → was.atClosed = false →
          q.gates.get g = if was.state = .opening ∨ was.state = .stopped
            then { now with state := .open_, drive := .off, travelTimer := none, openPending := false } else now)
      ∧ (now ≠ was → l = .closedLimit → b = false →
          q.gates.get g = if was.state = .closed then { now with state := .stopped }
            else if was.state = .stopped ∧ was.atOpen = true then { now with state := .open_ } else now)
      ∧ (now ≠ was → l = .openLimit → b = false →
          q.gates.get g = if was.state = .open_ then { now with state := .stopped }
            else if was.state = .stopped ∧ was.atClosed = true then { now with state := .closed } else now)

/-- In WORKING the arrival that the step in hand waits for ends it: the next step becomes current, and its STEP
event is the next message on port A (R93, R95, R97). After the last step, a CLOSE, the lockage ends RETURNED,
COMPLETED_LATE or COMPLETED: its record joins every enabled outlet under the next sequence, the END event is sent
and the flight is at REST (R93, R94, R143, R148); the counters count the ending, its record, its lines and its
total, held at their limits (R153, R154); and the tally that the interval or a waiting FORCE_TALLY makes due is
appended if every enabled outlet still has a free slot and pending if not (R155, R158, R159). NAV-INHIBIT is assumed
at the end so that no turn follows in the same moment. -/
def Obligations.ArrivalsEndTheStep : Prop :=
  (∀ (g : Gate) (s : State) (l : Lockage) (ph : Phase) (x : PlanStep), s.part.mode = .working →
    s.part.lockage = some l → l.plan[l.current]? = some x → (s.part.gates.get g).commander = .sequencer →
    (s.part.gates.get g).atClosed = false → (s.part.gates.get g).atOpen = false →
    (l.plan[l.current - 1]? = some ⟨.close g, ph⟩ → (s.part.gates.get g).state = .closing →
        ∃ q, exec (.limitInputChange g .closedLimit true) s = .next { s with part := q }
          ∧ s.part.sent.a ++ [.event (.step l.number (l.current + 1) x s.part.clock)] <+: q.sent.a)
      ∧ (l.plan[l.current - 1]? = some ⟨.openGate g, ph⟩ → l.stage = .travel →
          (s.part.gates.get g).state = .opening → (s.part.gates.get g).openPending = true →
          ∃ q, exec (.limitInputChange g .openLimit true) s = .next { s with part := q }
            ∧ s.part.sent.a ++ [.event (.step l.number (l.current + 1) x s.part.clock)] <+: q.sent.a))
    ∧ ∀ (g : Gate) (s : State) (l : Lockage) (ph : Phase), s.part.mode = .working → s.part.navInhibit = true →
        s.part.lockage = some l → l.current = l.plan.length → l.plan[l.current - 1]? = some ⟨.close g, ph⟩ →
        (s.part.gates.get g).commander = .sequencer → (s.part.gates.get g).state = .closing →
        (s.part.gates.get g).atClosed = false → (s.part.gates.get g).atOpen = false →
        let o : LockageOutcome :=
          if ph = .returning then .returned else if l.late = true then .completedLate else .completed
        let r := s.part.tollRecord l o
        let u := s.part.outlets
        let c := u.counters
        let plus := fun (k : Nat) (d : Bool) => if d then min 65535 (k + 1) else k
        let records := min 65535 (c.lockageRecords + 1)
        let reached := u.interval ≠ 0 ∧ u.interval ≤ records
        ∃ q, exec (.limitInputChange g .closedLimit true) s = .next { s with part := q }
          ∧ q.mode = .rest ∧ q.lockage = none ∧ (∀ f, (faceOf q.faces f).requested = .stop)
          ∧ .event (.ending l.number o l.headDraws l.tideWait l.late (some u.nextSequence)
              (l.convoy.map (·.ticket)) false) ∈ q.sent.a
          ∧ (∀ x, (u.outlets.get x).enabled = true →
              (u.outlets.get x).queue ++ [⟨u.nextSequence, .lockage r⟩] <+: (q.outlets.outlets.get x).queue)
          ∧ (u.tally = .none → ¬ reached → q.outlets.tally = .none
              ∧ q.outlets.nextSequence = nextNumber u.nextSequence
              ∧ q.outlets.counters = { c with
                  lockageRecords := records, vessels := min 65535 (c.vessels + l.convoy.length)
                  completed := plus c.completed (decide (o = .completed))
                  completedLate := plus c.completedLate (decide (o = .completedLate))
                  returned := plus c.returned (decide (o = .returned))
                  tollSum := min 99999999 (c.tollSum + r.total) })
          ∧ ∀ forced periodic,
              (u.tally = .none ∧ reached ∧ forced = false ∧ periodic = true
                ∨ u.tally = .waiting ∧ forced = true ∧ (periodic = true ↔ reached)) →
              ((∃ x, (u.outlets.get x).enabled = true ∧ (u.outlets.get x).depth ≤ (u.outlets.get x).queue.length + 1) →
                  q.outlets.tally = .pending forced periodic)
                ∧ ((∀ x, (u.outlets.get x).enabled = true →
                      (u.outlets.get x).queue.length + 1 < (u.outlets.get x).depth) →
                    q.outlets.tally = .outstanding (nextNumber u.nextSequence)
                      ∧ q.outlets.counters = ⟨0, 0, 0, 0, 0, 0, 0, 0, 0, 0⟩)

/-- The travel limit run out: the drive goes OFF, open pending to no and the state to STOPPED, and GATE_TIMEOUT is
reported (R27, R114). A step that is not confirmed in time is dropped: the sluice stands HELD, or CLOSED at 0, with
its target where it stands, and SLUICE_STALL is reported (R30, R114). Either report halts a flight that runs a lockage
or a survey (R119); in REST and STARTUP it is sent with response NONE and noted as the latest fault, and while HALTED
it is noted and not sent (R116, R117, R120). Stated in full where no turn follows in the same moment; at REST the FAULT
event is sent in any case. A stalled sluice's record is stated where its stall does not end a transfer in CLOSING at 0.
A timer that does not run has nothing to expire; that its expiry does nothing is the model's reading (log entry 7). -/
def Obligations.StoppedMotionIsReported : Prop :=
  let event := fun (s : State) (k : FaultKind) (x : Subject) => Msg.event
    (.fault k x .none s.part.mode s.part.lockageNumber s.part.stepIndex s.part.clock)
  let told := fun (s : State) (q : Part) (k : FaultKind) (x : Subject) =>
    q.mode = s.part.mode ∧ q.faults = s.part.faults
      ∧ q.sent = { s.part.sent with
          a := s.part.sent.a ++ if s.part.mode = .halted then [] else [event s k x] }
      ∧ q.link = { s.part.link with conditions := { s.part.link.conditions with
          fault := some { kind := k, lockage := s.part.lockageNumber, index := s.part.stepIndex
                          halting := s.part.link.conditions.halting } } }
  (∀ (g : Gate) (s : State),
     ((s.part.gates.get g).travelTimer = none → exec (.travelTimerExpiry g) s = .next s)
       ∧ ((s.part.gates.get g).travelTimer ≠ none →
           (s.part.StandsBy ∨ s.part.mode = .working ∨ s.part.mode = .survey) →
           ∃ q, exec (.travelTimerExpiry g) s = .next { s with part := q }
             ∧ q.gates.get g = { s.part.gates.get g with
                 state := .stopped, drive := .off, travelTimer := none, openPending := false }
             ∧ (s.part.StandsBy → told s q .gateTimeout (.gate g))
             ∧ ((s.part.mode = .working ∨ s.part.mode = .survey) → s.part.DrivesMatch →
                 HaltedFrom s.part q .gateTimeout (.gate g)))
       ∧ ((s.part.gates.get g).travelTimer ≠ none → s.part.mode = .rest →
           ∃ q, exec (.travelTimerExpiry g) s = .next { s with part := q }
             ∧ s.part.sent.a ++ [event s .gateTimeout (.gate g)] <+: q.sent.a))
    ∧ (∀ (k : Sluice) (s : State),
         let was := s.part.sluices.get k
         (was.stepTimer = none → exec (.stepTimerExpiry k) s = .next s)
           ∧ (was.stepTimer ≠ none → s.part.StandsBy →
               (∀ t, was.transfer = some t → t.phase = .closing → was.position ≠ 0) →
               ∃ q, exec (.stepTimerExpiry k) s = .next { s with part := q }
                 ∧ q.sluices.get k = { was with
                     step := none, stepTimer := none, target := was.position
                     state := if was.position = 0 then .closed else .held }
                 ∧ told s q .sluiceStall (.sluice k))
           ∧ (was.stepTimer ≠ none → s.part.mode = .rest →
               ∃ q, exec (.stepTimerExpiry k) s = .next { s with part := q }
                 ∧ s.part.sent.a ++ [event s .sluiceStall (.sluice k)] <+: q.sent.a)
           ∧ (was.stepTimer ≠ none → (s.part.mode = .working ∨ s.part.mode = .survey) →
               s.part.DrivesMatch →
               ∃ q, exec (.stepTimerExpiry k) s = .next { s with part := q }
                 ∧ HaltedFrom s.part q .sluiceStall (.sluice k)))

/-- A gate with open pending takes its two tests: it takes up its travel again when both hold, pauses with its timer
running when one fails, and stands where it stood otherwise; an UNORDERED compare under HALT halts the flight (R28).
The first two are stated where no OPEN step waits, because a change of a gate's state has a waiting one evaluate in
the same moment (R97). The row taken as a command of its own is the model's reading (log entry 6). -/
def Obligations.PausedTravelIsRetested : Prop :=
  ∀ (g : Gate) (s : State), (s.part.gates.get g).openPending = true →
    let was := s.part.gates.get g
    let holds := s.part.compare g = .level ∧ s.part.interlock g = true
    let noneWaits := ∀ l, s.part.lockage = some l → l.stage ≠ .clearance ∧ l.stage ≠ .tide ∧ l.stage ≠ .level
    ∃ q, exec (.gateTravelResume g) s = .next { s with part := q }
      ∧ (quietMode s.part.mode → noneWaits → was.state = .stopped → holds →
          q.gates = s.part.gates.set g { was with state := .opening, drive := .openDrive })
      ∧ (quietMode s.part.mode → noneWaits → was.state = .opening → ¬ holds → (s.part.compare g).isOrdered = true →
          q.gates = s.part.gates.set g { was with state := .stopped, drive := .off })
      ∧ (quietMode s.part.mode →
          ((was.state = .opening ∧ holds)
            ∨ (was.state = .stopped ∧ ¬ holds ∧ (s.part.compare g).isOrdered = true)
            ∨ (was.state ≠ .opening ∧ was.state ≠ .stopped)) →
          q = { s.part with turn := q.turn } ∧ TurnIdle s.part.turn q.turn)
      ∧ (∀ c, s.part.mode = .working → s.part.DrivesMatch → (was.state = .opening ∨ was.state = .stopped) →
          s.part.compare g = .unordered c → s.part.responseOf (sensorFault c) = .halt →
          HaltedFrom s.part q (sensorFault c) (.gate g))

/-- A change of a sluice's feedback with no transfer through it: it is the new position; the position its step
should reach confirms the step, and any other leaves it in flight; a closing goes on down to 0 a step at a time,
with no interval; without a step a CLOSED sluice that rises is HELD and a HELD one that falls to 0 is CLOSED (R30,
R31); the isolation of the chambers follows (R16). A ramping sluice whose up-step is confirmed starts its ramp
interval and is STEPPING below its effective cap and HELD at it; its transfer ramps on (R33). Where the next up-step
is due already, the first of a transfer started with that step in flight, it is issued at the confirmation or stays
due, and no interval starts. At an announcement beside a transfer in RAMPING, LEVEL begins its CLOSING with the
close command, ABOVE and BELOW leave it, and UNORDERED under HALT halts the flight (R34). Confirmed at 0 in CLOSING
the transfer ends: its sluice is at rest with no trim, a head draw through S0 is counted by the lockage, up to 255,
and by the outlet unit, also while HALTED; and in WORKING the step ends, here before another TRANSFER of the setting
(R35, R96, R111, R153, R154). A feedback that already stands so is no change, a ramping sluice's state follows R33,
a CLOSED sluice with a step in flight stays CLOSED at a position its step should not reach, and a first up-step due
at an earlier step's confirmation waits for no interval: the model's readings (log entries 7, 16 and 33). -/
def Obligations.FeedbackMovesTheSluice : Prop :=
  (∀ (k : Sluice) (n : Fin 16) (s : State), s.part.StandsBy → (s.part.sluices.get k).transfer = none →
     let was := s.part.sluices.get k
     ∃ q, exec (.positionFeedbackChange k n) s = .next { s with part := q }
       ∧ (n.val = was.position → q = s.part)
       ∧ (n.val ≠ was.position → IsolationFollows s.part q)
       ∧ (n.val ≠ was.position → ∀ d m, was.step = some (d, m) → m ≠ n.val →
           q.sluices.get k = { was with position := n.val })
       ∧ (n.val ≠ was.position → (was.step = none ∧ was.state = .closing ∨ ∃ d, was.step = some (d, n.val)) →
           q.sluices.get k =
             if n.val = 0 then { was with
               position := 0, step := none, state := .closed
               stepTimer := if was.step = none then was.stepTimer else none }
             else { was with
               position := n.val, state := .closing, step := some (.down, n.val - 1)
               stepTimer := s.part.settings.works.map fun w => 1000 * w.stepLimit.get k })
       ∧ (n.val ≠ was.position → was.step = none → was.state ≠ .closing →
           q.sluices.get k =
             if was.state = .closed ∧ 0 < n.val then { was with position := n.val, state := .held }
             else if was.state = .held ∧ n.val = 0 then { was with position := 0, state := .closed }
             else { was with position := n.val }))
    ∧ (∀ (k : Sluice) (n : Fin 16) (s : State) (t : Transfer) (ph : Phase), s.part.mode = .working →
         s.part.curStep = some ⟨.transfer k, ph⟩ → (s.part.sluices.get k).transfer = some t → t.phase = .ramping →
         (s.part.sluices.get k).step = some (.up, n.val) → n.val ≠ (s.part.sluices.get k).position →
         n.val ≤ s.part.effectiveCap k → (∀ g, (s.part.gates.get g).openPending = false) →
         let was := s.part.sluices.get k
         ∃ q, exec (.positionFeedbackChange k n) s = .next { s with part := q }
           ∧ (was.due = false → q.sluices.get k = { was with
               position := n.val, step := none, stepTimer := none, target := s.part.effectiveCap k
               rampTimer := s.part.settings.works.map fun w => 1000 * w.rampInterval.get k
               state := if n.val = s.part.effectiveCap k then .held else .stepping })
           ∧ (was.due = true → q.sluices.get k =
               if n.val < s.part.effectiveCap k ∧ (s.part.compare k).isOrdered = true ∧ s.part.interlock k = true then
                 { was with
                   position := n.val, step := some (.up, n.val + 1), target := s.part.effectiveCap k
                   stepTimer := s.part.settings.works.map fun w => 1000 * w.stepLimit.get k
                   due := false, state := .stepping }
               else { was with
                   position := n.val, step := none, stepTimer := none, target := s.part.effectiveCap k
                   state := .held }))
    ∧ (∀ (k : Sluice) (r : Reach) (raw : Fin 4096) (s : State) (t : Transfer) (ph : Phase), s.part.mode = .working →
         s.part.curStep = some ⟨.transfer k, ph⟩ → (s.part.sluices.get k).transfer = some t → t.phase = .ramping →
         0 < (s.part.sluices.get k).position → (r = k.above ∨ r = k.below) →
         (∀ g, (s.part.gates.get g).openPending = false) → (∀ j, j ≠ k → s.part.ramping j = false) →
         let was := s.part.sluices.get k
         ∃ q, exec (.sampleArrival r raw) s = .next { s with part := q }
           ∧ (q.compare k = .level → q.mode = .working ∧ q.sent = s.part.sent
               ∧ q.sluices.get k = { was with
                   transfer := some { t with phase := .closing }, rampTimer := none, due := false
                   target := 0, state := .closing
                   step := if was.step = none then some (.down, was.position - 1) else was.step
                   stepTimer := if was.step = none then s.part.settings.works.map fun w => 1000 * w.stepLimit.get k
                     else was.stepTimer })
           ∧ ((q.compare k = .above ∨ q.compare k = .below) →
               q.mode = .working ∧ q.sent = s.part.sent ∧ (q.sluices.get k).transfer = some t)
           ∧ ∀ c, q.compare k = .unordered c → s.part.responseOf (sensorFault c) = .halt → s.part.DrivesMatch →
               HaltedFrom { s.part with link := { s.part.link with conditions := { s.part.link.conditions with
                 reaches := q.link.conditions.reaches } } } q (sensorFault c) (.sluice k))
    ∧ (∀ (k : Sluice) (s : State) (l : Lockage) (t : Transfer), s.part.lockage = some l →
         (s.part.sluices.get k).transfer = some t → t.phase = .closing → t.lockage = l.number →
         (s.part.sluices.get k).waiting = none → (s.part.sluices.get k).step = some (.down, 0) →
         (s.part.sluices.get k).position ≠ 0 → (s.part.sluices.get k).target = 0 →
         (s.part.sluices.get k).state = .closing → (∀ g, (s.part.gates.get g).openPending = false) →
         let c := s.part.outlets.counters
         let drawn := { l with headDraws := if k = .g0 then min 255 (l.headDraws + 1) else l.headDraws }
         let counted := { s.part.outlets with
           counters := { c with headDraws := if k = .g0 then min 65535 (c.headDraws + 1) else c.headDraws }
           saturated := if k = .g0 ∧ 65535 ≤ c.headDraws then true else s.part.outlets.saturated }
         let ended := { s.part.sluices.get k with
           position := 0, state := .closed, step := none, stepTimer := none, trim := 0, transfer := none
           rampTimer := none, due := false }
         (s.part.mode = .halted → ∃ q, exec (.positionFeedbackChange k 0) s = .next { s with part := q }
           ∧ q.mode = .halted ∧ q.sluices.get k = ended ∧ q.lockage = some drawn ∧ q.outlets = counted
           ∧ q.sent = s.part.sent)
           ∧ ∀ j ph, s.part.mode = .working → l.plan[l.current - 1]? = some ⟨.transfer k, ph⟩ →
               l.plan[l.current]? = some ⟨.transfer j, .setting⟩ → j ≠ k → (s.part.sluices.get j).transfer = none →
               (s.part.compare j = .above ∨ s.part.compare j = .below) →
               ∃ q, exec (.positionFeedbackChange k 0) s = .next { s with part := q }
                 ∧ q.mode = .working ∧ q.sluices.get k = ended ∧ q.outlets = counted
                 ∧ q.lockage = some { drawn with
                     current := l.current + 1, stage := .running, tideReported := false, moveDone := false
                     moveTimer := none, windowTimer := none }
                 ∧ (q.sluices.get j).transfer = some { phase := .ramping, lockage := l.number
                                                       timer := s.part.settings.works.map fun w =>
                                                         1000 * w.transferLimit.get j }
                 ∧ q.sent.a = s.part.sent.a
                     ++ [.event (.step l.number (l.current + 1) ⟨.transfer j, .setting⟩ s.part.clock)])

/-- The ramp interval run out makes the next up-step due. A due step is issued when the position is below the
effective cap, no step is in flight, the compare is not UNORDERED and the interlock holds; while one of these fails
it stays due, and the sluice below its cap is HELD (R33). Nothing but the sluice and the isolation of the chambers
changes. DUE_UP_STEP_ISSUE as a command of its own is the model's reading (log entry 6), and so is HELD at position
0 (log entry 16). -/
def Obligations.DueStepsWaitForWaterAndInterlock : Prop :=
  ∀ (k : Sluice) (s : State) (t : Transfer) (c : Instr), (s.part.sluices.get k).transfer = some t →
    t.phase = .ramping → (s.part.sluices.get k).step = none →
    (s.part.sluices.get k).position < s.part.effectiveCap k →
    (c = .rampIntervalExpiry k ∧ (s.part.sluices.get k).rampTimer ≠ none
      ∨ c = .dueUpStepIssue k ∧ (s.part.sluices.get k).due = true) →
    ∃ q, exec c s = .next { s with part := q }
      ∧ q = { s.part with sluices := q.sluices, reaches := q.reaches } ∧ IsolationFollows s.part q
      ∧ q.sluices = s.part.sluices.set k (q.sluices.get k)
      ∧ (q.sluices.get k).rampTimer = (if c = .dueUpStepIssue k then (s.part.sluices.get k).rampTimer else none)
      ∧ ((s.part.compare k).isOrdered = true → s.part.interlock k = true →
          q.sluices.get k = { s.part.sluices.get k with
            due := false, target := s.part.effectiveCap k, state := .stepping
            rampTimer := (q.sluices.get k).rampTimer
            step := some (.up, (s.part.sluices.get k).position + 1)
            stepTimer := s.part.settings.works.map fun w => 1000 * w.stepLimit.get k })
      ∧ (¬ ((s.part.compare k).isOrdered = true ∧ s.part.interlock k = true) →
          q.sluices.get k = { s.part.sluices.get k with
            due := true, target := s.part.effectiveCap k, state := .held
            rampTimer := (q.sluices.get k).rampTimer })

/-- TRANSFER_TIMEOUT leaves the transfer in its phase with its timer stopped; under CONTINUE the flight works on and
the fault is sent and noted once for the step in hand, and under HALT the flight halts (R36, R116, R117, R119).
MOVE_TIMEOUT stops the move timer and leaves the move in hand: under CONTINUE the flight works on with the fault
sent and noted once for the step, and under HALT it halts; with no timer running nothing expires (R102, R116, R117).
The note is the latest fault with its kind, lockage and step and the halting mark as it stood. That a stopped
timer's expiry does nothing is the model's reading (log entry 7). -/
def Obligations.TimeoutsAreAnswered : Prop :=
  let noted := fun (s : State) (k : FaultKind) =>
    { s.part.link with conditions := { s.part.link.conditions with
      fault := some { kind := k, lockage := s.part.lockageNumber, index := s.part.stepIndex
                      halting := s.part.link.conditions.halting } } }
  (∀ (k : Sluice) (s : State) (t : Transfer), s.part.mode = .working →
     (s.part.sluices.get k).transfer = some t → t.timer ≠ none →
     ∃ q, exec (.transferTimerExpiry k) s = .next { s with part := q }
       ∧ (s.part.responseOf .transferTimeout = .continue_ →
           q.mode = .working
             ∧ q.sluices = s.part.sluices.set k
                 { s.part.sluices.get k with transfer := some { t with timer := none } }
             ∧ (s.part.faults.reported.contains .transferTimeout = true →
                 q.sent = s.part.sent ∧ q.faults = s.part.faults ∧ q.link = s.part.link)
             ∧ (s.part.faults.reported.contains .transferTimeout = false → q.link = noted s .transferTimeout
                 ∧ q.sent.a = s.part.sent.a ++ [.event (.fault .transferTimeout (.sluice k) .continue_ .working
                   s.part.lockageNumber s.part.stepIndex s.part.clock)]
                 ∧ q.faults = { s.part.faults with reported := s.part.faults.reported ++ [.transferTimeout] }))
       ∧ (s.part.responseOf .transferTimeout = .halt → s.part.DrivesMatch →
           HaltedFrom s.part q .transferTimeout (.sluice k)))
    ∧ (∀ s : State,
         ((∀ l, s.part.lockage = some l → l.moveTimer = none) → exec .moveTimerExpiry s = .next s)
           ∧ ∀ l, s.part.lockage = some l → l.moveTimer ≠ none → s.part.mode = .working →
               ∃ q, exec .moveTimerExpiry s = .next { s with part := q }
                 ∧ (s.part.responseOf .moveTimeout = .continue_ →
                     q.mode = .working ∧ q.lockage = some { l with moveTimer := none } ∧ q.gates = s.part.gates
                       ∧ q.faces = s.part.faces
                       ∧ (s.part.faults.reported.contains .moveTimeout = true →
                           q.sent = s.part.sent ∧ q.faults = s.part.faults ∧ q.link = s.part.link))
                 ∧ (s.part.responseOf .moveTimeout = .continue_ → s.part.faults.reported.contains .moveTimeout = false →
                     q.link = noted s .moveTimeout
                       ∧ q.sent.a = s.part.sent.a ++ [.event (.fault .moveTimeout (.lockage l.number l.current) .continue_
                           .working (some l.number) (some l.current) s.part.clock)]
                       ∧ q.faults = { s.part.faults with reported := s.part.faults.reported ++ [.moveTimeout] })
                 ∧ (s.part.responseOf .moveTimeout = .halt → s.part.DrivesMatch →
                     HaltedFrom s.part q .moveTimeout (.lockage l.number l.current)))

/-- TRIM moves the trim of a sluice whose transfer runs by one, saturating at ±15, and the reply carries the trim
and the effective cap, cap + trim clamped to 1..15; in CLOSING nothing else changes; a sluice with no transfer
refuses it NOT_CURRENT, and any other sluice index or adjustment is refused BAD_VALUE (R29, R37). -/
def Obligations.TrimSaturates : Prop :=
  ∀ (tag : Tag) (i : Nat) (k : Sluice) (a : Int) (s : State) (w : Works), s.part.settings.works = some w →
    let was := s.part.sluices.get k
    let trim : Int := max (-15) (min 15 (was.trim + a))
    let cap : Int := max 1 (min 15 (w.cap.get k + trim))
    let refused := fun x => exec (.trim tag i a) s = .next { s with part := s.part.refuse .a tag x }
    (3 < i → refused .badValue)
      ∧ (i = k.index → a ≠ 1 → a ≠ -1 → refused .badValue)
      ∧ (i = k.index → (a = 1 ∨ a = -1) → was.transfer = none → refused .notCurrent)
      ∧ (i = k.index → (a = 1 ∨ a = -1) → was.transfer ≠ none →
          ∃ q, exec (.trim tag i a) s = .next { s with part := q }
            ∧ (q.sluices.get k).trim = trim
            ∧ q.sent = (s.part.send .a (.accepted tag (some s.part.link.conditions.any) (.trim trim cap.toNat))).sent
            ∧ (s.part.ramping k = false → q.sluices = s.part.sluices.set k { was with trim := trim })
            ∧ (s.part.ramping k = true → ((q.sluices.get k).target : Int) = cap))

/-! ### Lamps (sections 2.6 and 2.7) -/

/-- At a refresh a FLASH output is inverted and a LIT or DARK one matches its command; a lamp lit now and at the
last refresh is armed and a dark one disarmed; an armed lamp without current is failed and stays so (R42), and is
noted with its face and colour (R43). On a face whose move in hand asks PROCEED it is put to the fault handler as
LAMP_FAILED: under HALT the flight halts, and under CONTINUE the decision is awaited no more, the face shows its
aspect and the fault is sent and noted once for the step; where no face asks PROCEED it raises no fault (R40, R43,
R117, R119). LAMP_CLEAR at REST clears every failed mark, leaves each lamp's command, output and arming, and replies
how many lamps it cleared; in any other mode it is refused NOT_AT_REST (R44). That all lamps are driven and proved
first, from their commands as they stood before the refresh, and the failures acted on after is the model's reading
(log entry 21). -/
def Obligations.LampsAreSensedAndCleared : Prop :=
  (∀ (current : LampMap Bool) (s : State), ∃ q, exec (.lampRefresh current) s = .next { s with part := q }
     ∧ q.lampTimer = 500
     ∧ ∀ f k,
         let was := lampOf s.part.lamps f k
         let lit := match was.command with
           | .flash => !was.output
           | .lit => true
           | .dark => false
         (lampOf q.lamps f k).litLast = lit
           ∧ (lampOf q.lamps f k).armed = (lit && (was.litLast || was.armed))
           ∧ (lampOf q.lamps f k).failed = (was.failed || (lit && (was.litLast || was.armed) && !lampOf current f k))
           ∧ ((∀ e c, (lampOf q.lamps e c).failed = (lampOf s.part.lamps e c).failed) → quietMode s.part.mode →
               (lampOf q.lamps f k).command = was.command ∧ (lampOf q.lamps f k).output = lit))
    ∧ (∀ (current : LampMap Bool) (s : State), ∃ q, exec (.lampRefresh current) s = .next { s with part := q }
     ∧ (let fails := fun f k => ((lampOf q.lamps f k).failed && !(lampOf s.part.lamps f k).failed)
        let noted := { s.part.link.conditions with lamps := q.link.conditions.lamps }
        (∀ f k, lampOf q.link.conditions.lamps f k = (lampOf s.part.link.conditions.lamps f k || fails f k))
          ∧ (quietMode s.part.mode → (∀ f, (faceOf s.part.faces f).requested ≠ .proceed) →
              q.sent = s.part.sent ∧ q.faults = s.part.faults ∧ q.link = { s.part.link with conditions := noted })
          ∧ ∀ g d ph, s.part.mode = .working → s.part.curStep = some ⟨.move g d, ph⟩ →
              (faceOf s.part.faces (faceServing g d)).requested = .proceed → (∃ k, fails (faceServing g d) k = true) →
              (s.part.responseOf .lampFailed = .halt → s.part.DrivesMatch →
                  HaltedFrom { s.part with link := { s.part.link with conditions := noted } } q .lampFailed
                    (.face (faceServing g d)))
                ∧ (s.part.responseOf .lampFailed = .continue_ →
                    s.part.faults.reported.contains .lampFailed = false →
                    q.mode = .working
                      ∧ faceOf q.faces (faceServing g d) = {
                          requested := .proceed, awaited := false
                          shown := if (s.part.gates.get g).state = .open_ then .proceed else .stop }
                      ∧ q.sent.a = s.part.sent.a ++ [.event (.fault .lampFailed (.face (faceServing g d)) .continue_
                          .working s.part.lockageNumber s.part.stepIndex s.part.clock)]
                      ∧ q.faults = { s.part.faults with reported := s.part.faults.reported ++ [.lampFailed] }
                      ∧ q.link.conditions = { noted with
                          fault := some { kind := .lampFailed, lockage := s.part.lockageNumber
                                          index := s.part.stepIndex, halting := s.part.link.conditions.halting } })))
    ∧ (∀ (tag : Tag) (s : State),
         (s.part.mode ≠ .rest → exec (.lampClear tag) s = .next { s with part := s.part.refuse .a tag .notAtRest })
           ∧ (s.part.mode = .rest → ∃ q n, exec (.lampClear tag) s = .next { s with part := q }
               ∧ n = (lampList.filter fun x => (lampOf s.part.lamps x.1 x.2).failed).length ∧ n ≤ 16
               ∧ q = { s.part with
                   lamps := q.lamps
                   sent := (s.part.send .a (.accepted tag (some s.part.link.conditions.any) (.lamps n))).sent }
               ∧ ∀ f k, lampOf q.lamps f k = { lampOf s.part.lamps f k with failed := false }))

/-- SET_CLOCK in any mode sets the clock, restarts its second and replies the clock before it; a second above 86,399
is refused BAD_VALUE; nothing else changes (R168). Each second of the timebase moves a set clock on by one, into a
new day at midnight and from day 65,535 to day 0. -/
def Obligations.ClockIsSetAndAdvances : Prop :=
  ∀ (tag : Tag) (day second : Nat) (s : State),
    (86399 < second → exec (.setClock tag day second) s = .next { s with part := s.part.refuse .a tag .badValue })
      ∧ (second ≤ 86399 → exec (.setClock tag day second) s = .next { s with part := { s.part with
          clock := some ⟨day, second⟩, secondCount := 1000
          sent := (s.part.send .a (.accepted tag (some s.part.link.conditions.any) (.clock s.part.clock))).sent } })
      ∧ exec .clockAdvance s = .next { s with part := { s.part with
          secondCount := 1000
          clock := s.part.clock.map fun c =>
            if c.second < 86399 then ⟨c.day, c.second + 1⟩
            else if c.day < 65535 then ⟨c.day + 1, 0⟩ else ⟨0, 0⟩ } }

/-! ### Inputs, timers and the fault handler (chapters 4, 6, 7 and 11) -/

/-- E-STOP halts a flight that runs a lockage or a survey; while HALTED it is only noted as the latest fault; in
REST and STARTUP it stops every travelling gate and its FAULT event carries no answer. Its negation starts nothing
(R116, R119, R121). NAV-INHIBIT asserted leaves the turn selector not ready and, outside a survey, changes nothing
else; negated while nothing could turn it changes nothing else either (R63, R64). That an input which already stands
asserted is no assertion, and that a stopped gate keeps its open pending, are the model's readings (log entries 7
and 14). -/
def Obligations.InputsActByTheMode : Prop :=
  (∀ s : State,
     (s.part.eStop = true → exec .eStopAsserted s = .next s)
       ∧ exec .eStopNegated s = .next { s with part := { s.part with eStop := false } }
       ∧ (s.part.eStop = false → ∃ q, exec .eStopAsserted s = .next { s with part := q } ∧ q.eStop = true
           ∧ ((s.part.mode = .working ∨ s.part.mode = .survey) → s.part.DrivesMatch →
               HaltedFrom s.part q .eStop .flight)
           ∧ (s.part.mode = .halted →
               q = { s.part with
                 eStop := true, turn := q.turn
                 link := { s.part.link with conditions := { s.part.link.conditions with
                   fault := some { kind := .eStop, lockage := s.part.lockageNumber, index := s.part.stepIndex
                                   halting := s.part.link.conditions.halting } } } }
                 ∧ TurnIdle s.part.turn q.turn)
           ∧ ((s.part.mode = .startup ∨ (s.part.mode = .rest ∧ s.part.navInhibit = true)) →
               q.mode = s.part.mode
                 ∧ q.sent.a = s.part.sent.a ++ [.event (.fault .eStop .flight .none s.part.mode s.part.lockageNumber
                     s.part.stepIndex s.part.clock)]
                 ∧ ∀ g, q.gates.get g =
                     if (s.part.gates.get g).state = .opening ∨ (s.part.gates.get g).state = .closing then
                       { s.part.gates.get g with state := .stopped, drive := .off, travelTimer := none }
                     else s.part.gates.get g)))
    ∧ (∀ (b : Bool) (s : State), (b = true ∧ s.part.mode ≠ .survey ∨ quietMode s.part.mode) →
         ∃ q, exec (.navInhibitChange b) s = .next { s with part := q }
           ∧ q = { s.part with navInhibit := b, turn := q.turn } ∧ TurnIdle s.part.turn q.turn)

/-- The commitment window run out ends the COMMIT step: the carrying TRANSFER of a class C lockage that follows
becomes current with the commitment PASSED, its STEP event sent and its transfer started; no running window, no
effect (R93, R96, R107). That a stopped timer's expiry does nothing is the model's reading (log entry 7). -/
def Obligations.WindowExpiryPassesTheCommitment : Prop :=
  ∀ s : State,
    ((∀ l, s.part.lockage = some l → l.windowTimer = none) → exec .windowTimerExpiry s = .next s)
      ∧ ∀ (l : Lockage) (k : Sluice) (ph : Phase), s.part.lockage = some l → l.windowTimer ≠ none →
          s.part.mode = .working → l.cls = .c → l.plan[l.current - 1]? = some ⟨.commit, ph⟩ →
          l.plan[l.current]? = some ⟨.transfer k, .carrying⟩ → (s.part.sluices.get k).transfer = none →
          (s.part.compare k = .above ∨ s.part.compare k = .below) →
          ∃ q, exec .windowTimerExpiry s = .next { s with part := q }
            ∧ q.mode = .working
            ∧ q.lockage = some { l with
                current := l.current + 1, stage := .running, commitment := some .passed, tideReported := false
                moveDone := false, moveTimer := none, windowTimer := none }
            ∧ q.sent.a = s.part.sent.a
                ++ [.event (.step l.number (l.current + 1) ⟨.transfer k, .carrying⟩ s.part.clock)]
            ∧ ∃ t, (q.sluices.get k).transfer = some t ∧ t.phase = .ramping ∧ t.lockage = l.number
                ∧ t.timer = s.part.settings.works.map fun w => 1000 * w.transferLimit.get k

/-- The watchdog run out loses the link, which is noted; the turn selector is not ready; and a lockage whose entry
move waits in AWAITING is withdrawn, its convoy back at the head of its queue and the flight at REST, while any
other is kept. A watchdog that does not run has nothing to expire (R106, R182, R183). The last is the model's
reading (log entry 7). -/
def Obligations.WatchdogExpiryLosesTheLink : Prop :=
  ∀ s : State,
    (s.part.link.watchdog = none → exec .watchdogExpiry s = .next s)
      ∧ (s.part.link.watchdog ≠ none → ∃ q, exec .watchdogExpiry s = .next { s with part := q }
          ∧ q.link = { s.part.link with
              watchdog := none, lost := true
              conditions := { s.part.link.conditions with linkLost := true } }
          ∧ q.turn.readiness = false
          ∧ (∀ l g d, s.part.lockage = some l → s.part.mode = .working → l.stage = .awaiting →
              s.part.curStep = some ⟨.move g d, .entry⟩ →
              q.mode = .rest ∧ q.lockage = none
                ∧ q.queueOf l.direction = mergeConvoy l.convoy (s.part.queueOf l.direction)
                ∧ .event (.ending l.number .withdrawn l.headDraws l.tideWait l.late none
                    (l.convoy.map (·.ticket)) true) ∈ q.sent.a)
          ∧ ((∀ l, s.part.lockage = some l → l.stage ≠ .awaiting) →
              q.lockage.map (fun l => (l.number, l.convoy, l.plan, l.current, l.stage, l.entry, l.exit))
                = s.part.lockage.map fun l => (l.number, l.convoy, l.plan, l.current, l.stage, l.entry, l.exit)))

/-- TURN_EVALUATE while readiness has just gone to yes evaluates the pattern (R64, R67): HOLD does nothing; REJECT
sets the hold, sends TURN_REJECTED and notes it (R68); UP or DOWN spends the next lockage number and, where every
chamber is judged, sends the TURN event and then the STEP event of step 1 (R69, R70, R92, R93), and otherwise sends
NO_PLAN and leaves the flight at REST with plan wait (R71). The convoy is the head vessel and each following vessel
in queue order as long as the convoy maximum, the usable length with a gap between neighbours and the depths all
allow it, and none behind the first that does not fit (R55). The row taken as a command of its own is the model's
reading (log entry 6), and so is the STEP event of step 1 before a standing E-STOP is taken (log entry 11). -/
def Obligations.EvaluationTurnsTheFlight : Prop :=
  (∀ (p : Part) (d : Direction) (f : Flight) (v : Vessel), p.settings.flight = some f →
      (p.queueOf d).head? = some v →
      let fits := fun (vs : List Vessel) => vs.length ≤ f.convoyMaximum
        ∧ (vs.map (·.length)).sum + (vs.length - 1) * f.vesselGap ≤ f.usableLength ∧ p.passable vs = true
      let n := (p.formConvoy d).length
      0 < n ∧ n ≤ (p.queueOf d).length ∧ p.formConvoy d = (p.queueOf d).take n
        ∧ (∀ m, 1 < m → m ≤ n → fits ((p.queueOf d).take m))
        ∧ (n < (p.queueOf d).length → ¬ fits ((p.queueOf d).take (n + 1))))
    ∧ ∀ (s : State), s.part.turn.readiness = false → s.part.recompute.turn.readiness = true →
    let now := s.part.recompute
    let b := now.turn.pattern
    ∃ q, exec .turnEvaluate s = .next { s with part := q }
      ∧ (now.turnEntry.action = .hold → q = now)
      ∧ (now.turnEntry.action = .reject →
          q.turn.rejectHold = some b ∧ q.turn.readiness = false
            ∧ q.sent.a = s.part.sent.a ++ [.event (.turnRejected b)]
            ∧ q.link.conditions.turnRejected = some b ∧ q.mode = .rest)
      ∧ ∀ d, now.turnEntry.action = (match d with | .up => .up | .down => .down) →
          let n := s.part.turn.nextLockage
          let convoy := now.formConvoy d
          (∀ plan x, now.buildPlan d now.turnEntry.cls = some plan → plan[0]? = some x →
              q.turn.nextLockage = nextNumber n ∧ q.turn.pattern.lastUp = decide (d = .up)
                ∧ s.part.sent.a ++ [.event (.turn n d now.turnEntry.cls b (convoy.map (·.ticket)) now.clockNow plan.length),
                    .event (.step n 1 x s.part.clock)] <+: q.sent.a)
            ∧ (now.buildPlan d now.turnEntry.cls = none →
                q.turn.nextLockage = nextNumber n ∧ q.turn.planWait = true ∧ q.turn.pattern.lastUp = b.lastUp
                  ∧ q.mode = .rest ∧ q.lockage = s.part.lockage
                  ∧ q.sent.a = s.part.sent.a ++ [.event (.noPlan n d b (now.chamberState .c1) (now.chamberState .c2)
                      (now.chamberState .c3))])

/-- OPEN_STEP_EVALUATE takes R97's tests in their order for an OPEN step that waits: CLEARANCE while an exit of
class C has not been given its clearance; TIDE, reported once, while the convoy is not passable; then by the
compare: LEVEL with the interlock gives the gate its OPEN command (R24), which a gate already OPENING takes as it
travels and an OPEN gate completes at once, so that the next step becomes current; LEVEL without the interlock waits
in LEVEL; ABOVE or BELOW levels again through the gate's sluice; and UNORDERED waits in LEVEL and reports the sensor
fault of the compare's cause, naming the gate, which under CONTINUE is sent and noted once for the step and under HALT
halts the flight (R98, R99, R117, R119). An exit OPEN that is given its command has reached TRAVEL and keeps that
(R108). The row taken as a command of its own and the field that keeps it are the model's (log entries 6 and 19). -/
def Obligations.OpenStepTakesItsTests : Prop :=
  ∀ (s : State) (l : Lockage) (g : Gate) (ph : Phase), s.part.lockage = some l → s.part.mode = .working →
    s.part.curStep = some ⟨.openGate g, ph⟩ → (l.stage = .clearance ∨ l.stage = .tide ∨ l.stage = .level) →
    let held := ph = .exit ∧ l.cls = .c ∧ l.exit ≠ .given
    let dry := (ph = .entry ∨ ph = .exit ∨ ph = .returning) ∧ s.part.passable l.convoy = false
    ∃ q, exec .openStepEvaluate s = .next { s with part := q }
      ∧ (held → q = { s.part with lockage := some { l with stage := .clearance }, turn := q.turn }
          ∧ TurnIdle s.part.turn q.turn)
      ∧ (¬ held → dry →
          q.mode = .working ∧ q.gates = s.part.gates
            ∧ q.lockage = some { l with stage := .tide, tideReported := true
                                        tideWait := if l.tideReported then l.tideWait else true }
            ∧ q.sent.a = s.part.sent.a ++ (if l.tideReported then [] else [.event (.tideWait l.number l.current g
                (s.part.headProven l.convoy) (s.part.tailProven l.convoy))]))
      ∧ (¬ held → ¬ dry → s.part.compare g = .level → (s.part.gates.get g).state ≠ .open_ →
          (s.part.gates.get g).state ≠ .opening →
          if s.part.interlock g = true then
            q.lockage = some { l with stage := .travel, exitCommanded := l.exitCommanded || decide (ph = .exit) }
              ∧ q.gates = s.part.gates.set g { s.part.gates.get g with
                  state := .opening, drive := .openDrive, openPending := true, commander := .sequencer
                  travelTimer := s.part.settings.works.map fun w => 1000 * w.travelLimit.get g }
          else q.lockage = some { l with stage := .level } ∧ q.gates = s.part.gates)
      ∧ (¬ held → ¬ dry → s.part.compare g = .level → (s.part.gates.get g).state = .opening →
          q.mode = .working ∧ q.gates = s.part.gates ∧ q.sent = s.part.sent
            ∧ q.lockage = some { l with stage := .travel, exitCommanded := l.exitCommanded || decide (ph = .exit) })
      ∧ (∀ x, ¬ held → ¬ dry → s.part.compare g = .level → (s.part.gates.get g).state = .open_ →
          l.plan[l.current]? = some x →
          s.part.sent.a ++ [.event (.step l.number (l.current + 1) x s.part.clock)] <+: q.sent.a)
      ∧ (∀ c, ¬ held → ¬ dry → s.part.compare g = .unordered c →
          let kind : FaultKind := match c with
            | .broken => .sensorBroken
            | .stale => .sensorStale
            | .limited => .sensorLimited
          let waits := { s.part with lockage := some { l with stage := .level } }
          (s.part.responseOf kind = .continue_ → s.part.faults.reported.contains kind = true →
              q = { waits with turn := q.turn } ∧ TurnIdle s.part.turn q.turn)
            ∧ (s.part.responseOf kind = .continue_ → s.part.faults.reported.contains kind = false →
                q = { waits with
                    turn := q.turn
                    faults := { s.part.faults with reported := s.part.faults.reported ++ [kind] }
                    sent := { s.part.sent with a := s.part.sent.a ++ [.event (.fault kind (.gate g) .continue_
                      .working (some l.number) (some l.current) s.part.clock)] }
                    link := { s.part.link with conditions := { s.part.link.conditions with
                      fault := some { kind := kind, lockage := some l.number, index := some l.current
                                      halting := s.part.link.conditions.halting } } } }
                  ∧ TurnIdle s.part.turn q.turn)
            ∧ (s.part.responseOf kind = .halt → s.part.DrivesMatch → HaltedFrom waits q kind (.gate g)))
      ∧ (¬ held → ¬ dry → (s.part.compare g = .above ∨ s.part.compare g = .below) →
          (s.part.sluices.get g).transfer = none →
          q.lockage = some { l with stage := .levelling } ∧ q.gates = s.part.gates
            ∧ ∃ t, (q.sluices.get g).transfer = some t ∧ t.phase = .ramping ∧ t.lockage = l.number)

/-! ### Requests to the lockage sequencer (chapter 6) -/

/-- A clearance taken while HALTED is stored, with its reply, and nothing else: ENTRY_CLEAR, ENTRY_REFUSE before
entry has passed, EXIT_CLEAR, and EXIT_REFUSE before the exit has begun, which marks the lockage late once the
commitment has passed (R103, R104, R108, R111). The field that keeps how far the exit has gone is the model's (log
entry 19). -/
def Obligations.ClearancesAreStoredWhileHalted : Prop :=
  ∀ (tag : Tag) (s : State) (l : Lockage), s.part.mode = .halted → s.part.lockage = some l →
    let answers := fun (c : Instr) (x : Lockage) (w : Bool) =>
      ∃ q, exec c s = .next { s with part := q }
        ∧ q = { s.part with
            lockage := some x, turn := q.turn
            sent := (s.part.send .a (.accepted tag (some s.part.link.conditions.any)
              (.clearance x.number x.entry x.exit x.commitment x.late w false))).sent }
        ∧ TurnIdle s.part.turn q.turn
    ((l.entry = .awaited ∨ l.entry = .refused) →
        answers (.entryClear tag l.number) { l with entry := .given } false)
      ∧ ((l.entry = .awaited ∨ l.entry = .given) → l.entryPassed = false →
          answers (.entryRefuse tag l.number) { l with entry := .refused } false)
      ∧ ((l.exit = .awaited ∨ l.exit = .refused) → (∀ x ∈ l.plan, x.phase ≠ .returning) →
          answers (.exitClear tag l.number) { l with exit := .given } false)
      ∧ ((l.exit = .awaited ∨ l.exit = .given) → (∀ x ∈ l.plan, x.phase ≠ .returning) → l.exitBegun = false →
          answers (.exitRefuse tag l.number)
            { l with exit := .refused, late := if l.commitment = some .passed then true else l.late } false)

/-- In WORKING an entry clearance given to an entry move in AWAITING sends it UNDER_WAY with its timer, and its face
shows PROCEED through the open gate, which ends the convoy's return; a refusal before that withdraws the lockage
(R100, R103 to R105). NAV-INHIBIT is assumed for the refusal so that no turn follows in the same moment. -/
def Obligations.EntryClearanceActsAtOnce : Prop :=
  ∀ (tag : Tag) (s : State) (l : Lockage), s.part.mode = .working → s.part.lockage = some l →
    (∀ g d, (l.entry = .awaited ∨ l.entry = .refused) → l.stage = .awaiting →
        s.part.curStep = some ⟨.move g d, .entry⟩ → (s.part.gates.get g).state = .open_ →
        s.part.hasFailedLamp (faceServing g d) = false → (faceOf s.part.faces (faceServing g d)).awaited = false →
        ∃ q, exec (.entryClear tag l.number) s = .next { s with part := q }
          ∧ q.lockage = some { l with
              entry := .given, stage := .underWay, entryPassed := true
              moveTimer := s.part.settings.works.map fun w => 1000 * w.moveLimit }
          ∧ (faceOf q.faces (faceServing g d)).shown = .proceed
          ∧ q.sent = (s.part.send .a (.accepted tag (some s.part.link.conditions.any)
              (.clearance l.number .given l.exit l.commitment l.late false false))).sent)
      ∧ ((l.entry = .awaited ∨ l.entry = .given) → l.entryPassed = false → s.part.navInhibit = true →
          ∃ q, exec (.entryRefuse tag l.number) s = .next { s with part := q }
            ∧ q.mode = .rest ∧ q.lockage = none
            ∧ q.queueOf l.direction = mergeConvoy l.convoy (s.part.queueOf l.direction)
            ∧ q.queueOf l.direction.opposite = s.part.queueOf l.direction.opposite
            ∧ s.part.sent.a ++ [.accepted tag (some s.part.link.conditions.any)
                (.clearance l.number .refused l.exit l.commitment l.late true false)] <+: q.sent.a)

/-- In WORKING an exit clearance given at the COMMIT step ends it, and one refused there turns the convoy back: the
step after becomes current, in the second case the OPEN of the entry gate in phase RETURN. A clearance given at an
exit OPEN in CLEARANCE has the step take its tests again: it waits in TIDE while the convoy is not passable, or its
gate is commanded open over LEVEL water; one given at any other step, or at an OPEN that waits for no test, is stored.
A refusal after the commitment has passed, the exit OPEN not yet in TRAVEL, is late: it marks the lockage so and
nothing more, at a carrying TRANSFER; it puts an exit OPEN in TIDE or LEVEL back into CLEARANCE and leaves one in
LEVELLING. One before COMMIT is current is stored for it, at an OPEN that waits for no test too (R97, R98, R107 to
R109). A refusal once the exit OPEN has been in TRAVEL is RefusedClearancesChangeNothing's. That a reply shows the
commitment as stored, before the step it brings, and the field that keeps how far the exit has gone are the model's
(log entries 10 and 19). -/
def Obligations.ExitClearanceActsAtOnce : Prop :=
  ∀ (tag : Tag) (s : State) (l : Lockage), s.part.mode = .working → s.part.lockage = some l →
    (∀ x ∈ l.plan, x.phase ≠ .returning) →
    let reply := fun (e : Clearance) (late back : Bool) =>
      Msg.accepted tag (some s.part.link.conditions.any)
        (.clearance l.number l.entry e l.commitment late false back)
    let stored := fun (q : Part) (x : Lockage) => q = { s.part with
        lockage := some x, turn := q.turn, sent := (s.part.send .a (reply x.exit x.late false)).sent }
      ∧ TurnIdle s.part.turn q.turn
    let given := l.exit = .awaited ∨ l.exit = .refused
    let settled := fun (x : PlanStep) => ∀ g, x.work = .openGate g →
      l.stage ≠ .clearance ∧ l.stage ≠ .tide ∧ l.stage ≠ .level
    let refuses := l.exit ≠ .notNeeded ∧ l.exit ≠ .refused ∧ l.exitCommanded = false
    (∀ x, l.plan[l.current - 1]? = some ⟨.commit, .commit⟩ → l.plan[l.current]? = some x → given →
        ∃ q, exec (.exitClear tag l.number) s = .next { s with part := q }
          ∧ s.part.sent.a ++ [reply .given l.late false, .event (.step l.number (l.current + 1) x s.part.clock)]
              <+: q.sent.a)
      ∧ (∀ x, s.part.curStep = some x → x.work ≠ .commit → settled x → given →
          ∃ q, exec (.exitClear tag l.number) s = .next { s with part := q } ∧ stored q { l with exit := .given })
      ∧ (∀ g, s.part.curStep = some ⟨.openGate g, .exit⟩ → l.stage = .clearance → given →
          ∃ q, exec (.exitClear tag l.number) s = .next { s with part := q }
            ∧ (s.part.passable l.convoy = false →
                q.mode = .working ∧ q.gates = s.part.gates
                  ∧ q.lockage = some { l with exit := .given, stage := .tide, tideReported := true
                                              tideWait := if l.tideReported then l.tideWait else true }
                  ∧ q.sent.a = s.part.sent.a ++ reply .given l.late false ::
                      (if l.tideReported then [] else [.event (.tideWait l.number l.current g
                        (s.part.headProven l.convoy) (s.part.tailProven l.convoy))]))
            ∧ (s.part.passable l.convoy = true → s.part.compare g = .level → s.part.interlock g = true →
                (s.part.gates.get g).state ≠ .open_ → (s.part.gates.get g).state ≠ .opening →
                q.mode = .working
                  ∧ q.lockage = some { l with exit := .given, stage := .travel, exitCommanded := true }
                  ∧ q.gates = s.part.gates.set g { s.part.gates.get g with
                      state := .opening, drive := .openDrive, openPending := true, commander := .sequencer
                      travelTimer := s.part.settings.works.map fun w => 1000 * w.travelLimit.get g }
                  ∧ q.sent = (s.part.send .a (reply .given l.late false)).sent))
      ∧ (l.plan[l.current - 1]? = some ⟨.commit, .commit⟩ → l.current ≤ l.plan.length → 0 < l.current →
          refuses → l.commitment = some .open_ →
          ∃ q, exec (.exitRefuse tag l.number) s = .next { s with part := q }
            ∧ s.part.sent.a ++ [reply .refused l.late true,
                .event (.step l.number (l.current + 1) ⟨.openGate l.direction.entryGate, .returning⟩ s.part.clock)]
                <+: q.sent.a)
      ∧ (∀ k, l.plan[l.current - 1]? = some ⟨.transfer k, .carrying⟩ → refuses → l.commitment = some .passed →
          ∃ q, exec (.exitRefuse tag l.number) s = .next { s with part := q }
            ∧ stored q { l with exit := .refused, late := true })
      ∧ (∀ g, s.part.curStep = some ⟨.openGate g, .exit⟩ → l.cls = .c → refuses → l.commitment = some .passed →
          (l.stage = .clearance ∨ l.stage = .tide ∨ l.stage = .level ∨ l.stage = .levelling) →
          ∃ q, exec (.exitRefuse tag l.number) s = .next { s with part := q }
            ∧ stored q { l with exit := .refused, late := true
                                stage := if l.stage = .levelling then .levelling else .clearance })
      ∧ (∀ x, s.part.curStep = some x → x.work ≠ .commit → settled x → x.phase ≠ .exit →
          refuses → l.commitment = some .open_ →
          ∃ q, exec (.exitRefuse tag l.number) s = .next { s with part := q }
            ∧ stored q { l with exit := .refused })

/-- A clearance or MOVE_DONE that names no current lockage is refused NOT_CURRENT, a clearance its class does not
need NOT_NEEDED, one that comes too late TOO_LATE, and a MOVE_DONE for another step or a move in AWAITING
NOT_CURRENT; and the refusal is all that happens (R101, R103, R104, R108). An EXIT_REFUSE is too late once the exit
OPEN has reached TRAVEL, now or before a halt after which it waits again, and in every later step; the field that
keeps the first is the model's (log entry 19). -/
def Obligations.RefusedClearancesChangeNothing : Prop :=
  ∀ (tag : Tag) (s : State) (n i : Nat),
    let refused := fun (c : Instr) (x : Reason) => exec c s = .next { s with part := s.part.refuse .a tag x }
    ((∀ l, s.part.lockage = some l → l.number ≠ n) →
        refused (.entryClear tag n) .notCurrent ∧ refused (.entryRefuse tag n) .notCurrent
          ∧ refused (.exitClear tag n) .notCurrent ∧ refused (.exitRefuse tag n) .notCurrent
          ∧ refused (.moveDone tag n i) .notCurrent)
      ∧ ∀ l, s.part.lockage = some l → l.number = n →
          (l.entry = .notNeeded → refused (.entryClear tag n) .notNeeded ∧ refused (.entryRefuse tag n) .notNeeded)
            ∧ (l.exit = .notNeeded → refused (.exitClear tag n) .notNeeded ∧ refused (.exitRefuse tag n) .notNeeded)
            ∧ (l.entry ≠ .notNeeded → l.entryPassed = true → refused (.entryRefuse tag n) .tooLate)
            ∧ (l.exit ≠ .notNeeded → (∃ x ∈ l.plan, x.phase = .returning) → refused (.exitClear tag n) .tooLate)
            ∧ (l.exit ≠ .notNeeded → (∀ x ∈ l.plan, x.phase ≠ .returning) →
                (l.exitCommanded = true
                  ∨ ∃ w, l.plan[l.current - 1]? = some ⟨w, .exit⟩ ∧ ((∃ g, w = .openGate g) → l.stage = .travel)) →
                refused (.exitRefuse tag n) .tooLate)
            ∧ (i ≠ l.current → refused (.moveDone tag n i) .notCurrent)
            ∧ (l.stage = .awaiting → refused (.moveDone tag n i) .notCurrent)

/-- MOVE_DONE for the move in hand ends it in WORKING: its reply, then the STEP event of the step after; while
HALTED it is recorded for RESUME and nothing else happens (R100, R101). -/
def Obligations.MoveDoneEndsTheMove : Prop :=
  ∀ (tag : Tag) (s : State) (l : Lockage) (g : Gate) (d : Direction) (ph : Phase), s.part.lockage = some l →
    s.part.curStep = some ⟨.move g d, ph⟩ → l.stage ≠ .awaiting →
    let reply := Msg.accepted tag (some s.part.link.conditions.any) .nothing
    (∀ x, s.part.mode = .working → l.plan[l.current]? = some x →
        ∃ q, exec (.moveDone tag l.number l.current) s = .next { s with part := q }
          ∧ s.part.sent.a ++ [reply, .event (.step l.number (l.current + 1) x s.part.clock)] <+: q.sent.a)
      ∧ (s.part.mode = .halted → exec (.moveDone tag l.number l.current) s = .next { s with part := { s.part with
          lockage := some { l with moveDone := true }, sent := (s.part.send .a reply).sent } })

/-! ### Halt and recovery (chapter 7), START and the survey (chapter 10) -/

/-- HALT is taken in every mode, its reply first: it halts a flight that runs a lockage or a survey, changes nothing
while HALTED, and in REST and STARTUP stops every travelling gate (R116, R119, R122). The reply's mark is that of
the moment before the halt, and a stopped gate keeps its open pending: the model's readings (log entries 10 and
14). -/
def Obligations.HaltRequestActsByTheMode : Prop :=
  ∀ (tag : Tag) (s : State),
    let reply := fun (m : Mode) (made : Bool) => Msg.accepted tag (some s.part.link.conditions.any) (.halt m made)
    (s.part.mode = .halted →
        exec (.halt tag) s = .next { s with part := s.part.send .a (reply .halted false) })
      ∧ ((s.part.mode = .working ∨ s.part.mode = .survey) → s.part.DrivesMatch →
          ∃ q, exec (.halt tag) s = .next { s with part := q }
            ∧ HaltedFrom (s.part.send .a (reply .halted true)) q .operatorHalt .flight)
      ∧ ((s.part.mode = .startup ∨ (s.part.mode = .rest ∧ s.part.navInhibit = true)) →
          ∃ q, exec (.halt tag) s = .next { s with part := q } ∧ q.mode = s.part.mode
            ∧ q.sent.a = s.part.sent.a ++ [reply s.part.mode false,
                .event (.fault .operatorHalt .flight .none s.part.mode s.part.lockageNumber s.part.stepIndex
                  s.part.clock)]
            ∧ ∀ g, q.gates.get g =
                if (s.part.gates.get g).state = .opening ∨ (s.part.gates.get g).state = .closing then
                  { s.part.gates.get g with state := .stopped, drive := .off, travelTimer := none }
                else s.part.gates.get g)

/-- RESUME is refused NOT_CURRENT unless HALTED, and STILL_FAULTED while E-STOP is asserted, a gate has both its
limits, or the halted TRANSFER or OPEN needs a BROKEN reach (R123). Otherwise a survey halt goes back to SURVEY with
its work given again (R126), and a lockage halted at a CLOSE step works on: the reply, the MODE event, then the
step's own STEP event, with the gate given CLOSE by the sequencer (R124). With the faces at STOP, as the halt left
them, an entry refused before it passed withdraws the lockage (R111); and by R124's table a TRANSFER takes over its
own transfer in CLOSING with a fresh timer or starts a new one; an OPEN halted in LEVELLING takes its re-level as a
TRANSFER, which over LEVEL water closes its sluice and at 0 ends at once as a draw, and then, as any other OPEN,
takes its tests and has its gate opened, or waits for depth, an exit's as one that had been commanded if it had (R97,
R98, R108); a MOVE ends if it was done, gives way to its OPEN if its gate is not OPEN,
waits for its clearance again or is withdrawn while the link is lost (R106), and otherwise shows PROCEED with a
fresh timer; a COMMIT starts its window afresh, ends, or returns (R107, R109). The reply's mark and the restart of
an OPEN and of a MOVE are the model's readings (log entries 10 and 18). -/
def Obligations.ResumeTakesUpTheWork : Prop :=
  ∀ (tag : Tag) (s : State),
    let refused := fun (x : Reason) => exec (.resume tag) s = .next { s with part := s.part.refuse .a tag x }
    let accepted := fun (m : Mode) => Msg.accepted tag (some s.part.link.conditions.any) (.resume m)
    let broken := fun (g : Gate) => (s.part.reaches.get g.above).cls = .broken ∨ (s.part.reaches.get g.below).cls = .broken
    let faulted := s.part.eStop = true
      ∨ (∃ g, (s.part.gates.get g).atClosed = true ∧ (s.part.gates.get g).atOpen = true)
      ∨ ∃ g ph, (s.part.curStep = some ⟨.transfer g, ph⟩ ∨ s.part.curStep = some ⟨.openGate g, ph⟩) ∧ broken g
    (s.part.mode ≠ .halted → refused .notCurrent)
      ∧ (s.part.mode = .halted → faulted → refused .stillFaulted)
      ∧ (s.part.mode = .halted → ¬ faulted → s.part.lockage = none →
          (∃ r, (s.part.reaches.get r).cls.ordered = false) →
          ∃ q, exec (.resume tag) s = .next { s with part := q }
            ∧ q.mode = .survey ∧ q.faults = { halt := none, reported := [] }
            ∧ q.sent.a = s.part.sent.a ++ [accepted .survey, .event (.mode .survey none)]
            ∧ (∀ g, (s.part.gates.get g).state ≠ .closed → (s.part.gates.get g).state ≠ .open_ →
                (q.gates.get g).state = .closing ∧ (q.gates.get g).commander = .survey)
            ∧ ∀ k, 0 < (s.part.sluices.get k).position → (q.sluices.get k).state = .closing)
      ∧ (∀ l g ph, s.part.mode = .halted → ¬ faulted → s.part.lockage = some l →
          l.plan[l.current - 1]? = some ⟨.close g, ph⟩ → (s.part.gates.get g).state ≠ .closed →
          (l.entry = .refused → l.entryPassed = true) →
          ∃ q, exec (.resume tag) s = .next { s with part := q }
            ∧ q.mode = .working ∧ q.faults = { halt := none, reported := [] }
            ∧ q.lockage = some { l with stage := .travel, tideReported := false, moveDone := false }
            ∧ q.sent.a = s.part.sent.a ++ [accepted .working, .event (.mode .working none),
                .event (.step l.number l.current ⟨.close g, ph⟩ s.part.clock)]
            ∧ (q.gates.get g).state = .closing ∧ (q.gates.get g).commander = .sequencer
            ∧ (l.entryPassed = false → (faceOf q.faces l.direction.entryFace).requested = .ready))
      ∧ ∀ l x, s.part.mode = .halted → ¬ faulted → s.part.lockage = some l → s.part.curStep = some x →
          (∀ f, (faceOf s.part.faces f).requested = .stop) →
          let step := fun (i : Nat) (y : PlanStep) => Msg.event (.step l.number i y s.part.clock)
          let mode := Msg.event (.mode .working none)
          let again := { l with tideReported := false, moveDone := false }
          let works := s.part.settings.works
          let withdrawn := fun (q : Part) => q.mode = .rest ∧ q.lockage = none
            ∧ q.queueOf l.direction = mergeConvoy l.convoy (s.part.queueOf l.direction)
            ∧ s.part.sent.a ++ [accepted .rest, mode] <+: q.sent.a
            ∧ .event (.ending l.number .withdrawn l.headDraws l.tideWait l.late none (l.convoy.map (·.ticket)) true)
                ∈ q.sent.a
          let goesOn := fun (q : Part) => q.mode = .working ∧ q.faults = { halt := none, reported := [] }
            ∧ q.sent.a = s.part.sent.a ++ [accepted .working, mode, step l.current x]
          (l.entry = .refused → l.entryPassed = false → s.part.navInhibit = true →
              ∃ q, exec (.resume tag) s = .next { s with part := q } ∧ withdrawn q)
            ∧ ((l.entry = .refused → l.entryPassed = true) →
              (∀ k t, x.work = .transfer k → (s.part.sluices.get k).transfer = some t → t.phase = .closing →
                  t.lockage = l.number → (s.part.sluices.get k).state = .closing → 0 < (s.part.sluices.get k).position →
                  ∃ q, exec (.resume tag) s = .next { s with part := q } ∧ goesOn q
                    ∧ q.sluices.get k = { s.part.sluices.get k with
                        transfer := some { t with timer := works.map fun w => 1000 * w.transferLimit.get k } }
                    ∧ q.lockage = some { again with
                        stage := .running
                        commitment := if x.phase = .carrying ∧ l.cls = .c then some .passed else l.commitment })
              ∧ (∀ k, x.work = .transfer k → (s.part.sluices.get k).transfer = none →
                  (s.part.compare k = .above ∨ s.part.compare k = .below) →
                  ∃ q, exec (.resume tag) s = .next { s with part := q } ∧ goesOn q
                    ∧ (q.sluices.get k).trim = 0
                    ∧ (q.sluices.get k).transfer = some { phase := .ramping, lockage := l.number
                                                          timer := works.map fun w => 1000 * w.transferLimit.get k }
                    ∧ ∀ y, (s.part.sluices.get k).step = some y → (q.sluices.get k).step = some y)
              ∧ (∀ g t, x.work = .openGate g → l.stage = .levelling → (s.part.sluices.get g).transfer = some t →
                  t.phase = .closing → t.lockage = l.number → 0 < (s.part.sluices.get g).position →
                  ∃ q, exec (.resume tag) s = .next { s with part := q } ∧ goesOn q
                    ∧ q.lockage = some { again with stage := .levelling }
                    ∧ (q.sluices.get g).transfer =
                        some { t with timer := works.map fun w => 1000 * w.transferLimit.get g })
              ∧ (∀ g, x.work = .openGate g → l.stage = .levelling → (s.part.sluices.get g).transfer = none →
                  (s.part.compare g = .above ∨ s.part.compare g = .below) →
                  ∃ q, exec (.resume tag) s = .next { s with part := q } ∧ goesOn q
                    ∧ q.lockage = some { again with stage := .levelling }
                    ∧ (q.sluices.get g).trim = 0
                    ∧ (q.sluices.get g).transfer = some { phase := .ramping, lockage := l.number
                                                          timer := works.map fun w => 1000 * w.transferLimit.get g }
                    ∧ ∀ y, (s.part.sluices.get g).step = some y → (q.sluices.get g).step = some y)
              ∧ (∀ g, x.work = .openGate g → l.stage = .levelling → (s.part.sluices.get g).transfer = none →
                  s.part.compare g = .level → 0 < (s.part.sluices.get g).position →
                  ∃ q, exec (.resume tag) s = .next { s with part := q } ∧ goesOn q
                    ∧ q.lockage = some { again with stage := .levelling }
                    ∧ (q.sluices.get g).trim = 0 ∧ (q.sluices.get g).state = .closing
                    ∧ (q.sluices.get g).transfer = some { phase := .closing, lockage := l.number
                                                          timer := works.map fun w => 1000 * w.transferLimit.get g })
              ∧ (∀ g, x.work = .openGate g → (s.part.sluices.get g).transfer = none →
                  (l.stage = .levelling → (s.part.sluices.get g).position = 0 ∧ (s.part.sluices.get g).step = none) →
                  (x.phase = .exit → l.cls = .c → l.exit = .given) →
                  (x.phase = .entry ∨ x.phase = .exit ∨ x.phase = .returning → s.part.passable l.convoy = true) →
                  s.part.compare g = .level → s.part.interlock g = true →
                  ((s.part.gates.get g).state = .stopped ∨ (s.part.gates.get g).state = .closed) →
                  ∃ q, exec (.resume tag) s = .next { s with part := q } ∧ goesOn q
                    ∧ q.lockage = some { again with
                        stage := .travel, exitCommanded := l.exitCommanded || decide (x.phase = .exit)
                        headDraws := if l.stage = .levelling ∧ g = .g0 then min 255 (l.headDraws + 1)
                          else l.headDraws }
                    ∧ q.gates.get g = { s.part.gates.get g with
                        state := .opening, drive := .openDrive, openPending := true, commander := .sequencer
                        travelTimer := works.map fun w => 1000 * w.travelLimit.get g })
              ∧ (∀ g, x.work = .openGate g → l.stage ≠ .levelling → (x.phase = .exit → l.cls = .c → l.exit = .given) →
                  (x.phase = .entry ∨ x.phase = .exit ∨ x.phase = .returning) → s.part.passable l.convoy = false →
                  ∃ q, exec (.resume tag) s = .next { s with part := q }
                    ∧ q.mode = .working ∧ q.gates = s.part.gates
                    ∧ q.lockage = some { again with stage := .tide, tideWait := true, tideReported := true }
                    ∧ q.sent.a = s.part.sent.a ++ [accepted .working, mode, step l.current x,
                        .event (.tideWait l.number l.current g (s.part.headProven l.convoy)
                          (s.part.tailProven l.convoy))])
              ∧ (∀ g d y, x.work = .move g d → l.moveDone = true → l.plan[l.current]? = some y →
                  ∃ q, exec (.resume tag) s = .next { s with part := q }
                    ∧ s.part.sent.a ++ [accepted q.mode, mode, step l.current x, step (l.current + 1) y] <+: q.sent.a)
              ∧ (∀ g d y, x.work = .move g d → l.moveDone = false → (s.part.gates.get g).state ≠ .open_ →
                  2 ≤ l.current → l.plan[l.current - 2]? = some y →
                  ∃ q, exec (.resume tag) s = .next { s with part := q }
                    ∧ s.part.sent.a ++ [accepted q.mode, mode, step (l.current - 1) y] <+: q.sent.a)
              ∧ (∀ g d, x.work = .move g d → l.moveDone = false → (s.part.gates.get g).state = .open_ →
                  (x.phase = .entry → l.entry = .awaited →
                      ∃ q, exec (.resume tag) s = .next { s with part := q }
                        ∧ if s.part.link.lost then withdrawn q
                          else goesOn q ∧ q.lockage = some { again with stage := .awaiting })
                    ∧ ((x.phase = .entry → l.entry ≠ .awaited) → s.part.hasFailedLamp (faceServing g d) = false →
                      (faceOf s.part.faces (faceServing g d)).awaited = false →
                      ∃ q, exec (.resume tag) s = .next { s with part := q } ∧ goesOn q
                        ∧ (faceOf q.faces (faceServing g d)).shown = .proceed
                        ∧ q.lockage = some { again with
                            stage := .underWay, moveTimer := works.map fun w => 1000 * w.moveLimit
                            entryPassed := if x.phase = .entry then true else l.entryPassed }))
              ∧ (∀ y, x.work = .commit → l.exit = .given → l.plan[l.current]? = some y →
                  ∃ q, exec (.resume tag) s = .next { s with part := q }
                    ∧ s.part.sent.a ++ [accepted q.mode, mode, step l.current x, step (l.current + 1) y] <+: q.sent.a)
              ∧ (x.work = .commit → l.exit = .refused →
                  ∃ q, exec (.resume tag) s = .next { s with part := q }
                    ∧ s.part.sent.a ++ [accepted q.mode, mode, step l.current x,
                        step (l.current + 1) ⟨.openGate l.direction.entryGate, .returning⟩] <+: q.sent.a)
              ∧ (x.work = .commit → l.exit ≠ .given → l.exit ≠ .refused →
                  ∃ q, exec (.resume tag) s = .next { s with part := q } ∧ goesOn q
                    ∧ q.lockage = some { again with
                        stage := .waiting
                        windowTimer := works.bind fun w => if w.window = 0 then none else some (1000 * w.window) }))

/-- ABANDON is refused NOT_CURRENT unless HALTED. It ends a halted lockage ABANDONED and leaves the flight at REST:
a convoy that has not entered goes back to the head of its queue and the entry gate is closed; one that has is
dropped with a record of 0 (R125, R140). A survey halt goes back to SURVEY (R126). NAV-INHIBIT is assumed for the
first so that no turn follows in the same moment. That the entry gate is closed while E-STOP is asserted too is the
model's reading (log entry 31). -/
def Obligations.AbandonEndsTheHalt : Prop :=
  ∀ (tag : Tag) (s : State),
    let reply := Msg.accepted tag (some s.part.link.conditions.any) .nothing
    (s.part.mode ≠ .halted → exec (.abandon tag) s = .next { s with part := s.part.refuse .a tag .notCurrent })
      ∧ (∀ l, s.part.mode = .halted → s.part.lockage = some l → s.part.navInhibit = true →
          ∃ q, exec (.abandon tag) s = .next { s with part := q }
            ∧ q.mode = .rest ∧ q.lockage = none ∧ q.faults = { halt := none, reported := [] }
            ∧ s.part.sent.a ++ [reply] <+: q.sent.a
            ∧ .event (.ending l.number .abandoned l.headDraws l.tideWait l.late
                (if l.entryPassed then some s.part.outlets.nextSequence else none) (l.convoy.map (·.ticket))
                (!l.entryPassed)) ∈ q.sent.a
            ∧ .event (.mode .rest none) ∈ q.sent.a
            ∧ (l.entryPassed = false →
                q.queueOf l.direction = mergeConvoy l.convoy (s.part.queueOf l.direction)
                  ∧ ((s.part.gates.get l.direction.entryGate).state ≠ .closed →
                      (q.gates.get l.direction.entryGate).state = .closing))
            ∧ (l.entryPassed = true → q.queueOf l.direction = s.part.queueOf l.direction
                ∧ (∀ g, (q.gates.get g).state = (s.part.gates.get g).state)
                ∧ ∃ r : LockageRecord, r.number = l.number ∧ r.outcome = .abandoned ∧ r.total = 0
                    ∧ ∀ x, (s.part.outlets.outlets.get x).enabled = true →
                        (s.part.outlets.outlets.get x).queue ++ [⟨s.part.outlets.nextSequence, .lockage r⟩]
                          <+: (q.outlets.outlets.get x).queue))
      ∧ (s.part.mode = .halted → s.part.lockage = none → s.part.eStop = false →
          (∃ r, (s.part.reaches.get r).cls.ordered = false) →
          ∃ q, exec (.abandon tag) s = .next { s with part := q }
            ∧ q.mode = .survey ∧ q.faults = { halt := none, reported := [] }
            ∧ q.sent.a = s.part.sent.a ++ [reply, .event (.mode .survey none)])

/-- START is refused NOT_CURRENT outside STARTUP and SETUP_INCOMPLETE, with what is missing, while a group or the
clock is UNSET; accepted, it begins the survey, which closes every gate at no limit and every sluice above 0 (R162,
R169, R170). The survey ends, with its MODE event, at the first test that finds every reach ordered, every gate at a
limit and every sluice CLOSED at 0 (R171), and no kind stays reported (R113). E-STOP is negated and, at the end,
NAV-INHIBIT asserted, so that neither a halt nor a turn follows in the same moment. SURVEY_END as a command of its
own is the model's reading (log entry 6). -/
def Obligations.StartBeginsAndReadingsEndTheSurvey : Prop :=
  ∀ (tag : Tag) (s : State),
    let done := (∀ r, (s.part.reaches.get r).cls.ordered = true)
      ∧ (∀ g, (s.part.gates.get g).state = .closed ∨ (s.part.gates.get g).state = .open_)
      ∧ ∀ k, (s.part.sluices.get k).state = .closed ∧ (s.part.sluices.get k).position = 0
    (s.part.mode ≠ .startup → exec (.start tag) s = .next { s with part := s.part.refuse .a tag .notCurrent })
      ∧ (s.part.mode = .startup →
          (s.part.settings.flight = none ∨ (∃ r, s.part.settings.reach.get r = none) ∨ s.part.settings.works = none
            ∨ s.part.settings.tariff = none ∨ s.part.settings.turns = none ∨ s.part.settings.outlets = none
            ∨ s.part.settings.responses = none ∨ s.part.clock = none) →
          ∃ ms, exec (.start tag) s = .next { s with part := s.part.refuse .a tag (.setupIncomplete ms) }
            ∧ (Missing.flight ∈ ms ↔ s.part.settings.flight = none)
            ∧ (∀ r, Missing.reach r ∈ ms ↔ s.part.settings.reach.get r = none)
            ∧ (Missing.works ∈ ms ↔ s.part.settings.works = none)
            ∧ (Missing.tariff ∈ ms ↔ s.part.settings.tariff = none)
            ∧ (Missing.turns ∈ ms ↔ s.part.settings.turns = none)
            ∧ (Missing.outlets ∈ ms ↔ s.part.settings.outlets = none)
            ∧ (Missing.responses ∈ ms ↔ s.part.settings.responses = none)
            ∧ (Missing.clock ∈ ms ↔ s.part.clock = none))
      ∧ (s.part.mode = .startup → s.part.complete = true → s.part.eStop = false →
          (∃ r, (s.part.reaches.get r).cls.ordered = false) →
          ∃ q, exec (.start tag) s = .next { s with part := q }
            ∧ q.mode = .survey ∧ q.faults.reported = []
            ∧ q.sent.a = s.part.sent.a ++ [.accepted tag (some s.part.link.conditions.any) .nothing,
                .event (.mode .survey none)]
            ∧ (∀ g, (s.part.gates.get g).state ≠ .closed → (s.part.gates.get g).state ≠ .open_ →
                (q.gates.get g).state = .closing ∧ (q.gates.get g).commander = .survey)
            ∧ ∀ k, 0 < (s.part.sluices.get k).position → (q.sluices.get k).state = .closing)
      ∧ (s.part.mode = .survey → s.part.navInhibit = true →
          ∃ q, exec .surveyEnd s = .next { s with part := q }
            ∧ (done → q.mode = .rest ∧ q.sent.a = s.part.sent.a ++ [.event (.mode .rest none)]
                ∧ q.faults = { s.part.faults with reported := [] }
                ∧ ∀ f, f.isApproach = true → (faceOf s.part.faces f).requested = .stop →
                    (faceOf q.faces f).shown = .stop)
            ∧ (¬ done → q = { s.part with turn := q.turn } ∧ TurnIdle s.part.turn q.turn))

/-! ### The vessel queues (chapter 3) -/

/-- A REGISTER that passes R49's tests takes its place behind the last priority record or at the tail, with its
length raised to 50 dm and a CASH account dropped, both marked in the reply; it is given a ticket of 1..65,535 that
no record in use holds, and the counter moves on; the other queue and the convoy stand (R47, R48, R50); and the
calls follow from the head vessels (R53, R54). At REST NAV-INHIBIT is assumed so that no turn follows in the same
moment. -/
def Obligations.RegisterPlacesTheVessel : Prop :=
  ∀ (tag : Tag) (v : RegisterRequest) (s : State) (d : Direction) (c : VesselClass) (k : AccountKind),
    (s.part.mode = .working ∨ s.part.mode = .halted ∨ (s.part.mode = .rest ∧ s.part.navInhibit = true)) →
    s.part.hullInUse v.hull = false →
    (s.part.queueOf d).length + s.part.reserved d < 12 → Direction.ofCode v.direction = some d →
    VesselClass.ofCode v.cls = some c → AccountKind.ofCode v.accountKind = some k → hullOk v.hull = true →
    300 ≤ v.draught → v.draught ≤ 5000 → accountOk k v.accountNumber = true →
    max 50 v.length ≤ s.part.usableLength →
    ∃ (q : Part) (x : Vessel), exec (.register tag v) s = .next { s with part := q }
      ∧ x = { ticket := x.ticket, hull := v.hull, direction := d, cls := c, length := max 50 v.length
              draught := v.draught, laden := v.laden, accountKind := k
              accountNumber := if k = .cash then none else v.accountNumber
              priority := v.priority, registered := s.part.clockNow }
      ∧ (assignable s.part.nextTicket → s.part.registered.length < 65535 →
          assignable x.ticket ∧ ∀ y ∈ s.part.registered, y.ticket ≠ x.ticket)
      ∧ (assignable s.part.nextTicket → (∀ y ∈ s.part.registered, y.ticket ≠ s.part.nextTicket) →
          x.ticket = s.part.nextTicket)
      ∧ q.nextTicket = (if x.ticket < 65535 then x.ticket + 1 else 1)
      ∧ q.queueOf d = (if v.priority then
            (s.part.queueOf d).takeWhile (·.priority) ++ x :: (s.part.queueOf d).dropWhile (·.priority)
          else s.part.queueOf d ++ [x])
      ∧ q.queueOf d.opposite = s.part.queueOf d.opposite ∧ q.lockage = s.part.lockage ∧ q.CallsDerived
      ∧ q.sent = (s.part.send .a (.accepted tag (some s.part.link.conditions.any) (.register x.ticket
          (if v.priority then ((s.part.queueOf d).takeWhile (·.priority)).length + 1
            else (s.part.queueOf d).length + 1)
          x.length (decide (v.length < 50)) (decide (k = .cash) && v.accountNumber.isSome)))).sent

/-- A REGISTER is refused for the first of these, and the refusal is all that happens: STARTUP or SURVEY; its hull
mark in use; its queue full; a field outside what R49 allows; a length above the usable length (R49, R51). -/
def Obligations.RegisterRefusalsInOrder : Prop :=
  ∀ (tag : Tag) (v : RegisterRequest) (s : State),
    let refused := fun (x : Reason) => exec (.register tag v) s = .next { s with part := s.part.refuse .a tag x }
    let full := ∃ d, Direction.ofCode v.direction = some d ∧ 12 ≤ (s.part.queueOf d).length + s.part.reserved d
    let valid := hullOk v.hull = true ∧ v.direction ≤ 1 ∧ v.cls ≤ 7 ∧ 300 ≤ v.draught ∧ v.draught ≤ 5000
      ∧ ∃ k, AccountKind.ofCode v.accountKind = some k ∧ accountOk k v.accountNumber = true
    let taken := s.part.mode = .rest ∨ s.part.mode = .working ∨ s.part.mode = .halted
    (¬ taken → refused .notInService)
      ∧ (taken → s.part.hullInUse v.hull = true → refused .duplicate)
      ∧ (taken → s.part.hullInUse v.hull = false → full → refused .queueFull)
      ∧ (taken → s.part.hullInUse v.hull = false → ¬ full → ¬ valid → refused .badValue)
      ∧ (taken → s.part.hullInUse v.hull = false → ¬ full → valid → s.part.usableLength < max 50 v.length →
          refused .tooLong)

/-- CANCEL of a ticket in the convoy is refused IN_LOCKAGE, of one in neither queue NO_SUCH_TICKET; otherwise the
record leaves its queue, the rest keep their order, the reply carries its hull mark, direction and position (R52),
and the calls follow from the head vessels (R53, R54), in every mode; in REST and SURVEY NAV-INHIBIT is assumed so
that no turn follows in the same moment, and in SURVEY the survey's own end may follow the reply. -/
def Obligations.CancelRemovesTheRecord : Prop :=
  ∀ (tag : Tag) (ticket : Nat) (s : State),
    let refused := fun (x : Reason) => exec (.cancel tag ticket) s = .next { s with part := s.part.refuse .a tag x }
    ((∃ v ∈ s.part.convoy, v.ticket = ticket) → refused .inLockage)
      ∧ ((∀ v ∈ s.part.registered, v.ticket ≠ ticket) → refused .noSuchTicket)
      ∧ ∀ (d : Direction) (xs ys : List Vessel) (v : Vessel),
          (quietMode s.part.mode ∨ s.part.navInhibit = true) →
          (∀ w ∈ s.part.convoy, w.ticket ≠ ticket) → s.part.queueOf d = xs ++ v :: ys → v.ticket = ticket →
          (∀ w ∈ xs, w.ticket ≠ ticket) → (d = .down → ∀ w ∈ s.part.upQueue, w.ticket ≠ ticket) →
          ∃ q, exec (.cancel tag ticket) s = .next { s with part := q }
            ∧ q.queueOf d = xs ++ ys ∧ q.queueOf d.opposite = s.part.queueOf d.opposite
            ∧ q.lockage = s.part.lockage ∧ q.nextTicket = s.part.nextTicket ∧ q.CallsDerived
            ∧ s.part.sent.a ++ [.accepted tag (some s.part.link.conditions.any) (.cancel v.hull d (xs.length + 1))]
                <+: q.sent.a
            ∧ (s.part.mode ≠ .survey → q.sent = (s.part.send .a (.accepted tag (some s.part.link.conditions.any)
                (.cancel v.hull d (xs.length + 1)))).sent)

/-! ### Records, outlets and tallies (chapters 8 and 9) -/

/-- FORCE_TALLY changes nothing while a tally waits, is pending or is outstanding, and waits for the end of a
current lockage in WORKING and HALTED; in every other case a tally becomes pending with FORCED set and is appended
at once if every enabled outlet has room (R158). A pending tally is appended, once every enabled outlet has a free
slot, as a record of every counter with the next sequence and tally number, the counters start again and the tally
is outstanding (R156). TALLY_APPEND as a command of its own is the model's reading (log entry 6). -/
def Obligations.TalliesWaitAndAreAppended : Prop :=
  ∀ (tag : Tag) (s : State),
    let reply := fun (x : TallyReply) => Msg.accepted tag (some s.part.link.conditions.any) (.tally x)
    let waits := s.part.mode = .working ∨ (s.part.mode = .halted ∧ s.part.lockage ≠ none)
    (s.part.outlets.tally ≠ .none →
        exec (.forceTally tag) s = .next { s with part := s.part.send .a (reply .unchanged) })
      ∧ (s.part.outlets.tally = .none → waits →
          ∃ q, exec (.forceTally tag) s = .next { s with part := q }
            ∧ q = { s.part with
                outlets := { s.part.outlets with tally := .waiting }, turn := q.turn
                sent := (s.part.send .a (reply .waiting)).sent }
            ∧ TurnIdle s.part.turn q.turn)
      ∧ (s.part.outlets.tally = .none → ¬ waits →
          ∃ q, exec (.forceTally tag) s = .next { s with part := q } ∧ TurnIdle s.part.turn q.turn
            ∧ (¬ s.part.outlets.Room → q.outlets = { s.part.outlets with tally := .pending true false }
                ∧ s.part.sent.a ++ [reply .pending] <+: q.sent.a)
            ∧ (s.part.outlets.Room → TallyAppended s.part.outlets q.outlets true false
                ∧ s.part.sent.a ++ [reply .outstanding] <+: q.sent.a))
      ∧ (∀ forced periodic, s.part.outlets.tally = .pending forced periodic →
          ∃ q, exec .tallyAppend s = .next { s with part := q } ∧ q.mode = s.part.mode
            ∧ TurnIdle s.part.turn q.turn
            ∧ (¬ s.part.outlets.Room → q = { s.part with turn := q.turn })
            ∧ (s.part.outlets.Room → TallyAppended s.part.outlets q.outlets forced periodic))

/-- TAKEN of the head's sequence takes it off the outlet of its port: the reply with the new head, then the next
record offered; any other sequence is refused NOT_HEAD (R149, R150). An outstanding tally stays so while it stands
on an enabled outlet and otherwise ends (R157), and a pending one is appended if the freed slot leaves every enabled
outlet with room (R156). PEEK on ports B and C carries the head and the count and changes nothing (R151). Stated
where nothing could turn, so that nothing else follows. -/
def Obligations.TakenFreesTheHead : Prop :=
  ∀ (x : Port) (tag : Tag) (n : Nat) (s : State),
    let o := s.part.outlets.outlets.get x
    let mark := if x = .a then some s.part.link.conditions.any else none
    ((∀ r, o.queue.head? = some r → r.sequence ≠ n) →
        exec (.taken x tag n) s = .next { s with part := s.part.refuse x tag .notHead })
      ∧ (∀ r rest, o.queue = r :: rest → r.sequence = n → quietMode s.part.mode →
          let next := { o with queue := rest, state := if rest = [] then .idle else .offered }
          let freed := { s.part.outlets with outlets := s.part.outlets.outlets.set x next }
          let told := s.part.sent.get x
            ++ .accepted tag mark (.taken n (rest.head?.map (·.sequence))) :: (rest.head?.map Msg.deliver).toList
          let stands := fun (m : Nat) => ∃ y, (freed.outlets.get y).enabled = true
            ∧ ∃ z ∈ (freed.outlets.get y).queue, z.sequence = m
          ∃ q, exec (.taken x tag n) s = .next { s with part := q }
            ∧ q = { s.part with outlets := q.outlets, sent := q.sent, turn := q.turn } ∧ TurnIdle s.part.turn q.turn
            ∧ ((s.part.outlets.tally = .none ∨ s.part.outlets.tally = .waiting) →
                q.outlets = freed ∧ q.sent = s.part.sent.set x told)
            ∧ (∀ m, s.part.outlets.tally = .outstanding m → q.sent = s.part.sent.set x told
                ∧ (stands m → q.outlets = freed) ∧ (¬ stands m → q.outlets = { freed with tally := .none }))
            ∧ ∀ forced periodic, s.part.outlets.tally = .pending forced periodic →
                (¬ freed.Room → q.outlets = freed ∧ q.sent = s.part.sent.set x told)
                  ∧ (freed.Room → TallyAppended freed q.outlets forced periodic ∧ told <+: q.sent.get x))
      ∧ (x ≠ .a → exec (.peek x tag) s = .next (State.mk s.pending
          (s.part.send x (.accepted tag none (.peek o.queue.length o.queue.head?)))))

/-- In every LOCKAGE record the water shares of the lines sum to the water charged, and charged and waived together
are the head draws times the water rate in force at the ending; all is charged of a lockage that ran its plan with a
vessel to charge, and none of a returned or abandoned one. A draw that ends after its lockage is counted by the
outlet unit and changes no lockage (R138). The lines stand in convoy order, each with its vessel's own fields
(R142): an exempt vessel's is 0 with the EXEMPT flag alone (R134); a passage line takes R133's steps from the band
of the turn time (R130), each rounded half up with the flag set where one added (R132), then its water share, which
is the floor by its length over the lengths to charge and one unit more for as many vessels as the floors leave
units over, the largest remainder first and of equal ones the earlier in convoy order (R136, R137), the delay credit
of a late lockage and the cap (R135); a returned line is the return percent of the base fee (R139) and an abandoned
one 0 (R140). The lockage total is the sum of the line fees, none above 999,999 (R141). -/
def Obligations.WaterSharesSumToTheCharge : Prop :=
  (∀ (p : Part) (t : Tariff) (l : Lockage) (o : LockageOutcome), p.settings.tariff = some t → o ≠ .withdrawn →
      (∀ v ∈ l.convoy, 0 < v.length) →
      let r := p.tollRecord l o
      (r.lines.map (·.waterShare)).sum = r.waterCharged
        ∧ r.waterCharged + r.waterWaived = l.headDraws * t.waterRate
        ∧ r.waterDue = l.headDraws * t.waterRate
        ∧ r.waterCharged = (if (o = .completed ∨ o = .completedLate)
            ∧ ∃ v ∈ l.convoy, (t.classes.get v.cls).exempt = false then l.headDraws * t.waterRate else 0))
    ∧ (∀ (p : Part) (t : Tariff) (l : Lockage) (o : LockageOutcome), p.settings.tariff = some t → o ≠ .withdrawn →
      let r := p.tollRecord l o
      r.total = (r.lines.map (·.lineFee)).sum ∧ r.lines.length = l.convoy.length
        ∧ ((o = .returned → t.returnPercent ≤ 100 ∧ ∀ c, (t.classes.get c).base ≤ 65535) →
            ∀ x ∈ r.lines, x.lineFee ≤ 999999)
        ∧ ∀ (i : Nat) (v : Vessel) (x : Line), l.convoy[i]? = some v → r.lines[i]? = some x →
            let c := t.classes.get v.cls
            let half := fun (a b : Nat) => (2 * a + b) / (2 * b)
            let band := t.bandPercent.getD (t.hourBand.getD (l.turnTime.second / 3600) 0) 0
            let charge := half (c.rate * (v.length - c.freeLength)) 10
            let s1 := c.base + charge
            let s2 := if v.laden = true then half (s1 * c.ladenPercent) 100 else s1
            let s3 := half (s2 * band) 100
            let s4 := if v.accountKind = .pass then half (s3 * t.passPercent) 100 else s3
            let due := l.headDraws * t.waterRate
            let payers := l.convoy.filter fun w => !(t.classes.get w.cls).exempt
            let length := (payers.map (·.length)).sum
            let left := due - (payers.map fun w => due * w.length / length).sum
            let ahead := fun (w : Vessel) (j : Nat) => !(t.classes.get w.cls).exempt
              && (decide (due * v.length % length < due * w.length % length)
                || (decide (due * w.length % length = due * v.length % length) && decide (j < i)))
            let share := if length = 0 then 0 else
              due * v.length / length + if l.convoy.zipIdx.countP (fun y => ahead y.1 y.2) < left then 1 else 0
            let s5 := s4 + share
            let s6 := if l.late = true then s5 - t.delayCredit else s5
            let back := half (c.base * t.returnPercent) 100
            let line := fun (fee share due : Nat) (up cap credit : Bool) => x =
              { ticket := v.ticket, hull := v.hull, cls := v.cls, length := v.length, accountKind := v.accountKind
                accountNumber := v.accountNumber, tariffFee := fee, waterShare := share, lineFee := due
                roundedUp := up, capped := cap, exempt := c.exempt, creditFloored := credit }
            (c.exempt = true ∨ o = .abandoned → line 0 0 0 false false false)
              ∧ (c.exempt = false → o = .returned →
                  line back 0 back (decide (c.base * t.returnPercent < 100 * back)) false false)
              ∧ (c.exempt = false → (o = .completed ∨ o = .completedLate) →
                  x.waterShare = share ∧ line s4 share (min 999999 s6)
                    (decide (c.rate * (v.length - c.freeLength) < 10 * charge)
                      || (v.laden && decide (s1 * c.ladenPercent < 100 * s2)) || decide (s2 * band < 100 * s3)
                      || (decide (v.accountKind = .pass) && decide (s3 * t.passPercent < 100 * s4)))
                    (decide (999999 < s6)) (l.late && decide (s5 < t.delayCredit))))
    ∧ ∀ (p : Part) (n : Nat), (∀ l, p.lockage = some l → l.number ≠ n) →
        p.headDraw n = { p with outlets := p.outlets.bump .headDraws 1 }

/-! ### Plans (chapter 5) -/

/-- Every plan holds 15 to 24 steps; its TRANSFER(0) steps are those of R87's table; and at the start of every
TRANSFER and OPEN step every gate is predicted CLOSED, so that the through-path interlock holds there (R86 to
R88). -/
def Obligations.PlansAreBoundedAndSafe : Prop :=
  ∀ (f : Predicted) (d : Direction) (cc : ClearanceClass),
    let plan := (planFrom f d cc).steps
    15 ≤ plan.length ∧ plan.length ≤ 24
      ∧ (plan.filter fun x => decide (x.work = .transfer .g0)).length =
          (match d with
            | .up => 1 + (if f.c1 = .full then 0 else 1) + (if f.c2 = .full then 0 else 1)
            | .down => if f.c1 = .full then 0 else 1)
      ∧ ∀ (i : Nat) (x : PlanStep) (g : Gate), plan[i]? = some x →
          (x.work = .transfer g ∨ x.work = .openGate g) →
          ∀ h, ((plan.take i).foldl (fun p y => p.after y.work) f).opened.get h = false

/-! ### Settings (chapter 10) -/

/-- Every group load is refused NOT_AT_REST outside STARTUP and REST, with nothing changed (R165). A FLIGHT or REACH
load that is taken stores each field at the nearest value of its range and replies the fields clamped (R163, R164);
the FLIGHT load has the calls derived again, and the REACH load restarts its reach as SETTLING with nothing kept but
its timer (R18, R166). NAV-INHIBIT is assumed at REST so that no turn follows in the same moment. -/
def Obligations.FlightAndReachLoads : Prop :=
  ∀ (tag : Tag) (s : State),
    let m := some s.part.link.conditions.any
    ((s.part.mode ≠ .startup → s.part.mode ≠ .rest → ∀ c : Instr,
        ((∃ v, c = .loadFlight tag v) ∨ (∃ r v, c = .loadReach tag r v) ∨ (∃ v, c = .loadWorks tag v)
          ∨ (∃ v, c = .loadTariff tag v) ∨ (∃ v, c = .loadTurns tag v) ∨ (∃ v, c = .loadOutlets tag v)
          ∨ ∃ v, c = .loadResponses tag v) →
        exec c s = .next { s with part := s.part.refuse .a tag .notAtRest }))
    ∧ ((s.part.mode = .startup ∨ (s.part.mode = .rest ∧ s.part.navInhibit = true)) →
      (∀ v : FlightLoad, ∃ q g, exec (.loadFlight tag v) s = .next { s with part := q }
        ∧ q = { s.part with
            settings := { s.part.settings with flight := some g }, calls := q.calls, turn := q.turn
            sent := (s.part.send .a (.accepted tag m (rangeReply [(300, 2500, v.usableLength),
              (1, 4, v.convoyMaximum), (0, 100, v.vesselGap), (-5000, 30000, v.n1), (-5000, 30000, v.n2),
              (-5000, 30000, v.headSill), (-5000, 30000, v.tailSill), (0, 1000, v.keelClearance),
              (-5000, 30000, v.headFlood), (-5000, 30000, v.tailFlood), (5, 100, v.tolerance.g0),
              (5, 100, v.tolerance.g1), (5, 100, v.tolerance.g2), (5, 100, v.tolerance.g3)]))).sent }
        ∧ (g.usableLength : Int) = nearest 300 2500 v.usableLength
        ∧ (g.convoyMaximum : Int) = nearest 1 4 v.convoyMaximum
        ∧ (g.vesselGap : Int) = nearest 0 100 v.vesselGap
        ∧ g.n1 = nearest (-5000) 30000 v.n1 ∧ g.n2 = nearest (-5000) 30000 v.n2
        ∧ g.headSill = nearest (-5000) 30000 v.headSill ∧ g.tailSill = nearest (-5000) 30000 v.tailSill
        ∧ g.keelClearance = nearest 0 1000 v.keelClearance
        ∧ g.headFlood = nearest (-5000) 30000 v.headFlood ∧ g.tailFlood = nearest (-5000) 30000 v.tailFlood
        ∧ (∀ k, g.tolerance.get k = nearest 5 100 (v.tolerance.get k))
        ∧ q.calls = q.presentCalls ∧ TurnIdle s.part.turn q.turn)
      ∧ (∀ (r : Reach) (v : ReachLoad), ∃ q g, exec (.loadReach tag r.index v) s = .next { s with part := q }
        ∧ q.settings = { s.part.settings with reach := s.part.settings.reach.set r (some g) }
        ∧ g.zero = nearest 0 4095 v.zero ∧ g.span = nearest 500 20000 v.span
        ∧ g.datum = nearest (-5000) 30000 v.datum ∧ (g.rmin : Int) = nearest 0 4095 v.rmin
        ∧ (g.rmax : Int) = nearest g.rmin 4095 v.rmax ∧ (g.jump : Int) = nearest 0 255 v.jump
        ∧ g.drift = (if r = .head ∨ r = .tail then none else some (nearest 10 500 v.drift))
        ∧ q.reaches.get r = { cls := .settling, window := [], previousRaw := none, settleCount := 0, missed := 0
                              runCount := 0, run := [], isolationLevel := none, driftReported := false
                              sampleTimer := (s.part.reaches.get r).sampleTimer }
        ∧ TurnIdle s.part.turn q.turn
        ∧ s.part.sent.a ++ [.accepted tag m (rangeReply ([(0, 4095, v.zero), (500, 20000, v.span),
            (-5000, 30000, v.datum), (0, 4095, v.rmin), ((g.rmin : Int), 4095, v.rmax), (0, 255, v.jump)]
            ++ if r = .head ∨ r = .tail then [] else [(10, 500, v.drift)]))] <+: q.sent.a)
      ∧ ∀ i v, 4 < i → exec (.loadReach tag i v) s = .next { s with part := s.part.refuse .a tag .badValue })

/-- A WORKS or TARIFF load that is taken stores each field at the nearest value of its range, a window of 1..9 s as
10 s, a wrong exempt code as NO, and changes nothing else; its reply carries how many fields were clamped and the
index of the first (R129, R163, R164). -/
def Obligations.WorksAndTariffLoads : Prop :=
  ∀ (tag : Tag) (s : State), (s.part.mode = .startup ∨ s.part.mode = .rest) →
    let off := fun (lo hi x : Int) => outOfRange (lo, hi, x)
    let answered := fun (clamped : List Bool) =>
      (s.part.send .a (.accepted tag (some s.part.link.conditions.any) (flagReply clamped))).sent
    (∀ v : WorksLoad, ∃ q g, exec (.loadWorks tag v) s = .next { s with part := q }
      ∧ q = { s.part with settings := { s.part.settings with works := some g }, sent := answered (
          [v.travelLimit.g0, v.travelLimit.g1, v.travelLimit.g2, v.travelLimit.g3].map (off 30 600)
          ++ [v.stepLimit.g0, v.stepLimit.g1, v.stepLimit.g2, v.stepLimit.g3].map (off 2 60)
          ++ [v.rampInterval.g0, v.rampInterval.g1, v.rampInterval.g2, v.rampInterval.g3].map (off 2 120)
          ++ [v.transferLimit.g0, v.transferLimit.g1, v.transferLimit.g2, v.transferLimit.g3].map (off 30 1800)
          ++ [v.cap.g0, v.cap.g1, v.cap.g2, v.cap.g3].map (off 1 15)
          ++ [off 60 1800 v.moveLimit, decide (v.window ≠ 0) && off 10 900 v.window]) }
      ∧ (∀ k, ((g.travelLimit.get k : Nat) : Int) = nearest 30 600 (v.travelLimit.get k)
          ∧ ((g.stepLimit.get k : Nat) : Int) = nearest 2 60 (v.stepLimit.get k)
          ∧ ((g.rampInterval.get k : Nat) : Int) = nearest 2 120 (v.rampInterval.get k)
          ∧ ((g.transferLimit.get k : Nat) : Int) = nearest 30 1800 (v.transferLimit.get k)
          ∧ ((g.cap.get k : Nat) : Int) = nearest 1 15 (v.cap.get k))
      ∧ (g.moveLimit : Int) = nearest 60 1800 v.moveLimit
      ∧ (g.window : Int) = (if v.window ≤ 0 then 0 else nearest 10 900 v.window))
    ∧ ∀ v : TariffLoad, ∃ q g, exec (.loadTariff tag v) s = .next { s with part := q }
      ∧ q = { s.part with settings := { s.part.settings with tariff := some g }, sent := answered (
          ([VesselClass.pleasure, .passenger, .dryCargo, .tanker, .pushTow, .workCraft, .authority, .rescue].flatMap
            fun c => [off 0 65535 (v.classes.get c).base, off 0 5000 (v.classes.get c).rate,
              off 0 2500 (v.classes.get c).freeLength, off 100 250 (v.classes.get c).ladenPercent,
              (v.classes.get c).exempt.isNone])
          ++ [off 0 100 v.passPercent, off 0 20000 v.waterRate, off 0 65535 v.delayCredit, off 0 100 v.returnPercent]
          ++ v.hourBand.map (off 0 3) ++ v.bandPercent.map (off 50 300)) }
      ∧ (∀ c, ((g.classes.get c).base : Int) = nearest 0 65535 (v.classes.get c).base
          ∧ ((g.classes.get c).rate : Int) = nearest 0 5000 (v.classes.get c).rate
          ∧ ((g.classes.get c).freeLength : Int) = nearest 0 2500 (v.classes.get c).freeLength
          ∧ ((g.classes.get c).ladenPercent : Int) = nearest 100 250 (v.classes.get c).ladenPercent
          ∧ ((g.classes.get c).exempt = true ↔ (v.classes.get c).exempt = some true))
      ∧ (g.passPercent : Int) = nearest 0 100 v.passPercent ∧ (g.waterRate : Int) = nearest 0 20000 v.waterRate
      ∧ (g.delayCredit : Int) = nearest 0 65535 v.delayCredit
      ∧ (g.returnPercent : Int) = nearest 0 100 v.returnPercent
      ∧ g.hourBand.map Int.ofNat = v.hourBand.map (nearest 0 3)
      ∧ g.bandPercent.map Int.ofNat = v.bandPercent.map (nearest 50 300)

/-- A TURNS load stores its entries: a wrong action, or a direction without its call in the index, as HOLD, and a
wrong class as C (R65), and ends the reject hold at REST (R66). An OUTLETS load is refused OUTLET_BUSY exactly when
one of R146's tests holds for the values it would store; otherwise the group is stored and the outlet unit takes its
enables, depths and interval and keeps everything else. A RESPONSES load stores HALT for a wrong code and restarts
an armed watchdog with the new period (R115, R164, R182). Each accepted load is answered with how many entries or
fields were clamped and the index of the first (R65, R163). NAV-INHIBIT is assumed at REST so that no turn follows
in the same moment. -/
def Obligations.TurnsOutletsAndResponsesLoads : Prop :=
  ∀ (tag : Tag) (s : State), (s.part.mode = .startup ∨ (s.part.mode = .rest ∧ s.part.navInhibit = true)) →
    let off := fun (lo hi x : Int) => outOfRange (lo, hi, x)
    let answered := fun (clamped : List Bool) =>
      (s.part.send .a (.accepted tag (some s.part.link.conditions.any) (flagReply clamped))).sent
    (∀ v : List TurnEntryLoad, ∃ q ts clamped, exec (.loadTurns tag v) s = .next { s with part := q }
      ∧ q = { s.part with
          settings := { s.part.settings with turns := some ts }, sent := answered clamped, turn := q.turn }
      ∧ ts.length = v.length ∧ clamped.length = v.length
      ∧ (∀ (i : Nat) (x : TurnEntryLoad), v[i]? = some x →
          let action : Action := match x.action with
            | some .up => if i % 2 = 1 then .up else .hold
            | some .down => if i / 2 % 2 = 1 then .down else .hold
            | some .reject => .reject
            | _ => .hold
          ts[i]? = some { action := action, cls := x.cls.getD .c }
            ∧ clamped[i]? = some (decide (x.action ≠ some action) || x.cls.isNone))
      ∧ (s.part.mode = .rest → q.turn.rejectHold = none ∧ TurnIdle s.part.turn q.turn)
      ∧ (s.part.mode = .startup → q.turn = s.part.turn))
    ∧ (∀ v : OutletsLoad, ∃ g : OutletsGroup,
        (g.authorityEnable = true ↔ v.authorityEnable = some true) ∧ (g.quayEnable = true ↔ v.quayEnable = some true)
        ∧ (g.accountsDepth : Int) = nearest 1 8 v.accountsDepth
        ∧ (g.authorityDepth : Int) = nearest 1 8 v.authorityDepth
        ∧ (g.quayDepth : Int) = nearest 1 8 v.quayDepth ∧ (g.interval : Int) = nearest 0 250 v.interval
        ∧ (let u := s.part.outlets
           let busy := (g.authorityEnable ≠ u.outlets.b.enabled ∧ u.outlets.b.queue ≠ [])
             ∨ (g.quayEnable ≠ u.outlets.c.enabled ∧ u.outlets.c.queue ≠ [])
             ∨ (g.accountsDepth ≠ u.outlets.a.depth ∧ u.outlets.a.queue ≠ [])
             ∨ (g.authorityDepth ≠ u.outlets.b.depth ∧ u.outlets.b.queue ≠ [])
             ∨ (g.quayDepth ≠ u.outlets.c.depth ∧ u.outlets.c.queue ≠ [])
             ∨ (∃ forced periodic, u.tally = .pending forced periodic) ∨ (∃ n, u.tally = .outstanding n)
             ∨ (g.interval ≠ 0 ∧ g.interval ≤ u.counters.lockageRecords)
           (busy → exec (.loadOutlets tag v) s = .next { s with part := s.part.refuse .a tag .outletBusy })
             ∧ (¬ busy → ∃ q, exec (.loadOutlets tag v) s = .next { s with part := q }
                 ∧ q = { s.part with
                     settings := { s.part.settings with outlets := some g }, turn := q.turn
                     outlets := { u with
                       outlets := ⟨{ u.outlets.a with depth := g.accountsDepth },
                         { u.outlets.b with enabled := g.authorityEnable, depth := g.authorityDepth },
                         { u.outlets.c with enabled := g.quayEnable, depth := g.quayDepth }⟩
                       interval := g.interval }
                     sent := answered [v.authorityEnable.isNone, v.quayEnable.isNone, off 1 8 v.accountsDepth,
                       off 1 8 v.authorityDepth, off 1 8 v.quayDepth, off 0 250 v.interval] }
                 ∧ TurnIdle s.part.turn q.turn)))
    ∧ ∀ v : ResponsesLoad, ∃ q g, exec (.loadResponses tag v) s = .next { s with part := q }
      ∧ q = { s.part with
          settings := { s.part.settings with responses := some g }
          sent := answered [v.sensorStale.isNone, v.sensorLimited.isNone, v.transferTimeout.isNone,
            v.levelDrift.isNone, v.lampFailed.isNone, v.moveTimeout.isNone, off 0 7 v.periodCode]
          link := { s.part.link with watchdog := q.link.watchdog } }
      ∧ q.link.watchdog = (if s.part.link.armed then
          [none, some 5000, some 10000, some 20000, some 30000, some 60000, some 120000, some 300000].getD
            g.periodCode none else s.part.link.watchdog)
      ∧ (g.periodCode : Int) = nearest 0 7 v.periodCode
      ∧ (g.sensorStale = .continue_ ↔ v.sensorStale = some .continue_)
      ∧ (g.sensorLimited = .continue_ ↔ v.sensorLimited = some .continue_)
      ∧ (g.transferTimeout = .continue_ ↔ v.transferTimeout = some .continue_)
      ∧ (g.levelDrift = .continue_ ↔ v.levelDrift = some .continue_)
      ∧ (g.lampFailed = .continue_ ↔ v.lampFailed = some .continue_)
      ∧ (g.moveTimeout = .continue_ ↔ v.moveTimeout = some .continue_)

/-! ### Resets (section 10.7) -/

/-- A RESTART answers first and then resets the part: no lockage, no halt, every reach SETTLING, the link as after a
reset with its RESTARTED condition. KEEP keeps the groups, the queues and the last direction, and its mode is SURVEY
with the settings complete and STARTUP without; CLEAR empties them and its mode is STARTUP. Both keep the clock, the
next ticket and lockage number, and of the outlet unit the outlets' enables, depths and queues, the interval, the
next sequence and tally number, the counters and the saturated mark; they count a discarded lockage, release a
FORCE_TALLY that waited on it, offer each head again and append a pending tally if there is room (R145, R156, R158,
R160). Gates stand where their limits say with their drives off, closed by a survey that begins; sluices above 0
close; faces and lamps take their reset values (R23, R29, R31, R39, R42, R170, R172, R173, R175). E-STOP and double
limits are left out, because they are reported in the same moment. The order of the restart's steps is the model's
reading of R172 (log entry 13). -/
def Obligations.RestartsResetThePart : Prop :=
  ∀ (tag : Tag) (kind : RestartKind) (s : State), s.part.eStop = false →
    (∀ g, ¬ ((s.part.gates.get g).atClosed = true ∧ (s.part.gates.get g).atOpen = true)) →
    let c := match kind with
      | .keep => Instr.restartKeep tag
      | .clear => .restartClear tag
    ∃ q, exec c s = .next { s with part := q }
      ∧ q.mode = (if kind = .keep ∧ s.part.complete = true then .survey else .startup)
      ∧ q.lockage = none ∧ q.faults = { halt := none, reported := [] }
      ∧ (∀ r, q.reaches.get r = ReachRec.reset)
      ∧ q.clock = s.part.clock ∧ q.nextTicket = s.part.nextTicket ∧ q.turn.nextLockage = s.part.turn.nextLockage
      ∧ q.turn.readiness = false ∧ q.turn.rejectHold = none ∧ q.turn.planWait = false
      ∧ (kind = .keep → q.settings = s.part.settings ∧ q.upQueue = s.part.upQueue ∧ q.downQueue = s.part.downQueue
          ∧ q.turn.pattern.lastUp = s.part.turn.pattern.lastUp)
      ∧ (kind = .clear → q.settings = Settings.unset ∧ q.upQueue = [] ∧ q.downQueue = []
          ∧ q.turn.pattern.lastUp = false)
      ∧ q.link = { receivers := ⟨.hunting, .hunting, .hunting⟩, checkErrors := ⟨0, 0, 0⟩
                   conditions := { Conditions.empty with restarted := some (match kind with
                     | .keep => .keep
                     | .clear => .clear) }
                   armed := false, watchdog := none, lost := false, rate := s.part.straps }
      ∧ (∀ f k, (lampOf q.lamps f k).armed = false ∧ (lampOf q.lamps f k).failed = false
          ∧ (lampOf q.lamps f k).litLast = false)
      ∧ (∀ f, faceOf q.faces f = { requested := .stop, awaited := false
                                   shown := if f.isApproach then .outOfService else .stop })
      ∧ (∀ g, let was := s.part.gates.get g
          q.gates.get g = if q.mode = .survey ∧ was.atClosed = false ∧ was.atOpen = false then
              { state := .closing, drive := .closeDrive, openPending := false, commander := .survey
                travelTimer := s.part.settings.works.map fun w => 1000 * w.travelLimit.get g
                atClosed := false, atOpen := false }
            else { state := if was.atClosed then .closed else if was.atOpen then .open_ else .stopped
                   drive := .off, travelTimer := none, openPending := false, commander := .nobody
                   atClosed := was.atClosed, atOpen := was.atOpen })
      ∧ (∀ k, let n := (s.part.sluices.get k).position
          q.sluices.get k = { position := n, target := 0, trim := 0, transfer := none, rampTimer := none, due := false
                              waiting := none, state := if n = 0 then .closed else .closing
                              step := if n = 0 then none else some (.down, n - 1)
                              stepTimer := if n = 0 then none
                                else s.part.settings.works.map fun w => 1000 * w.stepLimit.get k })
      ∧ s.part.sent.a ++ [.accepted tag (some s.part.link.conditions.any) (.restart kind)] <+: q.sent.a
      ∧ (let u := s.part.outlets
         let lost : Bool := s.part.lockage.isSome
         let offered := fun (o : Outlet) => { o with state := if o.queue = [] then .idle else .offered }
         let kept := { u with
           outlets := ⟨offered u.outlets.a, offered u.outlets.b, offered u.outlets.c⟩
           counters := { u.counters with
             lostToReset := if lost then min 65535 (u.counters.lostToReset + 1) else u.counters.lostToReset }
           saturated := if lost && decide (65535 ≤ u.counters.lostToReset) then true else u.saturated
           tally := if lost && decide (u.tally = .waiting) then .pending true false else u.tally }
         (∀ forced periodic, kept.tally = .pending forced periodic → kept.Room →
             TallyAppended kept q.outlets forced periodic)
           ∧ (((∀ forced periodic, kept.tally ≠ .pending forced periodic) ∨ ¬ kept.Room) → q.outlets = kept))

/-- Power-on depends on the field's inputs alone: whatever the part held before, it comes up the same, in STARTUP,
every group and the clock UNSET, queues and outlets empty, no lockage, no halt, the turn selector and the link as
new, with RESTARTED and cause POWER; each reach SETTLING, each gate where its limits say, each sluice above 0
closing, faces and lamps at their reset values, and the field's inputs as found (R1, R23, R29, R39, R42, R61, R113,
R145, R172, R173, R175). Double limits are left out, because they are reported in the same moment. That a standing
E-STOP is no assertion here, so that nothing is sent, and that the list of what was sent begins afresh, are the
model's readings (log entries 11 and 9). -/
def Obligations.PowerOnStartsFromTheField : Prop :=
  ∀ v : FieldInputs, (∀ g, ¬ (v.closedLimit.get g = true ∧ v.openLimit.get g = true)) →
    ∃ q, (∀ s : State, exec (.powerOn v) s = .next { s with part := q })
      ∧ q.mode = .startup ∧ q.settings = Settings.unset ∧ q.clock = none ∧ q.upQueue = [] ∧ q.downQueue = []
      ∧ q.lockage = none ∧ q.nextTicket = 1 ∧ q.calls = ⟨false, false, false, false⟩
      ∧ q.turn = { pattern := ⟨false, false, false, false, false⟩, readiness := false, rejectHold := none
                   planWait := false, nextLockage := 1 }
      ∧ q.faults = { halt := none, reported := [] } ∧ q.outlets = OutletUnit.initial
      ∧ q.sent = ⟨[], [], []⟩ ∧ q.eStop = v.eStop ∧ q.navInhibit = v.navInhibit ∧ q.straps = v.straps
      ∧ q.link = { receivers := ⟨.hunting, .hunting, .hunting⟩, checkErrors := ⟨0, 0, 0⟩
                   conditions := { Conditions.empty with restarted := some .power }
                   armed := false, watchdog := none, lost := false, rate := v.straps }
      ∧ (∀ r, q.reaches.get r = ReachRec.reset)
      ∧ (∀ f, faceOf q.faces f = { requested := .stop, awaited := false
                                   shown := if f.isApproach then .outOfService else .stop })
      ∧ (∀ f k, (lampOf q.lamps f k).armed = false ∧ (lampOf q.lamps f k).failed = false
          ∧ (lampOf q.lamps f k).litLast = false)
      ∧ (∀ g, q.gates.get g =
          { state := if v.closedLimit.get g then .closed else if v.openLimit.get g then .open_ else .stopped
            drive := .off, travelTimer := none, openPending := false, commander := .nobody
            atClosed := v.closedLimit.get g, atOpen := v.openLimit.get g })
      ∧ ∀ k, q.sluices.get k =
          { position := (v.feedback.get k).val, target := 0, trim := 0, transfer := none, rampTimer := none, due := false
            waiting := none, stepTimer := none
            state := if (v.feedback.get k).val = 0 then .closed else .closing
            step := if (v.feedback.get k).val = 0 then none else some (.down, (v.feedback.get k).val - 1) }

/-! ### The control link (chapter 11) -/

/-- While the condition record holds RESTARTED, BAD_MESSAGE, LINK_LOST or a halting fault, a query on port A is
answered with the record, which is then cleared, and has no other effect; otherwise with its data and the
conditions-pending mark, and the record is kept (R180). CONDITION_READ always answers with the record and clears it
(R181). The data are the values of the moment, field by field: QUERY_FLIGHT's of readings, works, faces, lamps, turn
selector, fault handler, groups and survey (R21, R45, R74, R128, R174), QUERY_QUEUES' of both queues with their calls
and reserved slots, the next ticket and the convoy (R51, R53, R60), QUERY_LOCKAGE's of the lockage, or none (R112),
QUERY_OUTLETS' of the outlets and the tally without the records (R161), QUERY_LINK's of the link (R181), and PEEK's
head and count (R151). What a query shows of an UNSET group is the model's choice (log entry 23). -/
def Obligations.QueriesFollowTheConditionRule : Prop :=
  ∀ (tag : Tag) (s : State),
    let r := s.part.link.conditions
    let shown : State := { s with part := { s.part with
      sent := s.part.sent.set .a (s.part.sent.a ++ [.condition tag r])
      link := { s.part.link with conditions := Conditions.empty } } }
    let critical := r.restarted ≠ none ∨ 0 < r.badMessage ∨ r.linkLost = true
      ∨ ∃ f, r.fault = some f ∧ f.halting = true
    let answers := fun (c : Instr) (d : ReplyData) =>
      (critical → exec c s = .next shown)
        ∧ (¬ critical → exec c s = .next { s with part := s.part.send .a (.accepted tag (some r.any) d) })
    exec (.conditionRead tag) s = .next shown
      ∧ (∃ v : FlightView, answers (.queryFlight tag) (.flight v)
          ∧ (∀ x, v.reaches.get x = { cls := (s.part.reaches.get x).cls, level := s.part.level x
                                      previousRaw := (s.part.reaches.get x).previousRaw
                                      missed := (s.part.reaches.get x).missed })
          ∧ v.c1 = { state := s.part.chamberState .c1, isolationLevel := s.part.reaches.c1.isolationLevel }
          ∧ v.c2 = { state := s.part.chamberState .c2, isolationLevel := s.part.reaches.c2.isolationLevel }
          ∧ v.c3 = { state := s.part.chamberState .c3, isolationLevel := s.part.reaches.c3.isolationLevel }
          ∧ v.flood = s.part.flood
          ∧ (∀ g, let x := s.part.gates.get g
              v.gates.get g = { state := x.state, atClosed := x.atClosed, atOpen := x.atOpen
                                openPending := x.openPending })
          ∧ (∀ k, let x := s.part.sluices.get k
              v.sluices.get k = { position := x.position, state := x.state, trim := x.trim
                                  cap := s.part.settings.works.map fun w => w.cap.get k
                                  effectiveCap := s.part.settings.works.map fun w =>
                                    (max 1 (min 15 ((w.cap.get k : Int) + x.trim))).toNat
                                  phase := x.transfer.map (·.phase) })
          ∧ (∀ f, faceOf v.faces f = { requested := (faceOf s.part.faces f).requested
                                       shown := (faceOf s.part.faces f).shown })
          ∧ (∀ f c, lampOf v.lamps f c = { command := (lampOf s.part.lamps f c).command
                                           armed := (lampOf s.part.lamps f c).armed
                                           failed := (lampOf s.part.lamps f c).failed })
          ∧ (let index := fun (b : Pattern) => b.up.toNat + 2 * b.down.toNat + 4 * b.upPriority.toNat
               + 8 * b.downPriority.toNat + 16 * b.lastUp.toNat
             v.pattern = index s.part.turn.pattern ∧ v.rejectHold = s.part.turn.rejectHold.map index)
          ∧ v.readiness = s.part.turn.readiness ∧ v.planWait = s.part.turn.planWait
          ∧ v.nextLockage = s.part.turn.nextLockage
          ∧ (v.conditions.modeRest = true ↔ s.part.mode = .rest)
          ∧ (v.conditions.noInhibit = true ↔ s.part.navInhibit = false)
          ∧ (v.conditions.notFlooded = true ↔ s.part.flood = .navigable)
          ∧ (v.conditions.linkUp = true ↔ s.part.link.lost = false)
          ∧ (v.conditions.outletsFree = true ↔ s.part.outlets.Room)
          ∧ (v.conditions.noTally = true ↔ s.part.outlets.tally = .none ∨ s.part.outlets.tally = .waiting)
          ∧ (v.conditions.noForceWaiting = true ↔ s.part.outlets.tally ≠ .waiting)
          ∧ (v.conditions.noRejectHold = true ↔ s.part.turn.rejectHold ≠ some s.part.turn.pattern)
          ∧ v.mode = s.part.mode ∧ v.halt = s.part.faults.halt ∧ v.reported = s.part.faults.reported
          ∧ v.responses = (s.part.settings.responses.map fun g =>
              { sensorStale := g.sensorStale, sensorLimited := g.sensorLimited
                transferTimeout := g.transferTimeout, levelDrift := g.levelDrift, lampFailed := g.lampFailed
                moveTimeout := g.moveTimeout })
          ∧ v.eStop = s.part.eStop ∧ v.clock = s.part.clock
          ∧ (Missing.flight ∈ v.unset ↔ s.part.settings.flight = none)
          ∧ (∀ x, Missing.reach x ∈ v.unset ↔ s.part.settings.reach.get x = none)
          ∧ (Missing.works ∈ v.unset ↔ s.part.settings.works = none)
          ∧ (Missing.tariff ∈ v.unset ↔ s.part.settings.tariff = none)
          ∧ (Missing.turns ∈ v.unset ↔ s.part.settings.turns = none)
          ∧ (Missing.outlets ∈ v.unset ↔ s.part.settings.outlets = none)
          ∧ (Missing.responses ∈ v.unset ↔ s.part.settings.responses = none)
          ∧ Missing.clock ∉ v.unset
          ∧ (s.part.mode ≠ .survey → v.survey = none)
          ∧ (s.part.mode = .survey → ∃ y, v.survey = some y
              ∧ (∀ x, x ∈ y.reaches ↔ (s.part.reaches.get x).cls.ordered = false)
              ∧ (∀ g, g ∈ y.gates ↔ (s.part.gates.get g).state ≠ .closed ∧ (s.part.gates.get g).state ≠ .open_)
              ∧ (∀ k, k ∈ y.sluices ↔ (s.part.sluices.get k).position ≠ 0)
              ∧ (y.readingsFail = true ↔ ∃ x, (s.part.reaches.get x).cls.ordered = false)
              ∧ (y.gatesFail = true ↔
                  ∃ g, (s.part.gates.get g).state ≠ .closed ∧ (s.part.gates.get g).state ≠ .open_)
              ∧ (y.sluicesFail = true ↔
                  ∃ k, (s.part.sluices.get k).state ≠ .closed ∨ (s.part.sluices.get k).position ≠ 0)))
      ∧ (∃ v : QueuesView, answers (.queryQueues tag) (.queues v)
          ∧ (∀ d : Direction,
              let x := match d with
                | .up => v.up
                | .down => v.down
              x.count = (s.part.queueOf d).length ∧ x.records = s.part.queueOf d
                ∧ (s.part.lockage = none → x.reserved = 0)
                ∧ (∀ l, s.part.lockage = some l → x.reserved =
                    if l.direction = d ∧ l.entryPassed = false then l.convoy.length else 0)
                ∧ (x.call = true ↔ ∃ y, (s.part.queueOf d).head? = some y ∧ s.part.passable [y] = true
                    ∧ y.length ≤ s.part.usableLength)
                ∧ (x.priority = true ↔ x.call = true ∧ ∃ y, (s.part.queueOf d).head? = some y ∧ y.priority = true))
          ∧ v.nextTicket = s.part.nextTicket
          ∧ v.lockage = s.part.lockage.map fun l =>
              { direction := l.direction, tickets := l.convoy.map (·.ticket), returnable := !l.entryPassed })
      ∧ answers (.queryLockage tag) (.lockage (s.part.lockage.map fun l =>
          { number := l.number, direction := l.direction, cls := l.cls
            convoy := l.convoy.map fun y => (y.ticket, y.hull)
            plan := l.plan, current := l.current, stage := l.stage, entry := l.entry, exit := l.exit
            commitment := l.commitment, entryPassed := l.entryPassed, late := l.late, headDraws := l.headDraws
            tideWait := l.tideWait, tideReported := l.tideReported, moveTimer := l.moveTimer
            windowTimer := l.windowTimer, moveDone := l.moveDone, turnTime := l.turnTime, outcome := l.outcome }))
      ∧ (∃ v : OutletsView, answers (.queryOutlets tag) (.outlets v)
          ∧ (∀ x, let o := s.part.outlets.outlets.get x
              v.outlets.get x = { enabled := o.enabled, depth := o.depth, state := o.state, count := o.queue.length
                                  sequences := o.queue.map (·.sequence) })
          ∧ v.nextSequence = s.part.outlets.nextSequence ∧ v.interval = s.part.outlets.interval
          ∧ v.counters = s.part.outlets.counters ∧ v.saturated = s.part.outlets.saturated
          ∧ v.nextTally = s.part.outlets.nextTally ∧ v.tally = s.part.outlets.tally)
      ∧ answers (.queryLink tag) (.link
          { rate := s.part.link.rate, checkErrors := s.part.link.checkErrors
            periodCode := s.part.settings.responses.map (·.periodCode), armed := s.part.link.armed
            watchdog := s.part.link.watchdog, lost := s.part.link.lost })
      ∧ answers (.peek .a tag) (.peek s.part.outlets.outlets.a.queue.length s.part.outlets.outlets.a.queue.head?)

/-- A receiver takes bytes by R176: HUNTING waits for 0xA5; LEN is 2..240 or the frame is dropped with BAD_MESSAGE;
the frame's bytes are gathered to LEN + 2; a complete frame whose check fails is counted, silently; a gap over 50 ms
drops the frame, whether the timeout or the next byte finds it, and that byte is then taken in HUNTING, so that 0xA5
begins a new frame. In HUNTING a gap is nothing. That is the model's reading (log entry 7). -/
def Obligations.ReceiversTakeBytes : Prop :=
  ∀ (x : Port) (b : Byte) (s : State),
    let now := s.part.link.receivers.get x
    let put := fun (r : Receiver) =>
      { s.part with link := { s.part.link with receivers := s.part.link.receivers.set x r } }
    let drop := { s.part with link := { s.part.link with
      receivers := s.part.link.receivers.set x .hunting
      conditions := { s.part.link.conditions with badMessage := min 255 (s.part.link.conditions.badMessage + 1) } } }
    let takes := fun (q : Part) => exec (.byteReceived x b) s = .next { s with part := q }
    (now = .hunting → b = 0xA5#8 → takes (put (.inFrame none [] 0)))
      ∧ (now = .hunting → b ≠ 0xA5#8 → takes s.part)
      ∧ (∀ gap, now = .inFrame none [] gap → gap ≤ 50 →
          if 2 ≤ b.toNat ∧ b.toNat ≤ 240 then takes (put (.inFrame (some b.toNat) [] 0)) else takes drop)
      ∧ (∀ n bytes gap, now = .inFrame (some n) bytes gap → gap ≤ 50 → bytes.length + 1 < n + 2 →
          takes (put (.inFrame (some n) (bytes ++ [b]) 0)))
      ∧ (∀ n bytes gap, now = .inFrame (some n) bytes gap → gap ≤ 50 → bytes.length + 1 = n + 2 →
          frameOk n (bytes ++ [b]) = false →
          takes { s.part with link := { s.part.link with
            receivers := s.part.link.receivers.set x .hunting
            checkErrors := s.part.link.checkErrors.set x (min 65535 (s.part.link.checkErrors.get x + 1)) } })
      ∧ (∀ len bytes gap, now = .inFrame len bytes gap → 50 < gap → b ≠ 0xA5#8 → takes drop)
      ∧ (∀ len bytes gap, now = .inFrame len bytes gap → 50 < gap → b = 0xA5#8 →
          takes { drop with link := { drop.link with
            receivers := s.part.link.receivers.set x (.inFrame none [] 0) } })
      ∧ (now = .hunting → exec (.gapTimeout x) s = .next s)
      ∧ ∀ len bytes gap, now = .inFrame len bytes gap →
          exec (.gapTimeout x) s = .next { s with part := drop }

/-- A byte that completes a valid frame is one event with its request: on port A it arms the watchdog and restarts
its timer first (R182), and restores a lost link: LINK_RESTORED is noted, READY shows again and readiness is formed
anew (R183). Then a kind that is unknown, such as a code of the part's own messages, not allowed on its port or of
the wrong length is noted BAD_MESSAGE and refused with it; any other does what the command its fields spell does,
which is its kind's own with the frame's tag and port and, for a REGISTER, has the fields of its 21 bytes; and a
RESTART of no kind is refused BAD_VALUE (R172, R177, R184, R185). The frame that restores the link is stated where
no turn can follow; and in every mode its refusal goes out before any event the restored link brings, and a
RESTART's reset overtakes such events, so that they are not sent (R184; the last, the model's reading: log entry
22). Where a kind's code and fields stand is free (log entries 3 and 27); that a BAD_MESSAGE is noted before its
refusal's mark is taken is the model's reading (log entry 10). -/
def Obligations.ValidFramesReachTheirBlocks : Prop :=
  (∀ (x : Port) (b kind tag : Byte) (body bytes : List Byte) (gap : Nat) (s : State),
     s.part.link.receivers.get x = .inFrame (some (body.length + 2)) bytes gap → gap ≤ 50 →
     (bytes ++ [b]).length = body.length + 4 → (bytes ++ [b]).take (body.length + 2) = kind :: tag :: body →
     frameOk (body.length + 2) (bytes ++ [b]) = true →
     let fed : Link := { s.part.link with
       receivers := s.part.link.receivers.set x .hunting
       armed := if x = .a then true else s.part.link.armed
       watchdog := if x = .a then s.part.period else s.part.link.watchdog }
     let refusal := Msg.refused tag (if x = .a then some true else none) .badMessage
     let bad := fun (p : Part) => { p with
       link := { p.link with
         conditions := { p.link.conditions with badMessage := min 255 (p.link.conditions.badMessage + 1) } }
       sent := (p.send x refusal).sent }
     let judged := fun (p q : Part) => match requestKind kind body with
       | none => q = bad p
       | some k =>
         if (x = .a ∨ k = .taken ∨ k = .peek) ∧ body.length = bodyLength k then
           match requestOf x tag k body with
           | some c => exec c { s with part := p } = .next { s with part := q }
           | none => q = p.refuse x tag .badValue
         else q = bad p
     (x ≠ .a ∨ s.part.link.lost = false →
         ∃ q, exec (.byteReceived x b) s = .next { s with part := q } ∧ judged { s.part with link := fed } q)
       ∧ ((∃ m, kind = Config.kindCode m) → x ≠ .a ∨ s.part.link.lost = false →
           exec (.byteReceived x b) s = .next { s with part := bad { s.part with link := fed } })
       ∧ (x = .a → s.part.link.lost = true →
           (quietMode s.part.mode ∨ (s.part.mode = .rest ∧ s.part.navInhibit = true)) →
           ∃ q p, exec (.byteReceived x b) s = .next { s with part := q } ∧ judged p q
             ∧ p = { s.part with
                 link := { fed with lost := false, conditions := { fed.conditions with linkRestored := true } }
                 faces := p.faces, lamps := p.lamps, lockage := p.lockage, turn := p.turn }
             ∧ LockageKept s.part.lockage p.lockage ∧ TurnIdle s.part.turn p.turn
             ∧ ∀ f, (faceOf p.faces f).requested = (faceOf s.part.faces f).requested
                 ∧ (s.part.mode = .working → (faceOf s.part.faces f).requested = .ready →
                     (faceOf s.part.faces f).awaited = false → (faceOf p.faces f).shown = .ready))
       ∧ (x = .a → s.part.link.lost = true → requestKind kind body = none →
           ∃ q, exec (.byteReceived x b) s = .next { s with part := q } ∧ s.part.sent.a ++ [refusal] <+: q.sent.a)
       ∧ (x = .a → s.part.link.lost = true →
           ∃ q, exec (.byteReceived x b) s = .next { s with part := q }
             ∧ ∀ c, requestKind kind body = some .restart → body.length = bodyLength .restart →
                 requestOf x tag .restart body = some c →
                 ∃ p r, exec c { s with part := p } = .next { s with part := q }
                   ∧ p.sent.a = s.part.sent.a ∧ p.settings = s.part.settings
                   ∧ p.link.lost = false ∧ p.link.conditions.linkRestored = true
                   ∧ s.part.sent.a ++ [.accepted tag (some true) (.restart r)] <+: q.sent.a))
    ∧ (∀ (x : Port) (tag : Tag) (k : RequestKind) (body : List Byte) (c : Instr), requestOf x tag k body = some c →
        c.RequestedBy x tag k)
    ∧ ∀ (x : Port) (tag d c l1 l0 w1 w0 laden kind a3 a2 a1 a0 priority : Byte) (hull : List Byte),
        hull.length ≤ 8 → hull.getLast? ≠ some 0 →
        let account := 16777216 * a3.toNat + 65536 * a2.toNat + 256 * a1.toNat + a0.toNat
        requestOf x tag .register (hull ++ List.replicate (8 - hull.length) 0
            ++ [d, c, l1, l0, w1, w0, laden, kind, a3, a2, a1, a0, priority]) =
          some (.register tag
            { hull := hull, direction := d.toNat, cls := c.toNat, length := 256 * l1.toNat + l0.toNat
              draught := 256 * w1.toNat + w0.toNat, laden := decide (laden ≠ 0), accountKind := kind.toNat
              accountNumber := if account = 0 then none else some account, priority := decide (priority ≠ 0) })

/-- A frame the part sends carries its length and a check that its own receiver's test accepts: bytes 1 to LEN + 1
under the CRC-16, high byte first (R176, R185). An ACCEPTED reply goes out as one or more parts in order, each a frame
with the request's tag whose body is the part's number, the number of parts and at most 236 bytes of the reply's data,
which together are all of them; every other message is one frame, with the request's tag in a reply and TAG 0 in an
EVENT or DELIVER (R178, R185). Every LOCKAGE and TALLY record is laid out by R186's tables, each number that fits its
field high byte first; DELIVER carries those bytes and PEEK the same after its count (R186). Where a reply is cut into
its parts, and the data bytes of every other reply, are open (log entries 4 and 34). -/
def Obligations.FramesPassTheirCheck : Prop :=
  (∀ (k : MessageKind) (tag : Tag) (body : List Byte), body.length ≤ 238 →
    ∃ rest, frame k tag body = 0xA5#8 :: BitVec.ofNat 8 (body.length + 2) :: rest
      ∧ rest.length = body.length + 4
      ∧ rest.take (body.length + 2) = Config.kindCode k :: tag :: body
      ∧ frameOk (body.length + 2) rest = true)
    ∧ (∀ (tag : Tag) (mark : Option Bool) (d : ReplyData), ∃ chunks : List (List Byte),
        chunks ≠ [] ∧ (∀ c ∈ chunks, c.length ≤ 236) ∧ chunks.flatten = dataBytes mark d
          ∧ (Msg.accepted tag mark d).frames = chunks.zipIdx.map fun x => frame .accepted tag
              (BitVec.ofNat 8 (x.2 + 1) :: BitVec.ofNat 8 chunks.length :: x.1))
    ∧ (∀ (tag : Tag) (mark : Option Bool) (r : Reason) (c : Conditions) (e : Event) (x : Record),
        (∃ body, (Msg.refused tag mark r).frames = [frame .refused tag body])
          ∧ (∃ body, (Msg.condition tag c).frames = [frame .condition tag body])
          ∧ (∃ body, (Msg.event e).frames = [frame .event 0 body])
          ∧ (Msg.deliver x).frames = [frame .deliver 0 (recordBytes x)])
    ∧ (∀ (mark : Option Bool) (n : Nat), ∃ count : List Byte, ∀ x : Record,
        dataBytes mark (.peek n (some x)) = count ++ recordBytes x)
    ∧ let field := fun (body : List Byte) (offset n v : Nat) => v < 256 ^ n →
        ((body.drop offset).take n).foldl (fun (m : Nat) (b : Byte) => 256 * m + b.toNat) 0 = v
      let flags := fun (bs : List Bool) => (bs.zipIdx.map fun x => if x.1 then 2 ^ x.2 else 0).sum
      (∀ (sequence : Nat) (r : LockageRecord),
         let body := recordBytes ⟨sequence, .lockage r⟩
         body.length = 39 + 31 * r.lines.length
           ∧ field body 0 1 1 ∧ field body 1 2 sequence ∧ field body 3 2 r.number
           ∧ field body 5 1 (match r.direction with
             | .up => 0
             | .down => 1)
           ∧ field body 6 1 (match r.cls with
             | .a => 0
             | .b => 1
             | .c => 2)
           ∧ field body 7 1 (match r.outcome with
             | .completed => 0
             | .completedLate => 1
             | .returned => 2
             | .withdrawn => 3
             | .abandoned => 4)
           ∧ field body 8 2 r.turnTime.day ∧ field body 10 4 r.turnTime.second
           ∧ field body 14 2 r.endTime.day ∧ field body 16 4 r.endTime.second
           ∧ field body 20 1 r.headDraws ∧ field body 21 4 r.waterDue ∧ field body 25 4 r.waterCharged
           ∧ field body 29 4 r.waterWaived ∧ field body 33 1 (flags [r.tideWait, r.late])
           ∧ field body 34 4 r.total ∧ field body 38 1 r.lines.length
           ∧ ∀ (i : Nat) (x : Line), r.lines[i]? = some x →
               let line := (body.drop (39 + 31 * i)).take 31
               line.length = 31 ∧ field line 0 2 x.ticket
                 ∧ (x.hull.length ≤ 8 →
                     (line.drop 2).take 8 = x.hull ++ List.replicate (8 - x.hull.length) 0)
                 ∧ field line 10 1 (match x.cls with
                   | .pleasure => 0
                   | .passenger => 1
                   | .dryCargo => 2
                   | .tanker => 3
                   | .pushTow => 4
                   | .workCraft => 5
                   | .authority => 6
                   | .rescue => 7)
                 ∧ field line 11 2 x.length
                 ∧ field line 13 1 (match x.accountKind with
                   | .cash => 0
                   | .account => 1
                   | .pass => 2)
                 ∧ field line 14 4 (x.accountNumber.getD 0) ∧ field line 18 4 x.tariffFee
                 ∧ field line 22 4 x.waterShare ∧ field line 26 4 x.lineFee
                 ∧ field line 30 1 (flags [x.roundedUp, x.capped, x.exempt, x.creditFloored]))
        ∧ ∀ (sequence : Nat) (r : TallyRecord),
            let body := recordBytes ⟨sequence, .tally r⟩
            let c := r.counts
            body.length = 28 ∧ field body 0 1 2 ∧ field body 1 2 sequence ∧ field body 3 2 r.number
              ∧ field body 5 1 (flags [r.forced, r.periodic, r.saturated])
              ∧ field body 6 2 c.lockageRecords ∧ field body 8 2 c.vessels ∧ field body 10 2 c.completed
              ∧ field body 12 2 c.completedLate ∧ field body 14 2 c.returned ∧ field body 16 2 c.withdrawn
              ∧ field body 18 2 c.abandoned ∧ field body 20 2 c.lostToReset ∧ field body 22 2 c.headDraws
              ∧ field body 24 4 c.tollSum
end

