-- ==== Sys2Proof/Laws/Containers.lean ====
section
/-! SUPPORT. Reading after writing in the small containers: one lemma each for the same key and for another. -/

namespace Sys2Proof

variable {α β : Type}

@[simp] theorem Five.get_set_self (v : Five α) (r : Reach) (x : α) : (v.set r x).get r = x := by
  cases r <;> rfl

theorem Five.get_set_ne (v : Five α) (r q : Reach) (x : α) (h : q ≠ r) : (v.set r x).get q = v.get q := by
  cases r <;> cases q <;> first | rfl | exact absurd rfl h

theorem Five.get_set (v : Five α) (r q : Reach) (x : α) :
    (v.set r x).get q = if q = r then x else v.get q := by
  by_cases h : q = r
  · subst h; simp
  · simp [Five.get_set_ne v r q x h, h]

@[simp] theorem Five.get_map (f : α → β) (v : Five α) (r : Reach) : (v.map f).get r = f (v.get r) := by
  cases r <;> rfl

theorem Five.ext_get {v w : Five α} (h : ∀ r, v.get r = w.get r) : v = w := by
  cases v; cases w
  have a := h .head; have b := h .c1; have c := h .c2; have d := h .c3; have e := h .tail
  simp_all [Five.get]

@[simp] theorem Four.get_set_self (v : Four α) (g : Gate) (x : α) : (v.set g x).get g = x := by
  cases g <;> rfl

theorem Four.get_set_ne (v : Four α) (g k : Gate) (x : α) (h : k ≠ g) : (v.set g x).get k = v.get k := by
  cases g <;> cases k <;> first | rfl | exact absurd rfl h

theorem Four.get_set (v : Four α) (g k : Gate) (x : α) :
    (v.set g x).get k = if k = g then x else v.get k := by
  by_cases h : k = g
  · subst h; simp
  · simp [Four.get_set_ne v g k x h, h]

@[simp] theorem Four.get_map (f : α → β) (v : Four α) (g : Gate) : (v.map f).get g = f (v.get g) := by
  cases g <;> rfl

theorem Four.ext_get {v w : Four α} (h : ∀ g, v.get g = w.get g) : v = w := by
  cases v; cases w
  have a := h .g0; have b := h .g1; have c := h .g2; have d := h .g3
  simp_all [Four.get]

@[simp] theorem Four.set_get (v : Four α) (g : Gate) : v.set g (v.get g) = v := by
  cases g <;> rfl

@[simp] theorem Three.get_set_self (v : Three α) (q : Port) (x : α) : (v.set q x).get q = x := by
  cases q <;> rfl

theorem Three.get_set_ne (v : Three α) (q o : Port) (x : α) (h : o ≠ q) : (v.set q x).get o = v.get o := by
  cases q <;> cases o <;> first | rfl | exact absurd rfl h

theorem Three.get_set (v : Three α) (q o : Port) (x : α) :
    (v.set q x).get o = if o = q then x else v.get o := by
  by_cases h : o = q
  · subst h; simp
  · simp [Three.get_set_ne v q o x h, h]

@[simp] theorem Three.get_map (f : α → β) (v : Three α) (q : Port) : (v.map f).get q = f (v.get q) := by
  cases q <;> rfl

@[simp] theorem faceOf_faceMap (x : Face → α) (f : Face) : faceOf (faceMap x) f = x f := by
  obtain ⟨g, s⟩ := f; cases g <;> cases s <;> rfl

@[simp] theorem lampOf_lampMap (x : Face → Colour → α) (f : Face) (c : Colour) :
    lampOf (lampMap x) f c = x f c := by
  obtain ⟨g, s⟩ := f; cases g <;> cases s <;> cases c <;> rfl

@[simp] theorem faceOf_setFace_self (v : FaceMap α) (f : Face) (x : α) : faceOf (setFace v f x) f = x := by
  obtain ⟨g, s⟩ := f; cases g <;> cases s <;> rfl

theorem faceOf_setFace_ne (v : FaceMap α) (f e : Face) (x : α) (h : e ≠ f) :
    faceOf (setFace v f x) e = faceOf v e := by
  obtain ⟨g, s⟩ := f; obtain ⟨k, t⟩ := e
  cases g <;> cases s <;> cases k <;> cases t <;> first | rfl | exact absurd rfl h

theorem faceOf_setFace (v : FaceMap α) (f e : Face) (x : α) :
    faceOf (setFace v f x) e = if e = f then x else faceOf v e := by
  by_cases h : e = f
  · subst h; simp
  · simp [faceOf_setFace_ne v f e x h, h]

end Sys2Proof
end

