-- ==== Sys2Proof/Laws/State.lean ====
section
/-! SUPPORT. What each primitive update of the part leaves of every other field, one lemma per field. -/

namespace Sys2Proof.Machine

variable (p : Part)

@[simp] theorem send_mode (q : Port) (m : Msg) : (p.send q m).mode = p.mode := rfl
@[simp] theorem send_eStop (q : Port) (m : Msg) : (p.send q m).eStop = p.eStop := rfl
@[simp] theorem send_navInhibit (q : Port) (m : Msg) : (p.send q m).navInhibit = p.navInhibit := rfl
@[simp] theorem send_straps (q : Port) (m : Msg) : (p.send q m).straps = p.straps := rfl
@[simp] theorem send_reaches (q : Port) (m : Msg) : (p.send q m).reaches = p.reaches := rfl
@[simp] theorem send_gates (q : Port) (m : Msg) : (p.send q m).gates = p.gates := rfl
@[simp] theorem send_sluices (q : Port) (m : Msg) : (p.send q m).sluices = p.sluices := rfl
@[simp] theorem send_faces (q : Port) (m : Msg) : (p.send q m).faces = p.faces := rfl
@[simp] theorem send_lamps (q : Port) (m : Msg) : (p.send q m).lamps = p.lamps := rfl
@[simp] theorem send_lampTimer (q : Port) (m : Msg) : (p.send q m).lampTimer = p.lampTimer := rfl
@[simp] theorem send_upQueue (q : Port) (m : Msg) : (p.send q m).upQueue = p.upQueue := rfl
@[simp] theorem send_downQueue (q : Port) (m : Msg) : (p.send q m).downQueue = p.downQueue := rfl
@[simp] theorem send_nextTicket (q : Port) (m : Msg) : (p.send q m).nextTicket = p.nextTicket := rfl
@[simp] theorem send_calls (q : Port) (m : Msg) : (p.send q m).calls = p.calls := rfl
@[simp] theorem send_turn (q : Port) (m : Msg) : (p.send q m).turn = p.turn := rfl
@[simp] theorem send_lockage (q : Port) (m : Msg) : (p.send q m).lockage = p.lockage := rfl
@[simp] theorem send_faults (q : Port) (m : Msg) : (p.send q m).faults = p.faults := rfl
@[simp] theorem send_outlets (q : Port) (m : Msg) : (p.send q m).outlets = p.outlets := rfl
@[simp] theorem send_settings (q : Port) (m : Msg) : (p.send q m).settings = p.settings := rfl
@[simp] theorem send_clock (q : Port) (m : Msg) : (p.send q m).clock = p.clock := rfl
@[simp] theorem send_secondCount (q : Port) (m : Msg) : (p.send q m).secondCount = p.secondCount := rfl
@[simp] theorem send_link (q : Port) (m : Msg) : (p.send q m).link = p.link := rfl

@[simp] theorem event_mode (e : Event) : (p.event e).mode = p.mode := rfl
@[simp] theorem event_eStop (e : Event) : (p.event e).eStop = p.eStop := rfl
@[simp] theorem event_navInhibit (e : Event) : (p.event e).navInhibit = p.navInhibit := rfl
@[simp] theorem event_straps (e : Event) : (p.event e).straps = p.straps := rfl
@[simp] theorem event_reaches (e : Event) : (p.event e).reaches = p.reaches := rfl
@[simp] theorem event_gates (e : Event) : (p.event e).gates = p.gates := rfl
@[simp] theorem event_sluices (e : Event) : (p.event e).sluices = p.sluices := rfl
@[simp] theorem event_faces (e : Event) : (p.event e).faces = p.faces := rfl
@[simp] theorem event_lamps (e : Event) : (p.event e).lamps = p.lamps := rfl
@[simp] theorem event_lampTimer (e : Event) : (p.event e).lampTimer = p.lampTimer := rfl
@[simp] theorem event_upQueue (e : Event) : (p.event e).upQueue = p.upQueue := rfl
@[simp] theorem event_downQueue (e : Event) : (p.event e).downQueue = p.downQueue := rfl
@[simp] theorem event_nextTicket (e : Event) : (p.event e).nextTicket = p.nextTicket := rfl
@[simp] theorem event_calls (e : Event) : (p.event e).calls = p.calls := rfl
@[simp] theorem event_turn (e : Event) : (p.event e).turn = p.turn := rfl
@[simp] theorem event_lockage (e : Event) : (p.event e).lockage = p.lockage := rfl
@[simp] theorem event_faults (e : Event) : (p.event e).faults = p.faults := rfl
@[simp] theorem event_outlets (e : Event) : (p.event e).outlets = p.outlets := rfl
@[simp] theorem event_settings (e : Event) : (p.event e).settings = p.settings := rfl
@[simp] theorem event_clock (e : Event) : (p.event e).clock = p.clock := rfl
@[simp] theorem event_secondCount (e : Event) : (p.event e).secondCount = p.secondCount := rfl
@[simp] theorem event_link (e : Event) : (p.event e).link = p.link := rfl

@[simp] theorem accept_mode (q : Port) (tag : Tag) (d : ReplyData) : (p.accept q tag d).mode = p.mode := rfl
@[simp] theorem accept_eStop (q : Port) (tag : Tag) (d : ReplyData) : (p.accept q tag d).eStop = p.eStop := rfl
@[simp] theorem accept_navInhibit (q : Port) (tag : Tag) (d : ReplyData) : (p.accept q tag d).navInhibit = p.navInhibit := rfl
@[simp] theorem accept_straps (q : Port) (tag : Tag) (d : ReplyData) : (p.accept q tag d).straps = p.straps := rfl
@[simp] theorem accept_reaches (q : Port) (tag : Tag) (d : ReplyData) : (p.accept q tag d).reaches = p.reaches := rfl
@[simp] theorem accept_gates (q : Port) (tag : Tag) (d : ReplyData) : (p.accept q tag d).gates = p.gates := rfl
@[simp] theorem accept_sluices (q : Port) (tag : Tag) (d : ReplyData) : (p.accept q tag d).sluices = p.sluices := rfl
@[simp] theorem accept_faces (q : Port) (tag : Tag) (d : ReplyData) : (p.accept q tag d).faces = p.faces := rfl
@[simp] theorem accept_lamps (q : Port) (tag : Tag) (d : ReplyData) : (p.accept q tag d).lamps = p.lamps := rfl
@[simp] theorem accept_lampTimer (q : Port) (tag : Tag) (d : ReplyData) : (p.accept q tag d).lampTimer = p.lampTimer := rfl
@[simp] theorem accept_upQueue (q : Port) (tag : Tag) (d : ReplyData) : (p.accept q tag d).upQueue = p.upQueue := rfl
@[simp] theorem accept_downQueue (q : Port) (tag : Tag) (d : ReplyData) : (p.accept q tag d).downQueue = p.downQueue := rfl
@[simp] theorem accept_nextTicket (q : Port) (tag : Tag) (d : ReplyData) : (p.accept q tag d).nextTicket = p.nextTicket := rfl
@[simp] theorem accept_calls (q : Port) (tag : Tag) (d : ReplyData) : (p.accept q tag d).calls = p.calls := rfl
@[simp] theorem accept_turn (q : Port) (tag : Tag) (d : ReplyData) : (p.accept q tag d).turn = p.turn := rfl
@[simp] theorem accept_lockage (q : Port) (tag : Tag) (d : ReplyData) : (p.accept q tag d).lockage = p.lockage := rfl
@[simp] theorem accept_faults (q : Port) (tag : Tag) (d : ReplyData) : (p.accept q tag d).faults = p.faults := rfl
@[simp] theorem accept_outlets (q : Port) (tag : Tag) (d : ReplyData) : (p.accept q tag d).outlets = p.outlets := rfl
@[simp] theorem accept_settings (q : Port) (tag : Tag) (d : ReplyData) : (p.accept q tag d).settings = p.settings := rfl
@[simp] theorem accept_clock (q : Port) (tag : Tag) (d : ReplyData) : (p.accept q tag d).clock = p.clock := rfl
@[simp] theorem accept_secondCount (q : Port) (tag : Tag) (d : ReplyData) : (p.accept q tag d).secondCount = p.secondCount := rfl
@[simp] theorem accept_link (q : Port) (tag : Tag) (d : ReplyData) : (p.accept q tag d).link = p.link := rfl

@[simp] theorem refuse_mode (q : Port) (tag : Tag) (x : Reason) : (p.refuse q tag x).mode = p.mode := rfl
@[simp] theorem refuse_eStop (q : Port) (tag : Tag) (x : Reason) : (p.refuse q tag x).eStop = p.eStop := rfl
@[simp] theorem refuse_navInhibit (q : Port) (tag : Tag) (x : Reason) : (p.refuse q tag x).navInhibit = p.navInhibit := rfl
@[simp] theorem refuse_straps (q : Port) (tag : Tag) (x : Reason) : (p.refuse q tag x).straps = p.straps := rfl
@[simp] theorem refuse_reaches (q : Port) (tag : Tag) (x : Reason) : (p.refuse q tag x).reaches = p.reaches := rfl
@[simp] theorem refuse_gates (q : Port) (tag : Tag) (x : Reason) : (p.refuse q tag x).gates = p.gates := rfl
@[simp] theorem refuse_sluices (q : Port) (tag : Tag) (x : Reason) : (p.refuse q tag x).sluices = p.sluices := rfl
@[simp] theorem refuse_faces (q : Port) (tag : Tag) (x : Reason) : (p.refuse q tag x).faces = p.faces := rfl
@[simp] theorem refuse_lamps (q : Port) (tag : Tag) (x : Reason) : (p.refuse q tag x).lamps = p.lamps := rfl
@[simp] theorem refuse_lampTimer (q : Port) (tag : Tag) (x : Reason) : (p.refuse q tag x).lampTimer = p.lampTimer := rfl
@[simp] theorem refuse_upQueue (q : Port) (tag : Tag) (x : Reason) : (p.refuse q tag x).upQueue = p.upQueue := rfl
@[simp] theorem refuse_downQueue (q : Port) (tag : Tag) (x : Reason) : (p.refuse q tag x).downQueue = p.downQueue := rfl
@[simp] theorem refuse_nextTicket (q : Port) (tag : Tag) (x : Reason) : (p.refuse q tag x).nextTicket = p.nextTicket := rfl
@[simp] theorem refuse_calls (q : Port) (tag : Tag) (x : Reason) : (p.refuse q tag x).calls = p.calls := rfl
@[simp] theorem refuse_turn (q : Port) (tag : Tag) (x : Reason) : (p.refuse q tag x).turn = p.turn := rfl
@[simp] theorem refuse_lockage (q : Port) (tag : Tag) (x : Reason) : (p.refuse q tag x).lockage = p.lockage := rfl
@[simp] theorem refuse_faults (q : Port) (tag : Tag) (x : Reason) : (p.refuse q tag x).faults = p.faults := rfl
@[simp] theorem refuse_outlets (q : Port) (tag : Tag) (x : Reason) : (p.refuse q tag x).outlets = p.outlets := rfl
@[simp] theorem refuse_settings (q : Port) (tag : Tag) (x : Reason) : (p.refuse q tag x).settings = p.settings := rfl
@[simp] theorem refuse_clock (q : Port) (tag : Tag) (x : Reason) : (p.refuse q tag x).clock = p.clock := rfl
@[simp] theorem refuse_secondCount (q : Port) (tag : Tag) (x : Reason) : (p.refuse q tag x).secondCount = p.secondCount := rfl
@[simp] theorem refuse_link (q : Port) (tag : Tag) (x : Reason) : (p.refuse q tag x).link = p.link := rfl

@[simp] theorem note_mode (f : Conditions → Conditions) : (p.note f).mode = p.mode := rfl
@[simp] theorem note_eStop (f : Conditions → Conditions) : (p.note f).eStop = p.eStop := rfl
@[simp] theorem note_navInhibit (f : Conditions → Conditions) : (p.note f).navInhibit = p.navInhibit := rfl
@[simp] theorem note_straps (f : Conditions → Conditions) : (p.note f).straps = p.straps := rfl
@[simp] theorem note_reaches (f : Conditions → Conditions) : (p.note f).reaches = p.reaches := rfl
@[simp] theorem note_gates (f : Conditions → Conditions) : (p.note f).gates = p.gates := rfl
@[simp] theorem note_sluices (f : Conditions → Conditions) : (p.note f).sluices = p.sluices := rfl
@[simp] theorem note_faces (f : Conditions → Conditions) : (p.note f).faces = p.faces := rfl
@[simp] theorem note_lamps (f : Conditions → Conditions) : (p.note f).lamps = p.lamps := rfl
@[simp] theorem note_lampTimer (f : Conditions → Conditions) : (p.note f).lampTimer = p.lampTimer := rfl
@[simp] theorem note_upQueue (f : Conditions → Conditions) : (p.note f).upQueue = p.upQueue := rfl
@[simp] theorem note_downQueue (f : Conditions → Conditions) : (p.note f).downQueue = p.downQueue := rfl
@[simp] theorem note_nextTicket (f : Conditions → Conditions) : (p.note f).nextTicket = p.nextTicket := rfl
@[simp] theorem note_calls (f : Conditions → Conditions) : (p.note f).calls = p.calls := rfl
@[simp] theorem note_turn (f : Conditions → Conditions) : (p.note f).turn = p.turn := rfl
@[simp] theorem note_lockage (f : Conditions → Conditions) : (p.note f).lockage = p.lockage := rfl
@[simp] theorem note_faults (f : Conditions → Conditions) : (p.note f).faults = p.faults := rfl
@[simp] theorem note_outlets (f : Conditions → Conditions) : (p.note f).outlets = p.outlets := rfl
@[simp] theorem note_settings (f : Conditions → Conditions) : (p.note f).settings = p.settings := rfl
@[simp] theorem note_clock (f : Conditions → Conditions) : (p.note f).clock = p.clock := rfl
@[simp] theorem note_secondCount (f : Conditions → Conditions) : (p.note f).secondCount = p.secondCount := rfl
@[simp] theorem note_sent (f : Conditions → Conditions) : (p.note f).sent = p.sent := rfl

@[simp] theorem onLockage_mode (f : Lockage → Lockage) : (p.onLockage f).mode = p.mode := rfl
@[simp] theorem onLockage_eStop (f : Lockage → Lockage) : (p.onLockage f).eStop = p.eStop := rfl
@[simp] theorem onLockage_navInhibit (f : Lockage → Lockage) : (p.onLockage f).navInhibit = p.navInhibit := rfl
@[simp] theorem onLockage_straps (f : Lockage → Lockage) : (p.onLockage f).straps = p.straps := rfl
@[simp] theorem onLockage_reaches (f : Lockage → Lockage) : (p.onLockage f).reaches = p.reaches := rfl
@[simp] theorem onLockage_gates (f : Lockage → Lockage) : (p.onLockage f).gates = p.gates := rfl
@[simp] theorem onLockage_sluices (f : Lockage → Lockage) : (p.onLockage f).sluices = p.sluices := rfl
@[simp] theorem onLockage_faces (f : Lockage → Lockage) : (p.onLockage f).faces = p.faces := rfl
@[simp] theorem onLockage_lamps (f : Lockage → Lockage) : (p.onLockage f).lamps = p.lamps := rfl
@[simp] theorem onLockage_lampTimer (f : Lockage → Lockage) : (p.onLockage f).lampTimer = p.lampTimer := rfl
@[simp] theorem onLockage_upQueue (f : Lockage → Lockage) : (p.onLockage f).upQueue = p.upQueue := rfl
@[simp] theorem onLockage_downQueue (f : Lockage → Lockage) : (p.onLockage f).downQueue = p.downQueue := rfl
@[simp] theorem onLockage_nextTicket (f : Lockage → Lockage) : (p.onLockage f).nextTicket = p.nextTicket := rfl
@[simp] theorem onLockage_calls (f : Lockage → Lockage) : (p.onLockage f).calls = p.calls := rfl
@[simp] theorem onLockage_turn (f : Lockage → Lockage) : (p.onLockage f).turn = p.turn := rfl
@[simp] theorem onLockage_faults (f : Lockage → Lockage) : (p.onLockage f).faults = p.faults := rfl
@[simp] theorem onLockage_outlets (f : Lockage → Lockage) : (p.onLockage f).outlets = p.outlets := rfl
@[simp] theorem onLockage_settings (f : Lockage → Lockage) : (p.onLockage f).settings = p.settings := rfl
@[simp] theorem onLockage_clock (f : Lockage → Lockage) : (p.onLockage f).clock = p.clock := rfl
@[simp] theorem onLockage_secondCount (f : Lockage → Lockage) : (p.onLockage f).secondCount = p.secondCount := rfl
@[simp] theorem onLockage_link (f : Lockage → Lockage) : (p.onLockage f).link = p.link := rfl
@[simp] theorem onLockage_sent (f : Lockage → Lockage) : (p.onLockage f).sent = p.sent := rfl

@[simp] theorem setStage_mode (g : Stage) : (p.setStage g).mode = p.mode := rfl
@[simp] theorem setStage_eStop (g : Stage) : (p.setStage g).eStop = p.eStop := rfl
@[simp] theorem setStage_navInhibit (g : Stage) : (p.setStage g).navInhibit = p.navInhibit := rfl
@[simp] theorem setStage_straps (g : Stage) : (p.setStage g).straps = p.straps := rfl
@[simp] theorem setStage_reaches (g : Stage) : (p.setStage g).reaches = p.reaches := rfl
@[simp] theorem setStage_gates (g : Stage) : (p.setStage g).gates = p.gates := rfl
@[simp] theorem setStage_sluices (g : Stage) : (p.setStage g).sluices = p.sluices := rfl
@[simp] theorem setStage_faces (g : Stage) : (p.setStage g).faces = p.faces := rfl
@[simp] theorem setStage_lamps (g : Stage) : (p.setStage g).lamps = p.lamps := rfl
@[simp] theorem setStage_lampTimer (g : Stage) : (p.setStage g).lampTimer = p.lampTimer := rfl
@[simp] theorem setStage_upQueue (g : Stage) : (p.setStage g).upQueue = p.upQueue := rfl
@[simp] theorem setStage_downQueue (g : Stage) : (p.setStage g).downQueue = p.downQueue := rfl
@[simp] theorem setStage_nextTicket (g : Stage) : (p.setStage g).nextTicket = p.nextTicket := rfl
@[simp] theorem setStage_calls (g : Stage) : (p.setStage g).calls = p.calls := rfl
@[simp] theorem setStage_turn (g : Stage) : (p.setStage g).turn = p.turn := rfl
@[simp] theorem setStage_faults (g : Stage) : (p.setStage g).faults = p.faults := rfl
@[simp] theorem setStage_outlets (g : Stage) : (p.setStage g).outlets = p.outlets := rfl
@[simp] theorem setStage_settings (g : Stage) : (p.setStage g).settings = p.settings := rfl
@[simp] theorem setStage_clock (g : Stage) : (p.setStage g).clock = p.clock := rfl
@[simp] theorem setStage_secondCount (g : Stage) : (p.setStage g).secondCount = p.secondCount := rfl
@[simp] theorem setStage_link (g : Stage) : (p.setStage g).link = p.link := rfl
@[simp] theorem setStage_sent (g : Stage) : (p.setStage g).sent = p.sent := rfl

@[simp] theorem reachTravel_mode (ph : Phase) : (p.reachTravel ph).mode = p.mode := rfl
@[simp] theorem reachTravel_eStop (ph : Phase) : (p.reachTravel ph).eStop = p.eStop := rfl
@[simp] theorem reachTravel_navInhibit (ph : Phase) : (p.reachTravel ph).navInhibit = p.navInhibit := rfl
@[simp] theorem reachTravel_straps (ph : Phase) : (p.reachTravel ph).straps = p.straps := rfl
@[simp] theorem reachTravel_reaches (ph : Phase) : (p.reachTravel ph).reaches = p.reaches := rfl
@[simp] theorem reachTravel_gates (ph : Phase) : (p.reachTravel ph).gates = p.gates := rfl
@[simp] theorem reachTravel_sluices (ph : Phase) : (p.reachTravel ph).sluices = p.sluices := rfl
@[simp] theorem reachTravel_faces (ph : Phase) : (p.reachTravel ph).faces = p.faces := rfl
@[simp] theorem reachTravel_lamps (ph : Phase) : (p.reachTravel ph).lamps = p.lamps := rfl
@[simp] theorem reachTravel_lampTimer (ph : Phase) : (p.reachTravel ph).lampTimer = p.lampTimer := rfl
@[simp] theorem reachTravel_upQueue (ph : Phase) : (p.reachTravel ph).upQueue = p.upQueue := rfl
@[simp] theorem reachTravel_downQueue (ph : Phase) : (p.reachTravel ph).downQueue = p.downQueue := rfl
@[simp] theorem reachTravel_nextTicket (ph : Phase) : (p.reachTravel ph).nextTicket = p.nextTicket := rfl
@[simp] theorem reachTravel_calls (ph : Phase) : (p.reachTravel ph).calls = p.calls := rfl
@[simp] theorem reachTravel_turn (ph : Phase) : (p.reachTravel ph).turn = p.turn := rfl
@[simp] theorem reachTravel_faults (ph : Phase) : (p.reachTravel ph).faults = p.faults := rfl
@[simp] theorem reachTravel_outlets (ph : Phase) : (p.reachTravel ph).outlets = p.outlets := rfl
@[simp] theorem reachTravel_settings (ph : Phase) : (p.reachTravel ph).settings = p.settings := rfl
@[simp] theorem reachTravel_clock (ph : Phase) : (p.reachTravel ph).clock = p.clock := rfl
@[simp] theorem reachTravel_secondCount (ph : Phase) : (p.reachTravel ph).secondCount = p.secondCount := rfl
@[simp] theorem reachTravel_link (ph : Phase) : (p.reachTravel ph).link = p.link := rfl
@[simp] theorem reachTravel_sent (ph : Phase) : (p.reachTravel ph).sent = p.sent := rfl

@[simp] theorem stopLockageTimers_mode : (p.stopLockageTimers).mode = p.mode := rfl
@[simp] theorem stopLockageTimers_eStop : (p.stopLockageTimers).eStop = p.eStop := rfl
@[simp] theorem stopLockageTimers_navInhibit : (p.stopLockageTimers).navInhibit = p.navInhibit := rfl
@[simp] theorem stopLockageTimers_straps : (p.stopLockageTimers).straps = p.straps := rfl
@[simp] theorem stopLockageTimers_reaches : (p.stopLockageTimers).reaches = p.reaches := rfl
@[simp] theorem stopLockageTimers_gates : (p.stopLockageTimers).gates = p.gates := rfl
@[simp] theorem stopLockageTimers_sluices : (p.stopLockageTimers).sluices = p.sluices := rfl
@[simp] theorem stopLockageTimers_faces : (p.stopLockageTimers).faces = p.faces := rfl
@[simp] theorem stopLockageTimers_lamps : (p.stopLockageTimers).lamps = p.lamps := rfl
@[simp] theorem stopLockageTimers_lampTimer : (p.stopLockageTimers).lampTimer = p.lampTimer := rfl
@[simp] theorem stopLockageTimers_upQueue : (p.stopLockageTimers).upQueue = p.upQueue := rfl
@[simp] theorem stopLockageTimers_downQueue : (p.stopLockageTimers).downQueue = p.downQueue := rfl
@[simp] theorem stopLockageTimers_nextTicket : (p.stopLockageTimers).nextTicket = p.nextTicket := rfl
@[simp] theorem stopLockageTimers_calls : (p.stopLockageTimers).calls = p.calls := rfl
@[simp] theorem stopLockageTimers_turn : (p.stopLockageTimers).turn = p.turn := rfl
@[simp] theorem stopLockageTimers_faults : (p.stopLockageTimers).faults = p.faults := rfl
@[simp] theorem stopLockageTimers_outlets : (p.stopLockageTimers).outlets = p.outlets := rfl
@[simp] theorem stopLockageTimers_settings : (p.stopLockageTimers).settings = p.settings := rfl
@[simp] theorem stopLockageTimers_clock : (p.stopLockageTimers).clock = p.clock := rfl
@[simp] theorem stopLockageTimers_secondCount : (p.stopLockageTimers).secondCount = p.secondCount := rfl
@[simp] theorem stopLockageTimers_link : (p.stopLockageTimers).link = p.link := rfl
@[simp] theorem stopLockageTimers_sent : (p.stopLockageTimers).sent = p.sent := rfl

@[simp] theorem clearReported_mode : (p.clearReported).mode = p.mode := rfl
@[simp] theorem clearReported_eStop : (p.clearReported).eStop = p.eStop := rfl
@[simp] theorem clearReported_navInhibit : (p.clearReported).navInhibit = p.navInhibit := rfl
@[simp] theorem clearReported_straps : (p.clearReported).straps = p.straps := rfl
@[simp] theorem clearReported_reaches : (p.clearReported).reaches = p.reaches := rfl
@[simp] theorem clearReported_gates : (p.clearReported).gates = p.gates := rfl
@[simp] theorem clearReported_sluices : (p.clearReported).sluices = p.sluices := rfl
@[simp] theorem clearReported_faces : (p.clearReported).faces = p.faces := rfl
@[simp] theorem clearReported_lamps : (p.clearReported).lamps = p.lamps := rfl
@[simp] theorem clearReported_lampTimer : (p.clearReported).lampTimer = p.lampTimer := rfl
@[simp] theorem clearReported_upQueue : (p.clearReported).upQueue = p.upQueue := rfl
@[simp] theorem clearReported_downQueue : (p.clearReported).downQueue = p.downQueue := rfl
@[simp] theorem clearReported_nextTicket : (p.clearReported).nextTicket = p.nextTicket := rfl
@[simp] theorem clearReported_calls : (p.clearReported).calls = p.calls := rfl
@[simp] theorem clearReported_turn : (p.clearReported).turn = p.turn := rfl
@[simp] theorem clearReported_lockage : (p.clearReported).lockage = p.lockage := rfl
@[simp] theorem clearReported_outlets : (p.clearReported).outlets = p.outlets := rfl
@[simp] theorem clearReported_settings : (p.clearReported).settings = p.settings := rfl
@[simp] theorem clearReported_clock : (p.clearReported).clock = p.clock := rfl
@[simp] theorem clearReported_secondCount : (p.clearReported).secondCount = p.secondCount := rfl
@[simp] theorem clearReported_link : (p.clearReported).link = p.link := rfl
@[simp] theorem clearReported_sent : (p.clearReported).sent = p.sent := rfl

@[simp] theorem setRequested_mode (f : Face) (a : Aspect) : (p.setRequested f a).mode = p.mode := rfl
@[simp] theorem setRequested_eStop (f : Face) (a : Aspect) : (p.setRequested f a).eStop = p.eStop := rfl
@[simp] theorem setRequested_navInhibit (f : Face) (a : Aspect) : (p.setRequested f a).navInhibit = p.navInhibit := rfl
@[simp] theorem setRequested_straps (f : Face) (a : Aspect) : (p.setRequested f a).straps = p.straps := rfl
@[simp] theorem setRequested_reaches (f : Face) (a : Aspect) : (p.setRequested f a).reaches = p.reaches := rfl
@[simp] theorem setRequested_gates (f : Face) (a : Aspect) : (p.setRequested f a).gates = p.gates := rfl
@[simp] theorem setRequested_sluices (f : Face) (a : Aspect) : (p.setRequested f a).sluices = p.sluices := rfl
@[simp] theorem setRequested_lamps (f : Face) (a : Aspect) : (p.setRequested f a).lamps = p.lamps := rfl
@[simp] theorem setRequested_lampTimer (f : Face) (a : Aspect) : (p.setRequested f a).lampTimer = p.lampTimer := rfl
@[simp] theorem setRequested_upQueue (f : Face) (a : Aspect) : (p.setRequested f a).upQueue = p.upQueue := rfl
@[simp] theorem setRequested_downQueue (f : Face) (a : Aspect) : (p.setRequested f a).downQueue = p.downQueue := rfl
@[simp] theorem setRequested_nextTicket (f : Face) (a : Aspect) : (p.setRequested f a).nextTicket = p.nextTicket := rfl
@[simp] theorem setRequested_calls (f : Face) (a : Aspect) : (p.setRequested f a).calls = p.calls := rfl
@[simp] theorem setRequested_turn (f : Face) (a : Aspect) : (p.setRequested f a).turn = p.turn := rfl
@[simp] theorem setRequested_lockage (f : Face) (a : Aspect) : (p.setRequested f a).lockage = p.lockage := rfl
@[simp] theorem setRequested_faults (f : Face) (a : Aspect) : (p.setRequested f a).faults = p.faults := rfl
@[simp] theorem setRequested_outlets (f : Face) (a : Aspect) : (p.setRequested f a).outlets = p.outlets := rfl
@[simp] theorem setRequested_settings (f : Face) (a : Aspect) : (p.setRequested f a).settings = p.settings := rfl
@[simp] theorem setRequested_clock (f : Face) (a : Aspect) : (p.setRequested f a).clock = p.clock := rfl
@[simp] theorem setRequested_secondCount (f : Face) (a : Aspect) : (p.setRequested f a).secondCount = p.secondCount := rfl
@[simp] theorem setRequested_link (f : Face) (a : Aspect) : (p.setRequested f a).link = p.link := rfl
@[simp] theorem setRequested_sent (f : Face) (a : Aspect) : (p.setRequested f a).sent = p.sent := rfl

@[simp] theorem setAwaited_mode (f : Face) (b : Bool) : (p.setAwaited f b).mode = p.mode := rfl
@[simp] theorem setAwaited_eStop (f : Face) (b : Bool) : (p.setAwaited f b).eStop = p.eStop := rfl
@[simp] theorem setAwaited_navInhibit (f : Face) (b : Bool) : (p.setAwaited f b).navInhibit = p.navInhibit := rfl
@[simp] theorem setAwaited_straps (f : Face) (b : Bool) : (p.setAwaited f b).straps = p.straps := rfl
@[simp] theorem setAwaited_reaches (f : Face) (b : Bool) : (p.setAwaited f b).reaches = p.reaches := rfl
@[simp] theorem setAwaited_gates (f : Face) (b : Bool) : (p.setAwaited f b).gates = p.gates := rfl
@[simp] theorem setAwaited_sluices (f : Face) (b : Bool) : (p.setAwaited f b).sluices = p.sluices := rfl
@[simp] theorem setAwaited_lamps (f : Face) (b : Bool) : (p.setAwaited f b).lamps = p.lamps := rfl
@[simp] theorem setAwaited_lampTimer (f : Face) (b : Bool) : (p.setAwaited f b).lampTimer = p.lampTimer := rfl
@[simp] theorem setAwaited_upQueue (f : Face) (b : Bool) : (p.setAwaited f b).upQueue = p.upQueue := rfl
@[simp] theorem setAwaited_downQueue (f : Face) (b : Bool) : (p.setAwaited f b).downQueue = p.downQueue := rfl
@[simp] theorem setAwaited_nextTicket (f : Face) (b : Bool) : (p.setAwaited f b).nextTicket = p.nextTicket := rfl
@[simp] theorem setAwaited_calls (f : Face) (b : Bool) : (p.setAwaited f b).calls = p.calls := rfl
@[simp] theorem setAwaited_turn (f : Face) (b : Bool) : (p.setAwaited f b).turn = p.turn := rfl
@[simp] theorem setAwaited_lockage (f : Face) (b : Bool) : (p.setAwaited f b).lockage = p.lockage := rfl
@[simp] theorem setAwaited_faults (f : Face) (b : Bool) : (p.setAwaited f b).faults = p.faults := rfl
@[simp] theorem setAwaited_outlets (f : Face) (b : Bool) : (p.setAwaited f b).outlets = p.outlets := rfl
@[simp] theorem setAwaited_settings (f : Face) (b : Bool) : (p.setAwaited f b).settings = p.settings := rfl
@[simp] theorem setAwaited_clock (f : Face) (b : Bool) : (p.setAwaited f b).clock = p.clock := rfl
@[simp] theorem setAwaited_secondCount (f : Face) (b : Bool) : (p.setAwaited f b).secondCount = p.secondCount := rfl
@[simp] theorem setAwaited_link (f : Face) (b : Bool) : (p.setAwaited f b).link = p.link := rfl
@[simp] theorem setAwaited_sent (f : Face) (b : Bool) : (p.setAwaited f b).sent = p.sent := rfl

@[simp] theorem deriveFaces_mode : (p.deriveFaces).mode = p.mode := rfl
@[simp] theorem deriveFaces_eStop : (p.deriveFaces).eStop = p.eStop := rfl
@[simp] theorem deriveFaces_navInhibit : (p.deriveFaces).navInhibit = p.navInhibit := rfl
@[simp] theorem deriveFaces_straps : (p.deriveFaces).straps = p.straps := rfl
@[simp] theorem deriveFaces_reaches : (p.deriveFaces).reaches = p.reaches := rfl
@[simp] theorem deriveFaces_gates : (p.deriveFaces).gates = p.gates := rfl
@[simp] theorem deriveFaces_sluices : (p.deriveFaces).sluices = p.sluices := rfl
@[simp] theorem deriveFaces_lamps : (p.deriveFaces).lamps = p.lamps := rfl
@[simp] theorem deriveFaces_lampTimer : (p.deriveFaces).lampTimer = p.lampTimer := rfl
@[simp] theorem deriveFaces_upQueue : (p.deriveFaces).upQueue = p.upQueue := rfl
@[simp] theorem deriveFaces_downQueue : (p.deriveFaces).downQueue = p.downQueue := rfl
@[simp] theorem deriveFaces_nextTicket : (p.deriveFaces).nextTicket = p.nextTicket := rfl
@[simp] theorem deriveFaces_calls : (p.deriveFaces).calls = p.calls := rfl
@[simp] theorem deriveFaces_turn : (p.deriveFaces).turn = p.turn := rfl
@[simp] theorem deriveFaces_lockage : (p.deriveFaces).lockage = p.lockage := rfl
@[simp] theorem deriveFaces_faults : (p.deriveFaces).faults = p.faults := rfl
@[simp] theorem deriveFaces_outlets : (p.deriveFaces).outlets = p.outlets := rfl
@[simp] theorem deriveFaces_settings : (p.deriveFaces).settings = p.settings := rfl
@[simp] theorem deriveFaces_clock : (p.deriveFaces).clock = p.clock := rfl
@[simp] theorem deriveFaces_secondCount : (p.deriveFaces).secondCount = p.secondCount := rfl
@[simp] theorem deriveFaces_link : (p.deriveFaces).link = p.link := rfl
@[simp] theorem deriveFaces_sent : (p.deriveFaces).sent = p.sent := rfl

@[simp] theorem followLamps_mode : (p.followLamps).mode = p.mode := rfl
@[simp] theorem followLamps_eStop : (p.followLamps).eStop = p.eStop := rfl
@[simp] theorem followLamps_navInhibit : (p.followLamps).navInhibit = p.navInhibit := rfl
@[simp] theorem followLamps_straps : (p.followLamps).straps = p.straps := rfl
@[simp] theorem followLamps_reaches : (p.followLamps).reaches = p.reaches := rfl
@[simp] theorem followLamps_gates : (p.followLamps).gates = p.gates := rfl
@[simp] theorem followLamps_sluices : (p.followLamps).sluices = p.sluices := rfl
@[simp] theorem followLamps_faces : (p.followLamps).faces = p.faces := rfl
@[simp] theorem followLamps_lampTimer : (p.followLamps).lampTimer = p.lampTimer := rfl
@[simp] theorem followLamps_upQueue : (p.followLamps).upQueue = p.upQueue := rfl
@[simp] theorem followLamps_downQueue : (p.followLamps).downQueue = p.downQueue := rfl
@[simp] theorem followLamps_nextTicket : (p.followLamps).nextTicket = p.nextTicket := rfl
@[simp] theorem followLamps_calls : (p.followLamps).calls = p.calls := rfl
@[simp] theorem followLamps_turn : (p.followLamps).turn = p.turn := rfl
@[simp] theorem followLamps_lockage : (p.followLamps).lockage = p.lockage := rfl
@[simp] theorem followLamps_faults : (p.followLamps).faults = p.faults := rfl
@[simp] theorem followLamps_outlets : (p.followLamps).outlets = p.outlets := rfl
@[simp] theorem followLamps_settings : (p.followLamps).settings = p.settings := rfl
@[simp] theorem followLamps_clock : (p.followLamps).clock = p.clock := rfl
@[simp] theorem followLamps_secondCount : (p.followLamps).secondCount = p.secondCount := rfl
@[simp] theorem followLamps_link : (p.followLamps).link = p.link := rfl
@[simp] theorem followLamps_sent : (p.followLamps).sent = p.sent := rfl

@[simp] theorem examineIsolation_mode : (p.examineIsolation).mode = p.mode := rfl
@[simp] theorem examineIsolation_eStop : (p.examineIsolation).eStop = p.eStop := rfl
@[simp] theorem examineIsolation_navInhibit : (p.examineIsolation).navInhibit = p.navInhibit := rfl
@[simp] theorem examineIsolation_straps : (p.examineIsolation).straps = p.straps := rfl
@[simp] theorem examineIsolation_gates : (p.examineIsolation).gates = p.gates := rfl
@[simp] theorem examineIsolation_sluices : (p.examineIsolation).sluices = p.sluices := rfl
@[simp] theorem examineIsolation_faces : (p.examineIsolation).faces = p.faces := rfl
@[simp] theorem examineIsolation_lamps : (p.examineIsolation).lamps = p.lamps := rfl
@[simp] theorem examineIsolation_lampTimer : (p.examineIsolation).lampTimer = p.lampTimer := rfl
@[simp] theorem examineIsolation_upQueue : (p.examineIsolation).upQueue = p.upQueue := rfl
@[simp] theorem examineIsolation_downQueue : (p.examineIsolation).downQueue = p.downQueue := rfl
@[simp] theorem examineIsolation_nextTicket : (p.examineIsolation).nextTicket = p.nextTicket := rfl
@[simp] theorem examineIsolation_calls : (p.examineIsolation).calls = p.calls := rfl
@[simp] theorem examineIsolation_turn : (p.examineIsolation).turn = p.turn := rfl
@[simp] theorem examineIsolation_lockage : (p.examineIsolation).lockage = p.lockage := rfl
@[simp] theorem examineIsolation_faults : (p.examineIsolation).faults = p.faults := rfl
@[simp] theorem examineIsolation_outlets : (p.examineIsolation).outlets = p.outlets := rfl
@[simp] theorem examineIsolation_settings : (p.examineIsolation).settings = p.settings := rfl
@[simp] theorem examineIsolation_clock : (p.examineIsolation).clock = p.clock := rfl
@[simp] theorem examineIsolation_secondCount : (p.examineIsolation).secondCount = p.secondCount := rfl
@[simp] theorem examineIsolation_link : (p.examineIsolation).link = p.link := rfl
@[simp] theorem examineIsolation_sent : (p.examineIsolation).sent = p.sent := rfl

@[simp] theorem deriveCalls_mode : (p.deriveCalls).mode = p.mode := rfl
@[simp] theorem deriveCalls_eStop : (p.deriveCalls).eStop = p.eStop := rfl
@[simp] theorem deriveCalls_navInhibit : (p.deriveCalls).navInhibit = p.navInhibit := rfl
@[simp] theorem deriveCalls_straps : (p.deriveCalls).straps = p.straps := rfl
@[simp] theorem deriveCalls_reaches : (p.deriveCalls).reaches = p.reaches := rfl
@[simp] theorem deriveCalls_gates : (p.deriveCalls).gates = p.gates := rfl
@[simp] theorem deriveCalls_sluices : (p.deriveCalls).sluices = p.sluices := rfl
@[simp] theorem deriveCalls_faces : (p.deriveCalls).faces = p.faces := rfl
@[simp] theorem deriveCalls_lamps : (p.deriveCalls).lamps = p.lamps := rfl
@[simp] theorem deriveCalls_lampTimer : (p.deriveCalls).lampTimer = p.lampTimer := rfl
@[simp] theorem deriveCalls_upQueue : (p.deriveCalls).upQueue = p.upQueue := rfl
@[simp] theorem deriveCalls_downQueue : (p.deriveCalls).downQueue = p.downQueue := rfl
@[simp] theorem deriveCalls_nextTicket : (p.deriveCalls).nextTicket = p.nextTicket := rfl
@[simp] theorem deriveCalls_turn : (p.deriveCalls).turn = p.turn := rfl
@[simp] theorem deriveCalls_lockage : (p.deriveCalls).lockage = p.lockage := rfl
@[simp] theorem deriveCalls_faults : (p.deriveCalls).faults = p.faults := rfl
@[simp] theorem deriveCalls_outlets : (p.deriveCalls).outlets = p.outlets := rfl
@[simp] theorem deriveCalls_settings : (p.deriveCalls).settings = p.settings := rfl
@[simp] theorem deriveCalls_clock : (p.deriveCalls).clock = p.clock := rfl
@[simp] theorem deriveCalls_secondCount : (p.deriveCalls).secondCount = p.secondCount := rfl
@[simp] theorem deriveCalls_link : (p.deriveCalls).link = p.link := rfl
@[simp] theorem deriveCalls_sent : (p.deriveCalls).sent = p.sent := rfl

@[simp] theorem putOutlet_mode (q : Port) (o : Outlet) : (p.putOutlet q o).mode = p.mode := rfl
@[simp] theorem putOutlet_eStop (q : Port) (o : Outlet) : (p.putOutlet q o).eStop = p.eStop := rfl
@[simp] theorem putOutlet_navInhibit (q : Port) (o : Outlet) : (p.putOutlet q o).navInhibit = p.navInhibit := rfl
@[simp] theorem putOutlet_straps (q : Port) (o : Outlet) : (p.putOutlet q o).straps = p.straps := rfl
@[simp] theorem putOutlet_reaches (q : Port) (o : Outlet) : (p.putOutlet q o).reaches = p.reaches := rfl
@[simp] theorem putOutlet_gates (q : Port) (o : Outlet) : (p.putOutlet q o).gates = p.gates := rfl
@[simp] theorem putOutlet_sluices (q : Port) (o : Outlet) : (p.putOutlet q o).sluices = p.sluices := rfl
@[simp] theorem putOutlet_faces (q : Port) (o : Outlet) : (p.putOutlet q o).faces = p.faces := rfl
@[simp] theorem putOutlet_lamps (q : Port) (o : Outlet) : (p.putOutlet q o).lamps = p.lamps := rfl
@[simp] theorem putOutlet_lampTimer (q : Port) (o : Outlet) : (p.putOutlet q o).lampTimer = p.lampTimer := rfl
@[simp] theorem putOutlet_upQueue (q : Port) (o : Outlet) : (p.putOutlet q o).upQueue = p.upQueue := rfl
@[simp] theorem putOutlet_downQueue (q : Port) (o : Outlet) : (p.putOutlet q o).downQueue = p.downQueue := rfl
@[simp] theorem putOutlet_nextTicket (q : Port) (o : Outlet) : (p.putOutlet q o).nextTicket = p.nextTicket := rfl
@[simp] theorem putOutlet_calls (q : Port) (o : Outlet) : (p.putOutlet q o).calls = p.calls := rfl
@[simp] theorem putOutlet_turn (q : Port) (o : Outlet) : (p.putOutlet q o).turn = p.turn := rfl
@[simp] theorem putOutlet_lockage (q : Port) (o : Outlet) : (p.putOutlet q o).lockage = p.lockage := rfl
@[simp] theorem putOutlet_faults (q : Port) (o : Outlet) : (p.putOutlet q o).faults = p.faults := rfl
@[simp] theorem putOutlet_settings (q : Port) (o : Outlet) : (p.putOutlet q o).settings = p.settings := rfl
@[simp] theorem putOutlet_clock (q : Port) (o : Outlet) : (p.putOutlet q o).clock = p.clock := rfl
@[simp] theorem putOutlet_secondCount (q : Port) (o : Outlet) : (p.putOutlet q o).secondCount = p.secondCount := rfl
@[simp] theorem putOutlet_link (q : Port) (o : Outlet) : (p.putOutlet q o).link = p.link := rfl
@[simp] theorem putOutlet_sent (q : Port) (o : Outlet) : (p.putOutlet q o).sent = p.sent := rfl

@[simp] theorem takePattern_mode : (p.takePattern).mode = p.mode := rfl
@[simp] theorem takePattern_eStop : (p.takePattern).eStop = p.eStop := rfl
@[simp] theorem takePattern_navInhibit : (p.takePattern).navInhibit = p.navInhibit := rfl
@[simp] theorem takePattern_straps : (p.takePattern).straps = p.straps := rfl
@[simp] theorem takePattern_reaches : (p.takePattern).reaches = p.reaches := rfl
@[simp] theorem takePattern_gates : (p.takePattern).gates = p.gates := rfl
@[simp] theorem takePattern_sluices : (p.takePattern).sluices = p.sluices := rfl
@[simp] theorem takePattern_faces : (p.takePattern).faces = p.faces := rfl
@[simp] theorem takePattern_lamps : (p.takePattern).lamps = p.lamps := rfl
@[simp] theorem takePattern_lampTimer : (p.takePattern).lampTimer = p.lampTimer := rfl
@[simp] theorem takePattern_upQueue : (p.takePattern).upQueue = p.upQueue := rfl
@[simp] theorem takePattern_downQueue : (p.takePattern).downQueue = p.downQueue := rfl
@[simp] theorem takePattern_nextTicket : (p.takePattern).nextTicket = p.nextTicket := rfl
@[simp] theorem takePattern_calls : (p.takePattern).calls = p.calls := rfl
@[simp] theorem takePattern_lockage : (p.takePattern).lockage = p.lockage := rfl
@[simp] theorem takePattern_faults : (p.takePattern).faults = p.faults := rfl
@[simp] theorem takePattern_outlets : (p.takePattern).outlets = p.outlets := rfl
@[simp] theorem takePattern_settings : (p.takePattern).settings = p.settings := rfl
@[simp] theorem takePattern_clock : (p.takePattern).clock = p.clock := rfl
@[simp] theorem takePattern_secondCount : (p.takePattern).secondCount = p.secondCount := rfl
@[simp] theorem takePattern_link : (p.takePattern).link = p.link := rfl
@[simp] theorem takePattern_sent : (p.takePattern).sent = p.sent := rfl

@[simp] theorem recompute_mode : (p.recompute).mode = p.mode := rfl
@[simp] theorem recompute_eStop : (p.recompute).eStop = p.eStop := rfl
@[simp] theorem recompute_navInhibit : (p.recompute).navInhibit = p.navInhibit := rfl
@[simp] theorem recompute_straps : (p.recompute).straps = p.straps := rfl
@[simp] theorem recompute_reaches : (p.recompute).reaches = p.reaches := rfl
@[simp] theorem recompute_gates : (p.recompute).gates = p.gates := rfl
@[simp] theorem recompute_sluices : (p.recompute).sluices = p.sluices := rfl
@[simp] theorem recompute_faces : (p.recompute).faces = p.faces := rfl
@[simp] theorem recompute_lamps : (p.recompute).lamps = p.lamps := rfl
@[simp] theorem recompute_lampTimer : (p.recompute).lampTimer = p.lampTimer := rfl
@[simp] theorem recompute_upQueue : (p.recompute).upQueue = p.upQueue := rfl
@[simp] theorem recompute_downQueue : (p.recompute).downQueue = p.downQueue := rfl
@[simp] theorem recompute_nextTicket : (p.recompute).nextTicket = p.nextTicket := rfl
@[simp] theorem recompute_calls : (p.recompute).calls = p.calls := rfl
@[simp] theorem recompute_lockage : (p.recompute).lockage = p.lockage := rfl
@[simp] theorem recompute_faults : (p.recompute).faults = p.faults := rfl
@[simp] theorem recompute_outlets : (p.recompute).outlets = p.outlets := rfl
@[simp] theorem recompute_settings : (p.recompute).settings = p.settings := rfl
@[simp] theorem recompute_clock : (p.recompute).clock = p.clock := rfl
@[simp] theorem recompute_secondCount : (p.recompute).secondCount = p.secondCount := rfl
@[simp] theorem recompute_link : (p.recompute).link = p.link := rfl
@[simp] theorem recompute_sent : (p.recompute).sent = p.sent := rfl

@[simp] theorem store_mode (f : Settings → Settings) : (p.store f).mode = p.mode := rfl
@[simp] theorem store_eStop (f : Settings → Settings) : (p.store f).eStop = p.eStop := rfl
@[simp] theorem store_navInhibit (f : Settings → Settings) : (p.store f).navInhibit = p.navInhibit := rfl
@[simp] theorem store_straps (f : Settings → Settings) : (p.store f).straps = p.straps := rfl
@[simp] theorem store_reaches (f : Settings → Settings) : (p.store f).reaches = p.reaches := rfl
@[simp] theorem store_gates (f : Settings → Settings) : (p.store f).gates = p.gates := rfl
@[simp] theorem store_sluices (f : Settings → Settings) : (p.store f).sluices = p.sluices := rfl
@[simp] theorem store_faces (f : Settings → Settings) : (p.store f).faces = p.faces := rfl
@[simp] theorem store_lamps (f : Settings → Settings) : (p.store f).lamps = p.lamps := rfl
@[simp] theorem store_lampTimer (f : Settings → Settings) : (p.store f).lampTimer = p.lampTimer := rfl
@[simp] theorem store_upQueue (f : Settings → Settings) : (p.store f).upQueue = p.upQueue := rfl
@[simp] theorem store_downQueue (f : Settings → Settings) : (p.store f).downQueue = p.downQueue := rfl
@[simp] theorem store_nextTicket (f : Settings → Settings) : (p.store f).nextTicket = p.nextTicket := rfl
@[simp] theorem store_calls (f : Settings → Settings) : (p.store f).calls = p.calls := rfl
@[simp] theorem store_turn (f : Settings → Settings) : (p.store f).turn = p.turn := rfl
@[simp] theorem store_lockage (f : Settings → Settings) : (p.store f).lockage = p.lockage := rfl
@[simp] theorem store_faults (f : Settings → Settings) : (p.store f).faults = p.faults := rfl
@[simp] theorem store_outlets (f : Settings → Settings) : (p.store f).outlets = p.outlets := rfl
@[simp] theorem store_clock (f : Settings → Settings) : (p.store f).clock = p.clock := rfl
@[simp] theorem store_secondCount (f : Settings → Settings) : (p.store f).secondCount = p.secondCount := rfl
@[simp] theorem store_link (f : Settings → Settings) : (p.store f).link = p.link := rfl
@[simp] theorem store_sent (f : Settings → Settings) : (p.store f).sent = p.sent := rfl

@[simp] theorem setReceiver_mode (q : Port) (r : Receiver) : (p.setReceiver q r).mode = p.mode := rfl
@[simp] theorem setReceiver_eStop (q : Port) (r : Receiver) : (p.setReceiver q r).eStop = p.eStop := rfl
@[simp] theorem setReceiver_navInhibit (q : Port) (r : Receiver) : (p.setReceiver q r).navInhibit = p.navInhibit := rfl
@[simp] theorem setReceiver_straps (q : Port) (r : Receiver) : (p.setReceiver q r).straps = p.straps := rfl
@[simp] theorem setReceiver_reaches (q : Port) (r : Receiver) : (p.setReceiver q r).reaches = p.reaches := rfl
@[simp] theorem setReceiver_gates (q : Port) (r : Receiver) : (p.setReceiver q r).gates = p.gates := rfl
@[simp] theorem setReceiver_sluices (q : Port) (r : Receiver) : (p.setReceiver q r).sluices = p.sluices := rfl
@[simp] theorem setReceiver_faces (q : Port) (r : Receiver) : (p.setReceiver q r).faces = p.faces := rfl
@[simp] theorem setReceiver_lamps (q : Port) (r : Receiver) : (p.setReceiver q r).lamps = p.lamps := rfl
@[simp] theorem setReceiver_lampTimer (q : Port) (r : Receiver) : (p.setReceiver q r).lampTimer = p.lampTimer := rfl
@[simp] theorem setReceiver_upQueue (q : Port) (r : Receiver) : (p.setReceiver q r).upQueue = p.upQueue := rfl
@[simp] theorem setReceiver_downQueue (q : Port) (r : Receiver) : (p.setReceiver q r).downQueue = p.downQueue := rfl
@[simp] theorem setReceiver_nextTicket (q : Port) (r : Receiver) : (p.setReceiver q r).nextTicket = p.nextTicket := rfl
@[simp] theorem setReceiver_calls (q : Port) (r : Receiver) : (p.setReceiver q r).calls = p.calls := rfl
@[simp] theorem setReceiver_turn (q : Port) (r : Receiver) : (p.setReceiver q r).turn = p.turn := rfl
@[simp] theorem setReceiver_lockage (q : Port) (r : Receiver) : (p.setReceiver q r).lockage = p.lockage := rfl
@[simp] theorem setReceiver_faults (q : Port) (r : Receiver) : (p.setReceiver q r).faults = p.faults := rfl
@[simp] theorem setReceiver_outlets (q : Port) (r : Receiver) : (p.setReceiver q r).outlets = p.outlets := rfl
@[simp] theorem setReceiver_settings (q : Port) (r : Receiver) : (p.setReceiver q r).settings = p.settings := rfl
@[simp] theorem setReceiver_clock (q : Port) (r : Receiver) : (p.setReceiver q r).clock = p.clock := rfl
@[simp] theorem setReceiver_secondCount (q : Port) (r : Receiver) : (p.setReceiver q r).secondCount = p.secondCount := rfl
@[simp] theorem setReceiver_sent (q : Port) (r : Receiver) : (p.setReceiver q r).sent = p.sent := rfl

@[simp] theorem countCheck_mode (q : Port) : (p.countCheck q).mode = p.mode := rfl
@[simp] theorem countCheck_eStop (q : Port) : (p.countCheck q).eStop = p.eStop := rfl
@[simp] theorem countCheck_navInhibit (q : Port) : (p.countCheck q).navInhibit = p.navInhibit := rfl
@[simp] theorem countCheck_straps (q : Port) : (p.countCheck q).straps = p.straps := rfl
@[simp] theorem countCheck_reaches (q : Port) : (p.countCheck q).reaches = p.reaches := rfl
@[simp] theorem countCheck_gates (q : Port) : (p.countCheck q).gates = p.gates := rfl
@[simp] theorem countCheck_sluices (q : Port) : (p.countCheck q).sluices = p.sluices := rfl
@[simp] theorem countCheck_faces (q : Port) : (p.countCheck q).faces = p.faces := rfl
@[simp] theorem countCheck_lamps (q : Port) : (p.countCheck q).lamps = p.lamps := rfl
@[simp] theorem countCheck_lampTimer (q : Port) : (p.countCheck q).lampTimer = p.lampTimer := rfl
@[simp] theorem countCheck_upQueue (q : Port) : (p.countCheck q).upQueue = p.upQueue := rfl
@[simp] theorem countCheck_downQueue (q : Port) : (p.countCheck q).downQueue = p.downQueue := rfl
@[simp] theorem countCheck_nextTicket (q : Port) : (p.countCheck q).nextTicket = p.nextTicket := rfl
@[simp] theorem countCheck_calls (q : Port) : (p.countCheck q).calls = p.calls := rfl
@[simp] theorem countCheck_turn (q : Port) : (p.countCheck q).turn = p.turn := rfl
@[simp] theorem countCheck_lockage (q : Port) : (p.countCheck q).lockage = p.lockage := rfl
@[simp] theorem countCheck_faults (q : Port) : (p.countCheck q).faults = p.faults := rfl
@[simp] theorem countCheck_outlets (q : Port) : (p.countCheck q).outlets = p.outlets := rfl
@[simp] theorem countCheck_settings (q : Port) : (p.countCheck q).settings = p.settings := rfl
@[simp] theorem countCheck_clock (q : Port) : (p.countCheck q).clock = p.clock := rfl
@[simp] theorem countCheck_secondCount (q : Port) : (p.countCheck q).secondCount = p.secondCount := rfl
@[simp] theorem countCheck_sent (q : Port) : (p.countCheck q).sent = p.sent := rfl

@[simp] theorem sendFault_mode (k : FaultKind) (x : Subject) (a : Answer) (m : Mode) : (p.sendFault k x a m).mode = p.mode := rfl
@[simp] theorem sendFault_eStop (k : FaultKind) (x : Subject) (a : Answer) (m : Mode) : (p.sendFault k x a m).eStop = p.eStop := rfl
@[simp] theorem sendFault_navInhibit (k : FaultKind) (x : Subject) (a : Answer) (m : Mode) : (p.sendFault k x a m).navInhibit = p.navInhibit := rfl
@[simp] theorem sendFault_straps (k : FaultKind) (x : Subject) (a : Answer) (m : Mode) : (p.sendFault k x a m).straps = p.straps := rfl
@[simp] theorem sendFault_reaches (k : FaultKind) (x : Subject) (a : Answer) (m : Mode) : (p.sendFault k x a m).reaches = p.reaches := rfl
@[simp] theorem sendFault_gates (k : FaultKind) (x : Subject) (a : Answer) (m : Mode) : (p.sendFault k x a m).gates = p.gates := rfl
@[simp] theorem sendFault_sluices (k : FaultKind) (x : Subject) (a : Answer) (m : Mode) : (p.sendFault k x a m).sluices = p.sluices := rfl
@[simp] theorem sendFault_faces (k : FaultKind) (x : Subject) (a : Answer) (m : Mode) : (p.sendFault k x a m).faces = p.faces := rfl
@[simp] theorem sendFault_lamps (k : FaultKind) (x : Subject) (a : Answer) (m : Mode) : (p.sendFault k x a m).lamps = p.lamps := rfl
@[simp] theorem sendFault_lampTimer (k : FaultKind) (x : Subject) (a : Answer) (m : Mode) : (p.sendFault k x a m).lampTimer = p.lampTimer := rfl
@[simp] theorem sendFault_upQueue (k : FaultKind) (x : Subject) (a : Answer) (m : Mode) : (p.sendFault k x a m).upQueue = p.upQueue := rfl
@[simp] theorem sendFault_downQueue (k : FaultKind) (x : Subject) (a : Answer) (m : Mode) : (p.sendFault k x a m).downQueue = p.downQueue := rfl
@[simp] theorem sendFault_nextTicket (k : FaultKind) (x : Subject) (a : Answer) (m : Mode) : (p.sendFault k x a m).nextTicket = p.nextTicket := rfl
@[simp] theorem sendFault_calls (k : FaultKind) (x : Subject) (a : Answer) (m : Mode) : (p.sendFault k x a m).calls = p.calls := rfl
@[simp] theorem sendFault_turn (k : FaultKind) (x : Subject) (a : Answer) (m : Mode) : (p.sendFault k x a m).turn = p.turn := rfl
@[simp] theorem sendFault_lockage (k : FaultKind) (x : Subject) (a : Answer) (m : Mode) : (p.sendFault k x a m).lockage = p.lockage := rfl
@[simp] theorem sendFault_faults (k : FaultKind) (x : Subject) (a : Answer) (m : Mode) : (p.sendFault k x a m).faults = p.faults := rfl
@[simp] theorem sendFault_outlets (k : FaultKind) (x : Subject) (a : Answer) (m : Mode) : (p.sendFault k x a m).outlets = p.outlets := rfl
@[simp] theorem sendFault_settings (k : FaultKind) (x : Subject) (a : Answer) (m : Mode) : (p.sendFault k x a m).settings = p.settings := rfl
@[simp] theorem sendFault_clock (k : FaultKind) (x : Subject) (a : Answer) (m : Mode) : (p.sendFault k x a m).clock = p.clock := rfl
@[simp] theorem sendFault_secondCount (k : FaultKind) (x : Subject) (a : Answer) (m : Mode) : (p.sendFault k x a m).secondCount = p.secondCount := rfl
@[simp] theorem sendFault_link (k : FaultKind) (x : Subject) (a : Answer) (m : Mode) : (p.sendFault k x a m).link = p.link := rfl

@[simp] theorem noteFault_mode (k : FaultKind) (a : Answer) : (p.noteFault k a).mode = p.mode := rfl
@[simp] theorem noteFault_eStop (k : FaultKind) (a : Answer) : (p.noteFault k a).eStop = p.eStop := rfl
@[simp] theorem noteFault_navInhibit (k : FaultKind) (a : Answer) : (p.noteFault k a).navInhibit = p.navInhibit := rfl
@[simp] theorem noteFault_straps (k : FaultKind) (a : Answer) : (p.noteFault k a).straps = p.straps := rfl
@[simp] theorem noteFault_reaches (k : FaultKind) (a : Answer) : (p.noteFault k a).reaches = p.reaches := rfl
@[simp] theorem noteFault_gates (k : FaultKind) (a : Answer) : (p.noteFault k a).gates = p.gates := rfl
@[simp] theorem noteFault_sluices (k : FaultKind) (a : Answer) : (p.noteFault k a).sluices = p.sluices := rfl
@[simp] theorem noteFault_faces (k : FaultKind) (a : Answer) : (p.noteFault k a).faces = p.faces := rfl
@[simp] theorem noteFault_lamps (k : FaultKind) (a : Answer) : (p.noteFault k a).lamps = p.lamps := rfl
@[simp] theorem noteFault_lampTimer (k : FaultKind) (a : Answer) : (p.noteFault k a).lampTimer = p.lampTimer := rfl
@[simp] theorem noteFault_upQueue (k : FaultKind) (a : Answer) : (p.noteFault k a).upQueue = p.upQueue := rfl
@[simp] theorem noteFault_downQueue (k : FaultKind) (a : Answer) : (p.noteFault k a).downQueue = p.downQueue := rfl
@[simp] theorem noteFault_nextTicket (k : FaultKind) (a : Answer) : (p.noteFault k a).nextTicket = p.nextTicket := rfl
@[simp] theorem noteFault_calls (k : FaultKind) (a : Answer) : (p.noteFault k a).calls = p.calls := rfl
@[simp] theorem noteFault_turn (k : FaultKind) (a : Answer) : (p.noteFault k a).turn = p.turn := rfl
@[simp] theorem noteFault_lockage (k : FaultKind) (a : Answer) : (p.noteFault k a).lockage = p.lockage := rfl
@[simp] theorem noteFault_faults (k : FaultKind) (a : Answer) : (p.noteFault k a).faults = p.faults := rfl
@[simp] theorem noteFault_outlets (k : FaultKind) (a : Answer) : (p.noteFault k a).outlets = p.outlets := rfl
@[simp] theorem noteFault_settings (k : FaultKind) (a : Answer) : (p.noteFault k a).settings = p.settings := rfl
@[simp] theorem noteFault_clock (k : FaultKind) (a : Answer) : (p.noteFault k a).clock = p.clock := rfl
@[simp] theorem noteFault_secondCount (k : FaultKind) (a : Answer) : (p.noteFault k a).secondCount = p.secondCount := rfl
@[simp] theorem noteFault_sent (k : FaultKind) (a : Answer) : (p.noteFault k a).sent = p.sent := rfl

@[simp] theorem headDraw_mode (n : Nat) : (p.headDraw n).mode = p.mode := rfl
@[simp] theorem headDraw_eStop (n : Nat) : (p.headDraw n).eStop = p.eStop := rfl
@[simp] theorem headDraw_navInhibit (n : Nat) : (p.headDraw n).navInhibit = p.navInhibit := rfl
@[simp] theorem headDraw_straps (n : Nat) : (p.headDraw n).straps = p.straps := rfl
@[simp] theorem headDraw_reaches (n : Nat) : (p.headDraw n).reaches = p.reaches := rfl
@[simp] theorem headDraw_gates (n : Nat) : (p.headDraw n).gates = p.gates := rfl
@[simp] theorem headDraw_sluices (n : Nat) : (p.headDraw n).sluices = p.sluices := rfl
@[simp] theorem headDraw_faces (n : Nat) : (p.headDraw n).faces = p.faces := rfl
@[simp] theorem headDraw_lamps (n : Nat) : (p.headDraw n).lamps = p.lamps := rfl
@[simp] theorem headDraw_lampTimer (n : Nat) : (p.headDraw n).lampTimer = p.lampTimer := rfl
@[simp] theorem headDraw_upQueue (n : Nat) : (p.headDraw n).upQueue = p.upQueue := rfl
@[simp] theorem headDraw_downQueue (n : Nat) : (p.headDraw n).downQueue = p.downQueue := rfl
@[simp] theorem headDraw_nextTicket (n : Nat) : (p.headDraw n).nextTicket = p.nextTicket := rfl
@[simp] theorem headDraw_calls (n : Nat) : (p.headDraw n).calls = p.calls := rfl
@[simp] theorem headDraw_turn (n : Nat) : (p.headDraw n).turn = p.turn := rfl
@[simp] theorem headDraw_faults (n : Nat) : (p.headDraw n).faults = p.faults := rfl
@[simp] theorem headDraw_settings (n : Nat) : (p.headDraw n).settings = p.settings := rfl
@[simp] theorem headDraw_clock (n : Nat) : (p.headDraw n).clock = p.clock := rfl
@[simp] theorem headDraw_secondCount (n : Nat) : (p.headDraw n).secondCount = p.secondCount := rfl
@[simp] theorem headDraw_link (n : Nat) : (p.headDraw n).link = p.link := rfl
@[simp] theorem headDraw_sent (n : Nat) : (p.headDraw n).sent = p.sent := rfl

@[simp] theorem setQueue_mode (d : Direction) (q : List Vessel) : (p.setQueue d q).mode = p.mode := by cases d <;> rfl
@[simp] theorem setQueue_eStop (d : Direction) (q : List Vessel) : (p.setQueue d q).eStop = p.eStop := by cases d <;> rfl
@[simp] theorem setQueue_navInhibit (d : Direction) (q : List Vessel) : (p.setQueue d q).navInhibit = p.navInhibit := by cases d <;> rfl
@[simp] theorem setQueue_straps (d : Direction) (q : List Vessel) : (p.setQueue d q).straps = p.straps := by cases d <;> rfl
@[simp] theorem setQueue_reaches (d : Direction) (q : List Vessel) : (p.setQueue d q).reaches = p.reaches := by cases d <;> rfl
@[simp] theorem setQueue_gates (d : Direction) (q : List Vessel) : (p.setQueue d q).gates = p.gates := by cases d <;> rfl
@[simp] theorem setQueue_sluices (d : Direction) (q : List Vessel) : (p.setQueue d q).sluices = p.sluices := by cases d <;> rfl
@[simp] theorem setQueue_faces (d : Direction) (q : List Vessel) : (p.setQueue d q).faces = p.faces := by cases d <;> rfl
@[simp] theorem setQueue_lamps (d : Direction) (q : List Vessel) : (p.setQueue d q).lamps = p.lamps := by cases d <;> rfl
@[simp] theorem setQueue_lampTimer (d : Direction) (q : List Vessel) : (p.setQueue d q).lampTimer = p.lampTimer := by cases d <;> rfl
@[simp] theorem setQueue_nextTicket (d : Direction) (q : List Vessel) : (p.setQueue d q).nextTicket = p.nextTicket := by cases d <;> rfl
@[simp] theorem setQueue_calls (d : Direction) (q : List Vessel) : (p.setQueue d q).calls = p.calls := by cases d <;> rfl
@[simp] theorem setQueue_turn (d : Direction) (q : List Vessel) : (p.setQueue d q).turn = p.turn := by cases d <;> rfl
@[simp] theorem setQueue_lockage (d : Direction) (q : List Vessel) : (p.setQueue d q).lockage = p.lockage := by cases d <;> rfl
@[simp] theorem setQueue_faults (d : Direction) (q : List Vessel) : (p.setQueue d q).faults = p.faults := by cases d <;> rfl
@[simp] theorem setQueue_outlets (d : Direction) (q : List Vessel) : (p.setQueue d q).outlets = p.outlets := by cases d <;> rfl
@[simp] theorem setQueue_settings (d : Direction) (q : List Vessel) : (p.setQueue d q).settings = p.settings := by cases d <;> rfl
@[simp] theorem setQueue_clock (d : Direction) (q : List Vessel) : (p.setQueue d q).clock = p.clock := by cases d <;> rfl
@[simp] theorem setQueue_secondCount (d : Direction) (q : List Vessel) : (p.setQueue d q).secondCount = p.secondCount := by cases d <;> rfl
@[simp] theorem setQueue_link (d : Direction) (q : List Vessel) : (p.setQueue d q).link = p.link := by cases d <;> rfl
@[simp] theorem setQueue_sent (d : Direction) (q : List Vessel) : (p.setQueue d q).sent = p.sent := by cases d <;> rfl

@[simp] theorem returnConvoy_mode (d : Direction) (q : List Vessel) : (p.returnConvoy d q).mode = p.mode := by simp [Part.returnConvoy]
@[simp] theorem returnConvoy_eStop (d : Direction) (q : List Vessel) : (p.returnConvoy d q).eStop = p.eStop := by simp [Part.returnConvoy]
@[simp] theorem returnConvoy_navInhibit (d : Direction) (q : List Vessel) : (p.returnConvoy d q).navInhibit = p.navInhibit := by simp [Part.returnConvoy]
@[simp] theorem returnConvoy_straps (d : Direction) (q : List Vessel) : (p.returnConvoy d q).straps = p.straps := by simp [Part.returnConvoy]
@[simp] theorem returnConvoy_reaches (d : Direction) (q : List Vessel) : (p.returnConvoy d q).reaches = p.reaches := by simp [Part.returnConvoy]
@[simp] theorem returnConvoy_gates (d : Direction) (q : List Vessel) : (p.returnConvoy d q).gates = p.gates := by simp [Part.returnConvoy]
@[simp] theorem returnConvoy_sluices (d : Direction) (q : List Vessel) : (p.returnConvoy d q).sluices = p.sluices := by simp [Part.returnConvoy]
@[simp] theorem returnConvoy_faces (d : Direction) (q : List Vessel) : (p.returnConvoy d q).faces = p.faces := by simp [Part.returnConvoy]
@[simp] theorem returnConvoy_lamps (d : Direction) (q : List Vessel) : (p.returnConvoy d q).lamps = p.lamps := by simp [Part.returnConvoy]
@[simp] theorem returnConvoy_lampTimer (d : Direction) (q : List Vessel) : (p.returnConvoy d q).lampTimer = p.lampTimer := by simp [Part.returnConvoy]
@[simp] theorem returnConvoy_nextTicket (d : Direction) (q : List Vessel) : (p.returnConvoy d q).nextTicket = p.nextTicket := by simp [Part.returnConvoy]
@[simp] theorem returnConvoy_turn (d : Direction) (q : List Vessel) : (p.returnConvoy d q).turn = p.turn := by simp [Part.returnConvoy]
@[simp] theorem returnConvoy_lockage (d : Direction) (q : List Vessel) : (p.returnConvoy d q).lockage = p.lockage := by simp [Part.returnConvoy]
@[simp] theorem returnConvoy_faults (d : Direction) (q : List Vessel) : (p.returnConvoy d q).faults = p.faults := by simp [Part.returnConvoy]
@[simp] theorem returnConvoy_outlets (d : Direction) (q : List Vessel) : (p.returnConvoy d q).outlets = p.outlets := by simp [Part.returnConvoy]
@[simp] theorem returnConvoy_settings (d : Direction) (q : List Vessel) : (p.returnConvoy d q).settings = p.settings := by simp [Part.returnConvoy]
@[simp] theorem returnConvoy_clock (d : Direction) (q : List Vessel) : (p.returnConvoy d q).clock = p.clock := by simp [Part.returnConvoy]
@[simp] theorem returnConvoy_secondCount (d : Direction) (q : List Vessel) : (p.returnConvoy d q).secondCount = p.secondCount := by simp [Part.returnConvoy]
@[simp] theorem returnConvoy_link (d : Direction) (q : List Vessel) : (p.returnConvoy d q).link = p.link := by simp [Part.returnConvoy]
@[simp] theorem returnConvoy_sent (d : Direction) (q : List Vessel) : (p.returnConvoy d q).sent = p.sent := by simp [Part.returnConvoy]

@[simp] theorem takeConvoy_mode (d : Direction) (q : List Vessel) : (p.takeConvoy d q).mode = p.mode := by simp [Part.takeConvoy]
@[simp] theorem takeConvoy_eStop (d : Direction) (q : List Vessel) : (p.takeConvoy d q).eStop = p.eStop := by simp [Part.takeConvoy]
@[simp] theorem takeConvoy_navInhibit (d : Direction) (q : List Vessel) : (p.takeConvoy d q).navInhibit = p.navInhibit := by simp [Part.takeConvoy]
@[simp] theorem takeConvoy_straps (d : Direction) (q : List Vessel) : (p.takeConvoy d q).straps = p.straps := by simp [Part.takeConvoy]
@[simp] theorem takeConvoy_reaches (d : Direction) (q : List Vessel) : (p.takeConvoy d q).reaches = p.reaches := by simp [Part.takeConvoy]
@[simp] theorem takeConvoy_gates (d : Direction) (q : List Vessel) : (p.takeConvoy d q).gates = p.gates := by simp [Part.takeConvoy]
@[simp] theorem takeConvoy_sluices (d : Direction) (q : List Vessel) : (p.takeConvoy d q).sluices = p.sluices := by simp [Part.takeConvoy]
@[simp] theorem takeConvoy_faces (d : Direction) (q : List Vessel) : (p.takeConvoy d q).faces = p.faces := by simp [Part.takeConvoy]
@[simp] theorem takeConvoy_lamps (d : Direction) (q : List Vessel) : (p.takeConvoy d q).lamps = p.lamps := by simp [Part.takeConvoy]
@[simp] theorem takeConvoy_lampTimer (d : Direction) (q : List Vessel) : (p.takeConvoy d q).lampTimer = p.lampTimer := by simp [Part.takeConvoy]
@[simp] theorem takeConvoy_nextTicket (d : Direction) (q : List Vessel) : (p.takeConvoy d q).nextTicket = p.nextTicket := by simp [Part.takeConvoy]
@[simp] theorem takeConvoy_turn (d : Direction) (q : List Vessel) : (p.takeConvoy d q).turn = p.turn := by simp [Part.takeConvoy]
@[simp] theorem takeConvoy_lockage (d : Direction) (q : List Vessel) : (p.takeConvoy d q).lockage = p.lockage := by simp [Part.takeConvoy]
@[simp] theorem takeConvoy_faults (d : Direction) (q : List Vessel) : (p.takeConvoy d q).faults = p.faults := by simp [Part.takeConvoy]
@[simp] theorem takeConvoy_outlets (d : Direction) (q : List Vessel) : (p.takeConvoy d q).outlets = p.outlets := by simp [Part.takeConvoy]
@[simp] theorem takeConvoy_settings (d : Direction) (q : List Vessel) : (p.takeConvoy d q).settings = p.settings := by simp [Part.takeConvoy]
@[simp] theorem takeConvoy_clock (d : Direction) (q : List Vessel) : (p.takeConvoy d q).clock = p.clock := by simp [Part.takeConvoy]
@[simp] theorem takeConvoy_secondCount (d : Direction) (q : List Vessel) : (p.takeConvoy d q).secondCount = p.secondCount := by simp [Part.takeConvoy]
@[simp] theorem takeConvoy_link (d : Direction) (q : List Vessel) : (p.takeConvoy d q).link = p.link := by simp [Part.takeConvoy]
@[simp] theorem takeConvoy_sent (d : Direction) (q : List Vessel) : (p.takeConvoy d q).sent = p.sent := by simp [Part.takeConvoy]

@[simp] theorem latched_mode (d : Direction) : (p.latched d).mode = p.mode := by simp [Part.latched, Part.turnTo]
@[simp] theorem latched_eStop (d : Direction) : (p.latched d).eStop = p.eStop := by simp [Part.latched, Part.turnTo]
@[simp] theorem latched_navInhibit (d : Direction) : (p.latched d).navInhibit = p.navInhibit := by simp [Part.latched, Part.turnTo]
@[simp] theorem latched_straps (d : Direction) : (p.latched d).straps = p.straps := by simp [Part.latched, Part.turnTo]
@[simp] theorem latched_reaches (d : Direction) : (p.latched d).reaches = p.reaches := by simp [Part.latched, Part.turnTo]
@[simp] theorem latched_gates (d : Direction) : (p.latched d).gates = p.gates := by simp [Part.latched, Part.turnTo]
@[simp] theorem latched_sluices (d : Direction) : (p.latched d).sluices = p.sluices := by simp [Part.latched, Part.turnTo]
@[simp] theorem latched_faces (d : Direction) : (p.latched d).faces = p.faces := by simp [Part.latched, Part.turnTo]
@[simp] theorem latched_lamps (d : Direction) : (p.latched d).lamps = p.lamps := by simp [Part.latched, Part.turnTo]
@[simp] theorem latched_lampTimer (d : Direction) : (p.latched d).lampTimer = p.lampTimer := by simp [Part.latched, Part.turnTo]
@[simp] theorem latched_nextTicket (d : Direction) : (p.latched d).nextTicket = p.nextTicket := by simp [Part.latched, Part.turnTo]
@[simp] theorem latched_lockage (d : Direction) : (p.latched d).lockage = p.lockage := by simp [Part.latched, Part.turnTo]
@[simp] theorem latched_faults (d : Direction) : (p.latched d).faults = p.faults := by simp [Part.latched, Part.turnTo]
@[simp] theorem latched_outlets (d : Direction) : (p.latched d).outlets = p.outlets := by simp [Part.latched, Part.turnTo]
@[simp] theorem latched_settings (d : Direction) : (p.latched d).settings = p.settings := by simp [Part.latched, Part.turnTo]
@[simp] theorem latched_clock (d : Direction) : (p.latched d).clock = p.clock := by simp [Part.latched, Part.turnTo]
@[simp] theorem latched_secondCount (d : Direction) : (p.latched d).secondCount = p.secondCount := by simp [Part.latched, Part.turnTo]
@[simp] theorem latched_link (d : Direction) : (p.latched d).link = p.link := by simp [Part.latched, Part.turnTo]
@[simp] theorem latched_sent (d : Direction) : (p.latched d).sent = p.sent := by simp [Part.latched, Part.turnTo]

@[simp] theorem undoLatch_mode (n : Nat) (d : Direction) (q : List Vessel) (b : Pattern) (x : Predicted) :
    (p.undoLatch n d q b x).mode = p.mode := by simp [Part.undoLatch]
@[simp] theorem undoLatch_eStop (n : Nat) (d : Direction) (q : List Vessel) (b : Pattern) (x : Predicted) :
    (p.undoLatch n d q b x).eStop = p.eStop := by simp [Part.undoLatch]
@[simp] theorem undoLatch_navInhibit (n : Nat) (d : Direction) (q : List Vessel) (b : Pattern) (x : Predicted) :
    (p.undoLatch n d q b x).navInhibit = p.navInhibit := by simp [Part.undoLatch]
@[simp] theorem undoLatch_straps (n : Nat) (d : Direction) (q : List Vessel) (b : Pattern) (x : Predicted) :
    (p.undoLatch n d q b x).straps = p.straps := by simp [Part.undoLatch]
@[simp] theorem undoLatch_reaches (n : Nat) (d : Direction) (q : List Vessel) (b : Pattern) (x : Predicted) :
    (p.undoLatch n d q b x).reaches = p.reaches := by simp [Part.undoLatch]
@[simp] theorem undoLatch_gates (n : Nat) (d : Direction) (q : List Vessel) (b : Pattern) (x : Predicted) :
    (p.undoLatch n d q b x).gates = p.gates := by simp [Part.undoLatch]
@[simp] theorem undoLatch_sluices (n : Nat) (d : Direction) (q : List Vessel) (b : Pattern) (x : Predicted) :
    (p.undoLatch n d q b x).sluices = p.sluices := by simp [Part.undoLatch]
@[simp] theorem undoLatch_faces (n : Nat) (d : Direction) (q : List Vessel) (b : Pattern) (x : Predicted) :
    (p.undoLatch n d q b x).faces = p.faces := by simp [Part.undoLatch]
@[simp] theorem undoLatch_lamps (n : Nat) (d : Direction) (q : List Vessel) (b : Pattern) (x : Predicted) :
    (p.undoLatch n d q b x).lamps = p.lamps := by simp [Part.undoLatch]
@[simp] theorem undoLatch_lampTimer (n : Nat) (d : Direction) (q : List Vessel) (b : Pattern) (x : Predicted) :
    (p.undoLatch n d q b x).lampTimer = p.lampTimer := by simp [Part.undoLatch]
@[simp] theorem undoLatch_nextTicket (n : Nat) (d : Direction) (q : List Vessel) (b : Pattern) (x : Predicted) :
    (p.undoLatch n d q b x).nextTicket = p.nextTicket := by simp [Part.undoLatch]
@[simp] theorem undoLatch_lockage (n : Nat) (d : Direction) (q : List Vessel) (b : Pattern) (x : Predicted) :
    (p.undoLatch n d q b x).lockage = p.lockage := by simp [Part.undoLatch]
@[simp] theorem undoLatch_faults (n : Nat) (d : Direction) (q : List Vessel) (b : Pattern) (x : Predicted) :
    (p.undoLatch n d q b x).faults = p.faults := by simp [Part.undoLatch]
@[simp] theorem undoLatch_outlets (n : Nat) (d : Direction) (q : List Vessel) (b : Pattern) (x : Predicted) :
    (p.undoLatch n d q b x).outlets = p.outlets := by simp [Part.undoLatch]
@[simp] theorem undoLatch_settings (n : Nat) (d : Direction) (q : List Vessel) (b : Pattern) (x : Predicted) :
    (p.undoLatch n d q b x).settings = p.settings := by simp [Part.undoLatch]
@[simp] theorem undoLatch_clock (n : Nat) (d : Direction) (q : List Vessel) (b : Pattern) (x : Predicted) :
    (p.undoLatch n d q b x).clock = p.clock := by simp [Part.undoLatch]
@[simp] theorem undoLatch_secondCount (n : Nat) (d : Direction) (q : List Vessel) (b : Pattern) (x : Predicted) :
    (p.undoLatch n d q b x).secondCount = p.secondCount := by simp [Part.undoLatch]
@[simp] theorem undoLatch_link (n : Nat) (d : Direction) (q : List Vessel) (b : Pattern) (x : Predicted) :
    (p.undoLatch n d q b x).link = p.link := by simp [Part.undoLatch]

end Sys2Proof.Machine
end

