-- ==== Sys2Proof/Laws/Worked.lean ====
section
/-! SUPPORT. What the works controller, the signal controller and the fault handler can do to the part: the
relation `Worked p q` says it once, and every operation of theirs is shown to keep to it. -/

namespace Sys2Proof.Machine

/-! ### What stands still -/

/-- A reach record without what the isolation of its chamber writes. -/
def ReachRec.reading (r : ReachRec) : ReachRec :=
  { r with isolationLevel := none, driftReported := false }

/-- A gate record's inputs alone. -/
def GateRec.inputs (r : GateRec) : GateRec :=
  { GateRec.initial with atClosed := r.atClosed, atOpen := r.atOpen }

/-- A sluice record's feedback alone. -/
def SluiceRec.feedback (r : SluiceRec) : SluiceRec :=
  { SluiceRec.initial with position := r.position }

/-- A lamp record's current sense alone. -/
def LampRec.sense (r : LampRec) : LampRec :=
  { r with command := .dark, output := false }

/-- A lockage record without its stage, its timers and the marks its step sets. -/
def Lockage.still (l : Lockage) : Lockage :=
  { l with stage := .travel, moveTimer := none, windowTimer := none, entryPassed := false
           exitCommanded := false, tideWait := false, tideReported := false }

/-- The part without all that works, signals and faults may change. -/
def Part.still (p : Part) : Part :=
  { p with
    mode := .startup
    reaches := p.reaches.map ReachRec.reading
    gates := p.gates.map GateRec.inputs
    sluices := p.sluices.map SluiceRec.feedback
    faces := faceMap FaceRec.reset
    lamps := lampMap fun f c => (lampOf p.lamps f c).sense
    lockage := p.lockage.map Lockage.still
    faults := { halt := none, reported := [] }
    link := { p.link with conditions := Conditions.empty }
    sent := ⟨[], [], []⟩ }

theorem still_compare (p : Part) (g : Gate) : p.still.compare g = p.compare g := by
  cases g <;> rfl

theorem still_interlock (p : Part) (g : Gate) : p.still.interlock g = p.interlock g := by
  cases g <;> rfl

theorem still_curStep (p : Part) : p.still.curStep = p.curStep := by
  simp only [Part.curStep, Part.still]
  cases p.lockage <;> rfl

/-- What works, signals and faults can do: the rest stands still, messages are only added, and what the rules
promise of every moment goes on. -/
structure Worked (p q : Part) : Prop where
  still : q.still = p.still
  sent : ∀ x, p.sent.get x <+: q.sent.get x
  drives : p.DrivesMatch → q.DrivesMatch
  ranges : p.SluicesInRange → q.SluicesInRange
  opens : OpensSafely p q
  steps : StepsUpSafely p q
  proceed : p.ProceedGuarded → q.ProceedGuarded

namespace Worked

variable {p q r : Part}

theorem compare (h : Worked p q) (g : Gate) : q.compare g = p.compare g := by
  rw [← still_compare q, ← still_compare p, h.still]

theorem interlock (h : Worked p q) (g : Gate) : q.interlock g = p.interlock g := by
  rw [← still_interlock q, ← still_interlock p, h.still]

theorem curStep (h : Worked p q) : q.curStep = p.curStep := by
  rw [← still_curStep q, ← still_curStep p, h.still]

theorem refl (p : Part) : Worked p p where
  still := rfl
  sent _ := List.prefix_refl _
  drives h := h
  ranges h := h
  opens _ h n := absurd h n
  steps _ _ h n := absurd h n
  proceed h := h

theorem trans (a : Worked p q) (b : Worked q r) : Worked p r where
  still := b.still.trans a.still
  sent x := (a.sent x).trans (b.sent x)
  drives h := b.drives (a.drives h)
  ranges h := b.ranges (a.ranges h)
  opens g h n := by
    by_cases m : (q.gates.get g).drive = .openDrive
    · rw [b.compare, b.interlock]; exact a.opens g m n
    · exact b.opens g h m
  steps k i h n := by
    by_cases m : (q.sluices.get k).step = some (.up, i)
    · rw [b.interlock]; exact a.steps k i m n
    · exact b.steps k i h m
  proceed h := b.proceed (a.proceed h)

/-- An update that leaves gates, sluices and shown aspects alone. -/
theorem of_same (still : q.still = p.still) (sent : ∀ x, p.sent.get x <+: q.sent.get x)
    (gates : q.gates = p.gates) (sluices : q.sluices = p.sluices)
    (shown : ∀ f, (faceOf q.faces f).shown = (faceOf p.faces f).shown) : Worked p q where
  still := still
  sent := sent
  drives h g := by rw [gates]; exact h g
  ranges h k := by rw [sluices]; exact h k
  opens g h n := by rw [gates] at h; exact absurd h n
  steps k i h n := by rw [sluices] at h; exact absurd h n
  proceed h f e := by
    rw [shown] at e
    have c : q.curStep = p.curStep := by rw [← still_curStep q, ← still_curStep p, still]
    rw [gates, c]; exact h f e

end Worked

variable (p : Part)

/-! ### Messages, notes and records -/

theorem send_grows (q : Port) (m : Msg) (x : Port) : p.sent.get x <+: (p.send q m).sent.get x := by
  unfold Part.send
  simp only [Three.get_set]
  split
  · rename_i h; subst h; exact List.prefix_append _ _
  · exact List.prefix_refl _

theorem send_worked (q : Port) (m : Msg) : Worked p (p.send q m) :=
  .of_same rfl (send_grows p q m) rfl rfl fun _ => rfl

theorem event_worked (e : Event) : Worked p (p.event e) := send_worked p _ _

theorem accept_worked (q : Port) (tag : Tag) (d : ReplyData) : Worked p (p.accept q tag d) := send_worked p _ _

theorem refuse_worked (q : Port) (tag : Tag) (x : Reason) : Worked p (p.refuse q tag x) := send_worked p _ _

theorem note_worked (f : Conditions → Conditions) : Worked p (p.note f) :=
  .of_same rfl (fun _ => List.prefix_refl _) rfl rfl fun _ => rfl

theorem sendFault_worked (k : FaultKind) (x : Subject) (a : Answer) (m : Mode) :
    Worked p (p.sendFault k x a m) := event_worked p _

theorem noteFault_worked (k : FaultKind) (a : Answer) : Worked p (p.noteFault k a) := note_worked p _

theorem faults_worked (f : FaultHandler) : Worked p { p with faults := f } :=
  .of_same rfl (fun _ => List.prefix_refl _) rfl rfl fun _ => rfl

theorem mode_worked (m : Mode) : Worked p { p with mode := m } :=
  .of_same rfl (fun _ => List.prefix_refl _) rfl rfl fun _ => rfl

theorem clearReported_worked : Worked p p.clearReported := faults_worked p _

/-- A change of the lockage record that keeps what stands still of it. -/
theorem onLockage_worked (f : Lockage → Lockage) (h : ∀ l, (f l).still = l.still) :
    Worked p (p.onLockage f) :=
  .of_same (by simp only [Part.still, Part.onLockage]; cases p.lockage <;> simp [h]) (fun _ => List.prefix_refl _)
    rfl rfl fun _ => rfl

theorem stopLockageTimers_worked : Worked p p.stopLockageTimers := onLockage_worked p _ fun _ => rfl

theorem setStage_worked (g : Stage) : Worked p (p.setStage g) := onLockage_worked p _ fun _ => rfl

/-! ### Faces and lamps -/

/-- Face records replaced with the same shown aspects. -/
theorem faces_worked (v : FaceMap FaceRec) (h : ∀ f, (faceOf v f).shown = (faceOf p.faces f).shown) :
    Worked p { p with faces := v } :=
  .of_same rfl (fun _ => List.prefix_refl _) rfl rfl h

theorem setRequested_worked (f : Face) (a : Aspect) : Worked p (p.setRequested f a) := by
  refine faces_worked p _ fun e => ?_
  rw [faceOf_setFace]; split
  · rename_i h; subst h; rfl
  · rfl

theorem setAwaited_worked (f : Face) (b : Bool) : Worked p (p.setAwaited f b) := by
  refine faces_worked p _ fun e => ?_
  rw [faceOf_setFace]; split
  · rename_i h; subst h; rfl
  · rfl

theorem movesThrough_step {f : Face} (h : p.movesThrough f = true) :
    ∃ ph, p.curStep = some ⟨.move f.gate f.direction, ph⟩ := by
  unfold Part.movesThrough at h
  split at h
  · rename_i s e
    obtain ⟨w, ph⟩ := s
    exact ⟨ph, by rw [e]; simpa using h⟩
  · cases h

/-- PROCEED comes from the one row of R40's table that guards it. -/
theorem shownAspect_proceed {f : Face} (h : p.shownAspect f = .proceed) :
    (p.gates.get f.gate).state = .open_ ∧ p.movesThrough f = true := by
  unfold Part.shownAspect at h
  simp only at h
  split at h
  · cases h
  · split at h
    · cases h
    · split at h
      · cases h
      · split at h
        · split at h
          · assumption
          · cases h
        · split at h <;> cases h
        · cases h

theorem deriveFaces_guarded : p.deriveFaces.ProceedGuarded := by
  intro f h
  simp only [Part.deriveFaces, faceOf_faceMap] at h
  obtain ⟨a, b⟩ := shownAspect_proceed p h
  exact ⟨a, movesThrough_step p b⟩

theorem deriveFaces_worked : Worked p p.deriveFaces where
  still := rfl
  sent _ := List.prefix_refl _
  drives h := h
  ranges h := h
  opens _ h n := absurd h n
  steps _ _ h n := absurd h n
  proceed _ := deriveFaces_guarded p

theorem follow_sense (l : LampRec) (c : LampCommand) : (l.follow c).sense = l.sense := by
  unfold LampRec.follow; split <;> rfl

theorem followLamps_worked : Worked p p.followLamps :=
  .of_same (by simp [Part.still, Part.followLamps, follow_sense]) (fun _ => List.prefix_refl _) rfl rfl fun _ => rfl

theorem markEntry_worked : Worked p p.markEntry := by
  unfold Part.markEntry; split
  · exact onLockage_worked p _ fun _ => rfl
  · exact .refl p

theorem refreshFaces_worked : Worked p p.refreshFaces :=
  ((deriveFaces_worked p).trans (followLamps_worked _)).trans (markEntry_worked _)

/-- Whatever stood before, after the derivation PROCEED is guarded (R40). -/
theorem refreshFaces_guarded : p.refreshFaces.ProceedGuarded :=
  ((followLamps_worked _).trans (markEntry_worked _)).proceed (deriveFaces_guarded p)

theorem requestAspect_worked (f : Face) (a : Aspect) : Worked p (p.requestAspect f a) :=
  (setRequested_worked p f a).trans (refreshFaces_worked _)

theorem requestAllStop_worked : Worked p p.requestAllStop :=
  (faces_worked p _ fun _ => by simp).trans (refreshFaces_worked _)

theorem requestEntryReady_worked (d : Direction) : Worked p (p.requestEntryReady d) :=
  (faces_worked p _ fun _ => by simp).trans (refreshFaces_worked _)

/-- The signal controller's derivation writes faces, lamps and the lockage record alone. -/
theorem refreshFaces_form : ∃ v w l, p.refreshFaces = { p with faces := v, lamps := w, lockage := l } := by
  unfold Part.refreshFaces Part.markEntry
  split
  · exact ⟨_, _, _, rfl⟩
  · exact ⟨_, _, _, rfl⟩

@[simp] theorem refreshFaces_mode : p.refreshFaces.mode = p.mode := by
  obtain ⟨v, w, l, e⟩ := refreshFaces_form p; rw [e]
@[simp] theorem refreshFaces_eStop : p.refreshFaces.eStop = p.eStop := by
  obtain ⟨v, w, l, e⟩ := refreshFaces_form p; rw [e]
@[simp] theorem refreshFaces_navInhibit : p.refreshFaces.navInhibit = p.navInhibit := by
  obtain ⟨v, w, l, e⟩ := refreshFaces_form p; rw [e]
@[simp] theorem refreshFaces_straps : p.refreshFaces.straps = p.straps := by
  obtain ⟨v, w, l, e⟩ := refreshFaces_form p; rw [e]
@[simp] theorem refreshFaces_reaches : p.refreshFaces.reaches = p.reaches := by
  obtain ⟨v, w, l, e⟩ := refreshFaces_form p; rw [e]
@[simp] theorem refreshFaces_gates : p.refreshFaces.gates = p.gates := by
  obtain ⟨v, w, l, e⟩ := refreshFaces_form p; rw [e]
@[simp] theorem refreshFaces_sluices : p.refreshFaces.sluices = p.sluices := by
  obtain ⟨v, w, l, e⟩ := refreshFaces_form p; rw [e]
@[simp] theorem refreshFaces_lampTimer : p.refreshFaces.lampTimer = p.lampTimer := by
  obtain ⟨v, w, l, e⟩ := refreshFaces_form p; rw [e]
@[simp] theorem refreshFaces_upQueue : p.refreshFaces.upQueue = p.upQueue := by
  obtain ⟨v, w, l, e⟩ := refreshFaces_form p; rw [e]
@[simp] theorem refreshFaces_downQueue : p.refreshFaces.downQueue = p.downQueue := by
  obtain ⟨v, w, l, e⟩ := refreshFaces_form p; rw [e]
@[simp] theorem refreshFaces_nextTicket : p.refreshFaces.nextTicket = p.nextTicket := by
  obtain ⟨v, w, l, e⟩ := refreshFaces_form p; rw [e]
@[simp] theorem refreshFaces_calls : p.refreshFaces.calls = p.calls := by
  obtain ⟨v, w, l, e⟩ := refreshFaces_form p; rw [e]
@[simp] theorem refreshFaces_turn : p.refreshFaces.turn = p.turn := by
  obtain ⟨v, w, l, e⟩ := refreshFaces_form p; rw [e]
@[simp] theorem refreshFaces_faults : p.refreshFaces.faults = p.faults := by
  obtain ⟨v, w, l, e⟩ := refreshFaces_form p; rw [e]
@[simp] theorem refreshFaces_outlets : p.refreshFaces.outlets = p.outlets := by
  obtain ⟨v, w, l, e⟩ := refreshFaces_form p; rw [e]
@[simp] theorem refreshFaces_settings : p.refreshFaces.settings = p.settings := by
  obtain ⟨v, w, l, e⟩ := refreshFaces_form p; rw [e]
@[simp] theorem refreshFaces_clock : p.refreshFaces.clock = p.clock := by
  obtain ⟨v, w, l, e⟩ := refreshFaces_form p; rw [e]
@[simp] theorem refreshFaces_secondCount : p.refreshFaces.secondCount = p.secondCount := by
  obtain ⟨v, w, l, e⟩ := refreshFaces_form p; rw [e]
@[simp] theorem refreshFaces_link : p.refreshFaces.link = p.link := by
  obtain ⟨v, w, l, e⟩ := refreshFaces_form p; rw [e]
@[simp] theorem refreshFaces_sent : p.refreshFaces.sent = p.sent := by
  obtain ⟨v, w, l, e⟩ := refreshFaces_form p; rw [e]

end Sys2Proof.Machine
end

