-- ==== Sys2Proof/Laws/Works.lean ====
section
/-! SUPPORT. Every operation of the works controller keeps to `Worked` (sections 2.1 to 2.4). -/

namespace Sys2Proof.Machine

variable (p : Part)

/-! ### Writing one record -/

theorem examined_reading (c : Chamber) : (p.examined c).reading = (p.reaches.get c.reach).reading := by
  unfold Part.examined
  split
  · split <;> rfl
  · rfl

theorem examineIsolation_still : p.examineIsolation.still = p.still := by
  simp [Part.still, Part.examineIsolation, Five.map, examined_reading]
  exact ⟨rfl, rfl, rfl⟩

/-- A family of lamps, gates, sluices read at every key but one as before. -/
theorem map_set_same {α β : Type} (f : α → β) (v : Four α) (g : Gate) (x : α) (h : f x = f (v.get g)) :
    (v.set g x).map f = v.map f := by
  apply Four.ext_get
  intro k
  simp only [Four.get_map, Four.get_set]
  split
  · rename_i e; rw [e, h]
  · rfl

@[simp] theorem putGate_gates (g : Gate) (r : GateRec) : (p.putGate g r).gates = p.gates.set g r := by
  simp [Part.putGate]
@[simp] theorem putGate_mode (g : Gate) (r : GateRec) : (p.putGate g r).mode = p.mode := by simp [Part.putGate]
@[simp] theorem putGate_eStop (g : Gate) (r : GateRec) : (p.putGate g r).eStop = p.eStop := by simp [Part.putGate]
@[simp] theorem putGate_navInhibit (g : Gate) (r : GateRec) : (p.putGate g r).navInhibit = p.navInhibit := by simp [Part.putGate]
@[simp] theorem putGate_straps (g : Gate) (r : GateRec) : (p.putGate g r).straps = p.straps := by simp [Part.putGate]
@[simp] theorem putGate_sluices (g : Gate) (r : GateRec) : (p.putGate g r).sluices = p.sluices := by simp [Part.putGate]
@[simp] theorem putGate_lampTimer (g : Gate) (r : GateRec) : (p.putGate g r).lampTimer = p.lampTimer := by simp [Part.putGate]
@[simp] theorem putGate_upQueue (g : Gate) (r : GateRec) : (p.putGate g r).upQueue = p.upQueue := by simp [Part.putGate]
@[simp] theorem putGate_downQueue (g : Gate) (r : GateRec) : (p.putGate g r).downQueue = p.downQueue := by simp [Part.putGate]
@[simp] theorem putGate_nextTicket (g : Gate) (r : GateRec) : (p.putGate g r).nextTicket = p.nextTicket := by simp [Part.putGate]
@[simp] theorem putGate_calls (g : Gate) (r : GateRec) : (p.putGate g r).calls = p.calls := by simp [Part.putGate]
@[simp] theorem putGate_turn (g : Gate) (r : GateRec) : (p.putGate g r).turn = p.turn := by simp [Part.putGate]
@[simp] theorem putGate_faults (g : Gate) (r : GateRec) : (p.putGate g r).faults = p.faults := by simp [Part.putGate]
@[simp] theorem putGate_outlets (g : Gate) (r : GateRec) : (p.putGate g r).outlets = p.outlets := by simp [Part.putGate]
@[simp] theorem putGate_settings (g : Gate) (r : GateRec) : (p.putGate g r).settings = p.settings := by simp [Part.putGate]
@[simp] theorem putGate_clock (g : Gate) (r : GateRec) : (p.putGate g r).clock = p.clock := by simp [Part.putGate]
@[simp] theorem putGate_secondCount (g : Gate) (r : GateRec) : (p.putGate g r).secondCount = p.secondCount := by simp [Part.putGate]
@[simp] theorem putGate_link (g : Gate) (r : GateRec) : (p.putGate g r).link = p.link := by simp [Part.putGate]
@[simp] theorem putGate_sent (g : Gate) (r : GateRec) : (p.putGate g r).sent = p.sent := by simp [Part.putGate]
@[simp] theorem putSluice_mode (k : Sluice) (r : SluiceRec) : (p.putSluice k r).mode = p.mode := rfl
@[simp] theorem putSluice_eStop (k : Sluice) (r : SluiceRec) : (p.putSluice k r).eStop = p.eStop := rfl
@[simp] theorem putSluice_navInhibit (k : Sluice) (r : SluiceRec) : (p.putSluice k r).navInhibit = p.navInhibit := rfl
@[simp] theorem putSluice_straps (k : Sluice) (r : SluiceRec) : (p.putSluice k r).straps = p.straps := rfl
@[simp] theorem putSluice_gates (k : Sluice) (r : SluiceRec) : (p.putSluice k r).gates = p.gates := rfl
@[simp] theorem putSluice_lampTimer (k : Sluice) (r : SluiceRec) : (p.putSluice k r).lampTimer = p.lampTimer := rfl
@[simp] theorem putSluice_upQueue (k : Sluice) (r : SluiceRec) : (p.putSluice k r).upQueue = p.upQueue := rfl
@[simp] theorem putSluice_downQueue (k : Sluice) (r : SluiceRec) : (p.putSluice k r).downQueue = p.downQueue := rfl
@[simp] theorem putSluice_nextTicket (k : Sluice) (r : SluiceRec) : (p.putSluice k r).nextTicket = p.nextTicket := rfl
@[simp] theorem putSluice_calls (k : Sluice) (r : SluiceRec) : (p.putSluice k r).calls = p.calls := rfl
@[simp] theorem putSluice_turn (k : Sluice) (r : SluiceRec) : (p.putSluice k r).turn = p.turn := rfl
@[simp] theorem putSluice_faults (k : Sluice) (r : SluiceRec) : (p.putSluice k r).faults = p.faults := rfl
@[simp] theorem putSluice_outlets (k : Sluice) (r : SluiceRec) : (p.putSluice k r).outlets = p.outlets := rfl
@[simp] theorem putSluice_settings (k : Sluice) (r : SluiceRec) : (p.putSluice k r).settings = p.settings := rfl
@[simp] theorem putSluice_clock (k : Sluice) (r : SluiceRec) : (p.putSluice k r).clock = p.clock := rfl
@[simp] theorem putSluice_secondCount (k : Sluice) (r : SluiceRec) : (p.putSluice k r).secondCount = p.secondCount := rfl
@[simp] theorem putSluice_link (k : Sluice) (r : SluiceRec) : (p.putSluice k r).link = p.link := rfl
@[simp] theorem putSluice_sent (k : Sluice) (r : SluiceRec) : (p.putSluice k r).sent = p.sent := rfl
@[simp] theorem putSluice_faces (k : Sluice) (r : SluiceRec) : (p.putSluice k r).faces = p.faces := rfl
@[simp] theorem putSluice_lamps (k : Sluice) (r : SluiceRec) : (p.putSluice k r).lamps = p.lamps := rfl
@[simp] theorem putSluice_lockage (k : Sluice) (r : SluiceRec) : (p.putSluice k r).lockage = p.lockage := rfl

@[simp] theorem putSluice_sluices (k : Sluice) (r : SluiceRec) : (p.putSluice k r).sluices = p.sluices.set k r := rfl

/-- A gate record written with its inputs as they stand, its drive as its state calls for, and no OPEN drive
turned on but over a LEVEL compare and a closed far side (R22, R23, R24). -/
theorem putGate_worked (g : Gate) (r : GateRec) (hin : r.inputs = (p.gates.get g).inputs)
    (hd : (p.gates.get g).drive = (p.gates.get g).state.drive → r.drive = r.state.drive)
    (ho : r.drive = .openDrive → (p.gates.get g).drive ≠ .openDrive →
      p.compare g = .level ∧ p.interlock g = true) : Worked p (p.putGate g r) := by
  have st : (p.putGate g r).still = p.still := by
    unfold Part.putGate
    rw [(refreshFaces_worked _).still, examineIsolation_still]
    simp only [Part.still, map_set_same _ _ _ _ hin]
  refine ⟨st, fun x => ?_, fun h k => ?_, fun h k => ?_, fun k h n => ?_, fun k i h n => ?_, fun _ => ?_⟩
  · simp [putGate_sent]
  · rw [putGate_gates]; simp only [Four.get_set]; split
    · exact hd (h g)
    · exact h k
  · rw [putGate_sluices]; exact h k
  · rw [putGate_gates] at h
    have c : (p.putGate g r).compare k = p.compare k := by rw [← still_compare, ← still_compare p, st]
    have i : (p.putGate g r).interlock k = p.interlock k := by rw [← still_interlock, ← still_interlock p, st]
    rw [c, i]
    simp only [Four.get_set] at h
    split at h
    · rename_i e; subst e; exact ho h n
    · exact absurd h n
  · rw [putGate_sluices] at h; exact absurd h n
  · exact refreshFaces_guarded _

/-- A sluice record written with its position as it stands, its trim in range, and no up-step but over a closed
far side (R22, R29, R30). -/
theorem putSluice_worked (k : Sluice) (r : SluiceRec) (hp : r.position = (p.sluices.get k).position)
    (ht : -15 ≤ (p.sluices.get k).trim ∧ (p.sluices.get k).trim ≤ 15 → -15 ≤ r.trim ∧ r.trim ≤ 15)
    (hs : ∀ n, r.step = some (.up, n) → (p.sluices.get k).step ≠ some (.up, n) → p.interlock k = true) :
    Worked p (p.putSluice k r) := by
  have st : (p.putSluice k r).still = p.still := by
    unfold Part.putSluice
    rw [examineIsolation_still]
    have e : r.feedback = (p.sluices.get k).feedback := by simp [SluiceRec.feedback, hp]
    simp only [Part.still, map_set_same _ _ _ _ e]
  refine ⟨st, fun x => List.prefix_refl _, fun h => h, fun h j => ?_, fun j h n => absurd h n,
    fun j i h n => ?_, fun h => h⟩
  · rw [putSluice_sluices]; simp only [Four.get_set]; split
    · exact ⟨hp ▸ (h k).1, ht (h k).2⟩
    · exact h j
  · have c : (p.putSluice k r).interlock j = p.interlock j := by rw [← still_interlock, ← still_interlock p, st]
    rw [c]
    rw [putSluice_sluices] at h
    simp only [Four.get_set] at h
    split at h
    · rename_i e; subst e; exact hs i h n
    · exact absurd h n

/-- A sluice record written with position, trim and step as they stand. -/
theorem putSluice_plain (k : Sluice) (r : SluiceRec) (hp : r.position = (p.sluices.get k).position)
    (ht : r.trim = (p.sluices.get k).trim) (hs : r.step = (p.sluices.get k).step) :
    Worked p (p.putSluice k r) :=
  putSluice_worked p k r hp (by rw [ht]; exact id) (by rw [hs]; intro n a b; exact absurd a b)

/-- A chain of operations, each kept to `Worked`. -/
theorem foldl_worked {α : Type} (f : Part → α → Part) (h : ∀ q x, Worked q (f q x)) (xs : List α) :
    Worked p (xs.foldl f p) := by
  induction xs generalizing p with
  | nil => exact .refl p
  | cons x xs ih => exact (h p x).trans (ih _)

/-! ### Gates -/

theorem closeGate_worked (g : Gate) (c : Commander) : Worked p (p.closeGate g c) := by
  unfold Part.closeGate
  simp only
  split
  · exact .refl p
  · exact putGate_worked p g _ rfl id fun a b => absurd a b
  · exact putGate_worked p g _ rfl (fun _ => rfl) (fun a => nomatch a)

theorem openGate_worked (g : Gate) : Worked p (p.openGate g) := by
  unfold Part.openGate
  simp only
  split
  · exact .refl p
  · exact .refl p
  · split
    · rename_i h
      exact putGate_worked p g _ rfl (fun _ => rfl) fun _ _ => h
    · exact .refl p

theorem stopGate_worked (g : Gate) : Worked p (p.stopGate g) := by
  unfold Part.stopGate
  simp only
  split
  · exact putGate_worked p g _ rfl (fun _ => rfl) (fun a => nomatch a)
  · exact putGate_worked p g _ rfl (fun _ => rfl) (fun a => nomatch a)
  · exact .refl p

theorem haltGate_worked (g : Gate) : Worked p (p.haltGate g) := by
  unfold Part.haltGate
  simp only
  split
  · exact putGate_worked p g _ rfl (fun _ => rfl) (fun a => nomatch a)
  · exact putGate_worked p g _ rfl (fun _ => rfl) (fun a => nomatch a)
  · exact putGate_worked p g _ rfl id fun a b => absurd a b
  · exact .refl p

/-! ### Sluices -/

/-- A step pulsed: an up-step over a closed far side only. -/
theorem stepSluice_worked (k : Sluice) (d : StepDir) (h : d = .up → p.interlock k = true) :
    Worked p (p.stepSluice k d) := by
  cases d with
  | up => exact putSluice_worked p k _ rfl id fun _ _ _ => h rfl
  | down => exact putSluice_worked p k _ rfl id (fun n e => by simp at e)

theorem stepDown_worked (k : Sluice) : Worked p (p.stepSluice k .down) :=
  stepSluice_worked p k .down (fun h => nomatch h)

theorem closeSluice_worked (k : Sluice) : Worked p (p.closeSluice k) := by
  unfold Part.closeSluice
  simp only
  split
  · exact putSluice_plain p k _ rfl rfl rfl
  · split
    · exact putSluice_plain p k _ rfl rfl rfl
    · refine .trans ?_ (stepDown_worked _ k)
      exact putSluice_plain p k _ rfl rfl rfl

theorem closeHeld_worked (k : Sluice) : Worked p (p.closeHeld k) := by
  unfold Part.closeHeld; split
  · exact closeSluice_worked p k
  · exact .refl p

theorem enterMode_worked (m : Mode) : Worked p (p.enterMode m) :=
  ((mode_worked p m).trans (foldl_worked _ _ closeHeld_worked _)).trans (refreshFaces_worked _)

theorem rampNext_worked (k : Sluice) : Worked p (p.rampNext k) := by
  unfold Part.rampNext
  simp only
  split
  · exact putSluice_plain p k _ rfl rfl rfl
  · split
    · refine .trans ?_ (stepDown_worked _ k)
      exact putSluice_plain p k _ rfl rfl rfl
    · split
      · exact putSluice_plain p k _ rfl rfl rfl
      · split
        · exact putSluice_plain p k _ rfl rfl rfl
        · split
          · rename_i h
            have w := putSluice_plain p k { p.sluices.get k with target := p.effectiveCap k, state := .stepping
                                                                 due := false } rfl rfl rfl
            refine w.trans (stepSluice_worked _ k .up fun _ => ?_)
            rw [w.interlock]
            simp only [Part.mayStepUp, Bool.and_eq_true] at h
            exact h.2
          · exact putSluice_plain p k _ rfl rfl rfl

theorem retestRamp_worked (k : Sluice) : Worked p (p.retestRamp k) := by
  unfold Part.retestRamp; split
  · exact rampNext_worked p k
  · exact .refl p

theorem beginClosing_worked (k : Sluice) : Worked p (p.beginClosing k) := by
  refine .trans ?_ (closeSluice_worked _ k)
  exact putSluice_plain p k _ rfl rfl rfl

/-- A trim of 0 is in range. -/
theorem trimZero_worked (k : Sluice) (r : SluiceRec) (hp : r.position = (p.sluices.get k).position)
    (ht : r.trim = 0) (hs : r.step = (p.sluices.get k).step) : Worked p (p.putSluice k r) :=
  putSluice_worked p k r hp (by rw [ht]; omega) (by rw [hs]; intro n a b; exact absurd a b)

theorem stopTransfer_worked (k : Sluice) : Worked p (p.stopTransfer k) := by
  unfold Part.stopTransfer
  simp only
  split
  · split
    · refine .trans ?_ (closeSluice_worked _ k)
      exact trimZero_worked p k _ rfl rfl rfl
    · exact putSluice_plain p k _ rfl rfl rfl
  · exact putSluice_plain p k _ rfl rfl rfl

theorem haltWorks_worked : Worked p p.haltWorks :=
  (foldl_worked p _ haltGate_worked _).trans (foldl_worked _ _ stopTransfer_worked _)

end Sys2Proof.Machine
end

