-- ==== Sys2Proof/Laws/Faults.lean ====
section
/-! SUPPORT. The fault handler's operations, and those of the sequencer that end no step, keep to `Worked`
(chapters 6 and 7). -/

namespace Sys2Proof.Machine

variable (p : Part)

/-! ### The fault handler -/

theorem haltFlight_worked (k : FaultKind) (x : Subject) : Worked p (p.haltFlight k x) := by
  unfold Part.haltFlight
  refine .trans ?_ (event_worked _ _)
  refine .trans ?_ (noteFault_worked _ _ _)
  refine .trans ?_ (sendFault_worked _ _ _ _ _)
  refine .trans ?_ (stopLockageTimers_worked _)
  refine .trans ?_ (requestAllStop_worked _)
  refine .trans ?_ (haltWorks_worked _)
  refine .trans ?_ (enterMode_worked _ _)
  exact faults_worked p _

theorem continueFault_worked (k : FaultKind) (x : Subject) : Worked p (p.continueFault k x) := by
  unfold Part.continueFault
  split
  · exact .refl p
  · refine .trans ?_ (noteFault_worked _ _ _)
    refine .trans ?_ (sendFault_worked _ _ _ _ _)
    exact faults_worked p _

theorem stopTravelling_worked (k : FaultKind) : Worked p (p.stopTravelling k) := by
  unfold Part.stopTravelling
  split
  · exact foldl_worked p _ stopGate_worked _
  · exact .refl p

theorem report_worked (k : FaultKind) (x : Subject) : Worked p (p.report k x) := by
  unfold Part.report
  split
  · split
    · exact haltFlight_worked p k x
    · exact continueFault_worked p k x
  · split
    · exact haltFlight_worked p k x
    · exact continueFault_worked p k x
  · exact noteFault_worked p k _
  · exact ((stopTravelling_worked p k).trans (sendFault_worked _ _ _ _ _)).trans (noteFault_worked _ _ _)

theorem eStopStanding_worked : Worked p p.eStopStanding := by
  unfold Part.eStopStanding
  split
  · exact report_worked p _ _
  · exact .refl p

/-! ### Faces and gates that report -/

theorem lampDecision_worked (f : Face) : Worked p (p.lampDecision f) :=
  ((((setAwaited_worked p f true).trans (refreshFaces_worked _)).trans (report_worked _ _ _)).trans
    (setAwaited_worked _ f false)).trans (refreshFaces_worked _)

theorem requestProceed_worked (f : Face) : Worked p (p.requestProceed f) := by
  unfold Part.requestProceed
  split
  · exact (setRequested_worked p f .proceed).trans (lampDecision_worked _ f)
  · exact requestAspect_worked p f .proceed

theorem pause_worked (g : Gate) :
    Worked p (p.putGate g { p.gates.get g with state := .stopped, drive := .off }) :=
  putGate_worked p g _ rfl (fun _ => rfl) (fun a => nomatch a)

theorem retestGate_worked (g : Gate) : Worked p (p.retestGate g) := by
  unfold Part.retestGate
  simp only
  split
  · exact .refl p
  · split
    · exact (pause_worked p g).trans (report_worked _ _ _)
    · split
      · exact .refl p
      · exact pause_worked p g
    · exact report_worked p _ _
    · split
      · rename_i h
        exact putGate_worked p g _ rfl (fun _ => rfl) fun _ _ => h
      · exact .refl p
    · exact .refl p

theorem retestBeside_worked (g : Gate) : Worked p (p.retestBeside g) :=
  foldl_worked p _ (fun q h => (retestGate_worked q h).trans (retestRamp_worked _ h)) _

/-! ### Transfers -/

theorem recordTransfer_worked (k : Sluice) (n : Nat) : Worked p (p.recordTransfer k n) := by
  unfold Part.recordTransfer
  simp only
  split
  · refine .trans ?_ (beginClosing_worked _ k)
    exact trimZero_worked p k _ rfl rfl rfl
  · refine .trans ?_ (report_worked _ _ _)
    refine .trans ?_ (rampNext_worked _ k)
    exact trimZero_worked p k _ rfl rfl rfl
  · refine .trans ?_ (rampNext_worked _ k)
    exact trimZero_worked p k _ rfl rfl rfl

theorem startTransfer_worked (k : Sluice) (n : Nat) : Worked p (p.startTransfer k n) := by
  unfold Part.startTransfer
  simp only
  split
  · split
    · exact putSluice_plain p k _ rfl rfl rfl
    · exact putSluice_plain p k _ rfl rfl rfl
  · exact recordTransfer_worked p k n

theorem stopOwnTransfer_worked (k : Sluice) : Worked p (p.stopOwnTransfer k) := by
  unfold Part.stopOwnTransfer
  split
  · exact stopTransfer_worked p k
  · exact putSluice_plain p k _ rfl rfl rfl

theorem stopStepTransfer_worked : Worked p p.stopStepTransfer := by
  unfold Part.stopStepTransfer
  split
  · split
    · exact stopOwnTransfer_worked p _
    · split
      · exact stopOwnTransfer_worked p _
      · exact .refl p
    · exact .refl p
  · exact .refl p

theorem closeEntry_worked (d : Direction) (c : Commander) : Worked p (p.closeEntry d c) := by
  unfold Part.closeEntry
  split
  · exact .refl p
  · exact closeGate_worked p _ _

/-! ### The OPEN step and the move -/

theorem moveUnderWay_worked (g : Gate) (d : Direction) : Worked p (p.moveUnderWay g d) := by
  unfold Part.moveUnderWay
  refine .trans ?_ (requestProceed_worked _ _)
  exact onLockage_worked p _ fun _ => rfl

theorem waitTide_worked (g : Gate) : Worked p (p.waitTide g) := by
  unfold Part.waitTide
  split
  · exact .refl p
  · split
    · exact setStage_worked p _
    · refine .trans ?_ (event_worked _ _)
      exact onLockage_worked p _ fun _ => rfl

theorem reachTravel_worked (ph : Phase) : Worked p (p.reachTravel ph) := onLockage_worked p _ fun _ => rfl

theorem levelTest_worked (g : Gate) (ph : Phase) (n : Nat) : Worked p (p.levelTest g ph n).1 := by
  unfold Part.levelTest
  split
  · split
    · exact reachTravel_worked p ph
    · exact (reachTravel_worked p ph).trans (openGate_worked _ g)
    · exact setStage_worked p _
  · exact (setStage_worked p _).trans (report_worked _ _ _)
  · exact (setStage_worked p _).trans (startTransfer_worked _ _ _)

theorem evaluateOpen_worked (l : Lockage) (g : Gate) (ph : Phase) : Worked p (p.evaluateOpen l g ph).1 := by
  unfold Part.evaluateOpen
  split
  · exact setStage_worked p _
  · split
    · exact waitTide_worked p g
    · exact levelTest_worked p g _ _

end Sys2Proof.Machine
end

