-- ==== Sys2Proof/Laws/Onward.lean ====
section
/-! SUPPORT. What the sequencer, the outlet unit, the vessel queues and the turn selector can do to the part beside
what works, signals and faults do: the relation `Onward p q` says it once, for every operation that follows the
first change of an event (chapters 3, 4, 6 and 9). -/

namespace Sys2Proof.Machine

/-! ### What no operation that follows an event changes -/

/-- The outlet unit's configuration alone. -/
def OutletUnit.base (u : OutletUnit) : OutletUnit :=
  { OutletUnit.initial with
    outlets := u.outlets.map fun o => { o with queue := [], state := .idle }
    interval := u.interval }

/-- The part without all that may follow the first change of an event: what is left are the field inputs, the
readings, the lamps' current sense, the settings, the clock, the next ticket, the outlets' configuration and the
link interface. -/
def Part.base (p : Part) : Part :=
  { p.still with
    upQueue := [], downQueue := [], calls := ⟨false, false, false, false⟩, turn := Part.initial.turn
    lockage := none, outlets := p.outlets.base }

theorem base_of_still {p q : Part} (h : q.still = p.still) : q.base = p.base := by
  have o : q.outlets = p.outlets := by
    have e := congrArg Part.outlets h; exact e
  unfold Part.base
  rw [h, o]

theorem base_compare (p : Part) (g : Gate) : p.base.compare g = p.compare g := by
  cases g <;> rfl

theorem base_interlock (p : Part) (g : Gate) : p.base.interlock g = p.interlock g := by
  cases g <;> rfl

/-- What the whole part can do after the first change of an event, but for the hull marks. -/
structure Moved (p q : Part) : Prop where
  base : q.base = p.base
  sent : ∀ x, p.sent.get x <+: q.sent.get x
  records : ∀ x, (p.outlets.outlets.get x).queue <+: (q.outlets.outlets.get x).queue
  drives : p.DrivesMatch → q.DrivesMatch
  ranges : p.SluicesInRange → q.SluicesInRange
  opens : OpensSafely p q
  steps : StepsUpSafely p q
  ordered : p.QueuesOrdered → q.QueuesOrdered
  numbers : p.NumbersInRange → q.NumbersInRange

/-- What the whole part can do after the first change of an event. -/
structure Onward (p q : Part) : Prop extends Moved p q where
  proceed : p.ProceedGuarded → q.ProceedGuarded
  hulls : p.HullsDistinct → q.HullsDistinct

variable {p q r : Part}

theorem Moved.compare (h : Moved p q) (g : Gate) : q.compare g = p.compare g := by
  rw [← base_compare q, ← base_compare p, h.base]

theorem Moved.interlock (h : Moved p q) (g : Gate) : q.interlock g = p.interlock g := by
  rw [← base_interlock q, ← base_interlock p, h.base]

theorem Moved.trans (a : Moved p q) (b : Moved q r) : Moved p r where
  base := b.base.trans a.base
  sent x := (a.sent x).trans (b.sent x)
  records x := (a.records x).trans (b.records x)
  drives h := b.drives (a.drives h)
  ranges h := b.ranges (a.ranges h)
  opens g h n := by
    by_cases m : (q.gates.get g).drive = .openDrive
    · rw [b.compare, b.interlock]; exact a.opens g m n
    · exact b.opens g h m
  steps k i h n := by
    by_cases m : (q.sluices.get k).step = some (.up, i)
    · rw [b.interlock]; exact a.steps k i m n
    · exact b.steps k i h m
  ordered h := b.ordered (a.ordered h)
  numbers h := b.numbers (a.numbers h)

theorem Onward.trans (a : Onward p q) (b : Onward q r) : Onward p r where
  toMoved := a.toMoved.trans b.toMoved
  proceed h := b.proceed (a.proceed h)
  hulls h := b.hulls (a.hulls h)

/-- What works, signals and faults leave of the lockage record. -/
theorem Worked.lockage (h : Worked p q) : q.lockage.map Lockage.still = p.lockage.map Lockage.still :=
  by
  have e := congrArg Part.lockage h.still; exact e

theorem Worked.upQueue (h : Worked p q) : q.upQueue = p.upQueue := by
  have e := congrArg Part.upQueue h.still; exact e

theorem Worked.downQueue (h : Worked p q) : q.downQueue = p.downQueue := by
  have e := congrArg Part.downQueue h.still; exact e

theorem Worked.calls (h : Worked p q) : q.calls = p.calls := by
  have e := congrArg Part.calls h.still; exact e

theorem Worked.turn (h : Worked p q) : q.turn = p.turn := by
  have e := congrArg Part.turn h.still; exact e

theorem Worked.outlets (h : Worked p q) : q.outlets = p.outlets := by
  have e := congrArg Part.outlets h.still; exact e

theorem Worked.settings (h : Worked p q) : q.settings = p.settings := by
  have e := congrArg Part.settings h.still; exact e

theorem Worked.nextTicket (h : Worked p q) : q.nextTicket = p.nextTicket := by
  have e := congrArg Part.nextTicket h.still; exact e

/-- A lockage stays, with what stands still of it. -/
theorem Worked.lockage_some (h : Worked p q) {l : Lockage} (e : p.lockage = some l) :
    ∃ m, q.lockage = some m ∧ m.still = l.still := by
  have w := h.lockage
  rw [e] at w
  cases k : q.lockage with
  | none => rw [k] at w; cases w
  | some m => rw [k] at w; exact ⟨m, rfl, by simpa using w⟩

theorem Worked.lockage_none (h : Worked p q) (e : p.lockage = none) : q.lockage = none := by
  have w := h.lockage
  rw [e] at w
  cases k : q.lockage with
  | none => rfl
  | some m => rw [k] at w; cases w

theorem still_convoy (p : Part) : p.still.convoy = p.convoy := by
  simp only [Part.convoy, Part.still]
  cases p.lockage <;> rfl

theorem Worked.convoy (h : Worked p q) : q.convoy = p.convoy := by
  rw [← still_convoy q, ← still_convoy p, h.still]

theorem Worked.moved (h : Worked p q) : Moved p q where
  base := base_of_still h.still
  sent := h.sent
  records x := by simp [h.outlets]
  drives := h.drives
  ranges := h.ranges
  opens := h.opens
  steps := h.steps
  ordered o := by unfold Part.QueuesOrdered; rw [h.upQueue, h.downQueue]; exact o
  numbers o := by unfold Part.NumbersInRange; rw [h.turn, h.outlets, h.nextTicket]; exact o

theorem Worked.onward (h : Worked p q) : Onward p q where
  toMoved := h.moved
  proceed := h.proceed
  hulls o := by
    unfold Part.HullsDistinct Part.registered
    rw [h.upQueue, h.downQueue, h.convoy]; exact o

theorem Onward.refl (p : Part) : Onward p p := (Worked.refl p).onward

/-- An update that leaves gates, sluices and the queues alone. -/
theorem Moved.of_same (base : q.base = p.base) (sent : ∀ x, p.sent.get x <+: q.sent.get x)
    (records : ∀ x, (p.outlets.outlets.get x).queue <+: (q.outlets.outlets.get x).queue)
    (gates : q.gates = p.gates) (sluices : q.sluices = p.sluices)
    (ordered : p.QueuesOrdered → q.QueuesOrdered) (numbers : p.NumbersInRange → q.NumbersInRange) :
    Moved p q where
  base := base
  sent := sent
  records := records
  drives h g := by rw [gates]; exact h g
  ranges h k := by rw [sluices]; exact h k
  opens g h n := by rw [gates] at h; exact absurd h n
  steps k i h n := by rw [sluices] at h; exact absurd h n
  ordered := ordered
  numbers := numbers

/-- An update that, beside, leaves the shown aspects, the current step and the vessels alone. -/
theorem Moved.onward_same (m : Moved p q) (gates : q.gates = p.gates)
    (faces : q.faces = p.faces) (cur : q.curStep = p.curStep) (up : q.upQueue = p.upQueue)
    (down : q.downQueue = p.downQueue) (convoy : q.convoy = p.convoy) : Onward p q where
  toMoved := m
  proceed h f e := by
    rw [faces] at e; rw [gates, cur]; exact h f e
  hulls o := by
    unfold Part.HullsDistinct Part.registered
    rw [up, down, convoy]; exact o

/-- A derivation of the faces guards PROCEED whatever stood before (R40). -/
theorem Moved.refresh (m : Moved p q) (h : p.HullsDistinct → q.HullsDistinct) : Onward p q.refreshFaces where
  toMoved := m.trans (refreshFaces_worked q).moved
  proceed _ := refreshFaces_guarded q
  hulls o := (refreshFaces_worked q).onward.hulls (h o)

/-- A chain of operations, each kept to `Onward`. -/
theorem foldl_onward {α : Type} (f : Part → α → Part) (h : ∀ q x, Onward q (f q x)) (xs : List α) (p : Part) :
    Onward p (xs.foldl f p) := by
  induction xs generalizing p with
  | nil => exact .refl p
  | cons x xs ih => exact (h p x).trans (ih _)

theorem nextNumber_assignable (n : Nat) : assignable (nextNumber n) := by
  unfold nextNumber assignable
  split <;> omega

end Sys2Proof.Machine
end

