-- ==== Sys2Proof/Laws/Records.lean ====
section
/-! SUPPORT. The outlet unit and the vessel queues keep to `Moved` (chapters 3 and 9). -/

namespace Sys2Proof.Machine

variable (p : Part)

/-! ### The outlet unit -/

/-- What the outlet unit changes: its own state below its configuration, and messages added. -/
structure Recorded (p q : Part) : Prop where
  form : ∃ u s, q = { p with outlets := u, sent := s }
  base : q.outlets.base = p.outlets.base
  sent : ∀ x, p.sent.get x <+: q.sent.get x
  records : ∀ x, (p.outlets.outlets.get x).queue <+: (q.outlets.outlets.get x).queue
  sequence : assignable p.outlets.nextSequence → assignable q.outlets.nextSequence
  tally : assignable p.outlets.nextTally → assignable q.outlets.nextTally

namespace Recorded

variable {p q r : Part}

theorem refl (p : Part) : Recorded p p :=
  ⟨⟨_, _, rfl⟩, rfl, fun _ => List.prefix_refl _, fun _ => List.prefix_refl _, id, id⟩

theorem trans (a : Recorded p q) (b : Recorded q r) : Recorded p r := by
  refine ⟨?_, b.base.trans a.base, fun x => (a.sent x).trans (b.sent x), fun x => (a.records x).trans (b.records x),
    b.sequence ∘ a.sequence, b.tally ∘ a.tally⟩
  obtain ⟨_, _, rfl⟩ := a.form
  obtain ⟨u, s, rfl⟩ := b.form
  exact ⟨u, s, rfl⟩

theorem onward (h : Recorded p q) : Onward p q := by
  obtain ⟨u, s, rfl⟩ := h.form
  refine (Moved.of_same ?_ h.sent h.records rfl rfl id fun n => ?_).onward_same rfl rfl rfl rfl rfl rfl
  · have b := h.base
    unfold Part.base
    simp only at b
    rw [b]
    rfl
  · exact ⟨n.1, n.2.1, h.sequence n.2.2.1, h.tally n.2.2.2⟩

/-- The outlet unit's state replaced with configuration and queues kept. -/
theorem of_unit (u : OutletUnit) (o : u.outlets = p.outlets.outlets) (i : u.interval = p.outlets.interval)
    (s : assignable p.outlets.nextSequence → assignable u.nextSequence)
    (t : assignable p.outlets.nextTally → assignable u.nextTally) : Recorded p { p with outlets := u } :=
  ⟨⟨_, _, rfl⟩, by simp [OutletUnit.base, o, i], fun _ => List.prefix_refl _,
    fun x => by simp only [o]; exact List.prefix_refl _, s, t⟩

end Recorded

theorem send_recorded (q : Port) (m : Msg) : Recorded p (p.send q m) :=
  ⟨⟨_, _, rfl⟩, rfl, send_grows p q m, fun _ => List.prefix_refl _, id, id⟩

/-- An outlet's record written with its configuration kept and its queue grown. -/
theorem putOutlet_recorded (q : Port) (o : Outlet) (e : o.enabled = (p.outlets.outlets.get q).enabled)
    (d : o.depth = (p.outlets.outlets.get q).depth) (g : (p.outlets.outlets.get q).queue <+: o.queue) :
    Recorded p (p.putOutlet q o) := by
  refine ⟨⟨_, _, rfl⟩, ?_, fun _ => List.prefix_refl _, fun x => ?_, id, id⟩
  · unfold OutletUnit.base Part.putOutlet
    cases q <;> simp_all [Three.set, Three.map, Three.get]
  · unfold Part.putOutlet
    simp only [Three.get_set]
    split
    · rename_i h; rw [h]; exact g
    · exact List.prefix_refl _

theorem pushRecord_recorded (r : Record) (q : Port) : Recorded p (p.pushRecord r q) := by
  unfold Part.pushRecord
  simp only
  split
  · split
    · refine .trans ?_ (send_recorded _ _ _)
      exact putOutlet_recorded p q _ rfl rfl (List.prefix_append _ _)
    · exact putOutlet_recorded p q _ rfl rfl (List.prefix_append _ _)
  · exact .refl p

theorem foldl_recorded {α : Type} (f : Part → α → Part) (h : ∀ q x, Recorded q (f q x)) (xs : List α) (p : Part) :
    Recorded p (xs.foldl f p) := by
  induction xs generalizing p with
  | nil => exact .refl p
  | cons x xs ih => exact (h p x).trans (ih _)

theorem appendRecord_recorded (b : RecordBody) : Recorded p (p.appendRecord b) := by
  unfold Part.appendRecord
  refine .trans ?_ (foldl_recorded _ (fun q x => pushRecord_recorded q _ x) _ _)
  exact .of_unit _ rfl rfl (fun _ => nextNumber_assignable _) id

theorem tryTally_recorded : Recorded p p.tryTally := by
  unfold Part.tryTally
  split
  · split
    · refine (appendRecord_recorded p _).trans (.of_unit _ rfl rfl id fun _ => nextNumber_assignable _)
    · exact .refl p
  · exact .refl p

theorem bump_same (u : OutletUnit) (k : Counter) (n : Nat) :
    ∃ c b, u.bump k n = { u with counters := c, saturated := b } := by
  unfold OutletUnit.bump
  split
  · exact ⟨_, _, rfl⟩
  · exact ⟨_, u.saturated, rfl⟩

theorem countEnding_same (u : OutletUnit) (o : LockageOutcome) (r : Option LockageRecord) :
    ∃ c b, u.countEnding o r = { u with counters := c, saturated := b } := by
  unfold OutletUnit.countEnding
  obtain ⟨c1, b1, e1⟩ := bump_same u o.counter 1
  cases r with
  | none => exact ⟨c1, b1, e1⟩
  | some x =>
    simp only [e1]
    obtain ⟨c2, b2, e2⟩ := bump_same { u with counters := c1, saturated := b1 } .lockageRecords 1
    obtain ⟨c3, b3, e3⟩ := bump_same { u with counters := c2, saturated := b2 } .vessels x.lines.length
    obtain ⟨c4, b4, e4⟩ := bump_same { u with counters := c3, saturated := b3 } .tollSum x.total
    exact ⟨c4, b4, by rw [e2, e3, e4]⟩

theorem countEnding_recorded (o : LockageOutcome) (r : Option LockageRecord) : Recorded p (p.countEnding o r) := by
  unfold Part.countEnding
  obtain ⟨c, b, e⟩ := countEnding_same p.outlets o r
  simp only [e]
  refine .trans ?_ (tryTally_recorded _)
  exact .of_unit _ rfl rfl id id

theorem settleTally_recorded : Recorded p p.settleTally := by
  unfold Part.settleTally
  split
  · split
    · exact .refl p
    · exact .of_unit _ rfl rfl id id
  · exact .refl p

theorem offerHead_recorded (q : Port) : Recorded p (p.offerHead q) := by
  unfold Part.offerHead
  simp only
  split
  · refine .trans ?_ (send_recorded _ _ _)
    exact putOutlet_recorded p q _ rfl rfl (List.prefix_refl _)
  · exact putOutlet_recorded p q _ rfl rfl (List.prefix_refl _)

theorem reofferOutlets_recorded : Recorded p p.reofferOutlets :=
  (foldl_recorded _ offerHead_recorded _ p).trans (tryTally_recorded _)

/-! ### The head draw and the end of a transfer -/

theorem headDraw_onward (n : Nat) : Onward p (p.headDraw n) := by
  obtain ⟨c, b, e⟩ := bump_same p.outlets .headDraws 1
  have o : (p.headDraw n).outlets = { p.outlets with counters := c, saturated := b } := e
  refine Moved.onward_same (q := p.headDraw n)
    (.of_same ?_ (fun _ => List.prefix_refl _) (fun x => ?_) rfl rfl id fun h => ?_) rfl rfl ?_ rfl rfl ?_
  · unfold Part.base; rw [o]; rfl
  · simp [o]
  · unfold Part.NumbersInRange; rw [o]; exact h
  · simp only [Part.curStep, Part.headDraw]
    cases p.lockage with
    | none => rfl
    | some l => simp only [Option.map_some]; split <;> rfl
  · simp only [Part.convoy, Part.headDraw]
    cases p.lockage with
    | none => rfl
    | some l => simp only [Option.map_some]; split <;> rfl

/-- The sluice records with one replaced, its position and step kept and its trim at 0. -/
theorem clearSluice_worked (k : Sluice) (r : SluiceRec) (hp : r.position = (p.sluices.get k).position)
    (ht : r.trim = 0) (hs : r.step = (p.sluices.get k).step) :
    Worked p { p with sluices := p.sluices.set k r } := by
  have e : r.feedback = (p.sluices.get k).feedback := by simp [SluiceRec.feedback, hp]
  refine ⟨?_, fun x => List.prefix_refl _, id, fun h j => ?_, fun j h n => absurd h n, fun j i h n => ?_, id⟩
  · simp only [Part.still, map_set_same _ _ _ _ e]
  · simp only [Four.get_set]; split
    · rw [hp, ht]; exact ⟨(h k).1, by omega, by omega⟩
    · exact h j
  · simp only [Four.get_set] at h
    split at h
    · rename_i c; subst c; rw [hs] at h; exact absurd h n
    · exact absurd h n

theorem endTransfer_onward (k : Sluice) : Onward p (p.endTransfer k) := by
  have w : Worked p { p with sluices := p.sluices.set k { p.sluices.get k with
      transfer := none, trim := 0, rampTimer := none, due := false } } :=
    clearSluice_worked p k _ rfl rfl rfl
  unfold Part.endTransfer
  simp only
  split
  · split
    · exact w.onward.trans (headDraw_onward _ _)
    · exact w.onward
  · exact w.onward

/-! ### The vessel queues -/

theorem deriveCalls_onward : Onward p p.deriveCalls :=
  Moved.onward_same (q := p.deriveCalls)
    (.of_same rfl (fun _ => List.prefix_refl _) (fun _ => List.prefix_refl _) rfl rfl id id) rfl rfl rfl rfl rfl rfl

theorem takeWhile_all {α : Type} (f : α → Bool) (q : List α) : ∀ v ∈ q.takeWhile f, f v = true := by
  induction q with
  | nil => simp
  | cons a q ih =>
    simp only [List.takeWhile_cons]
    split
    · rename_i h; simp only [List.mem_cons]
      rintro v (rfl | m)
      · exact h
      · exact ih v m
    · simp

/-- Priority records in front of others are a queue in order (R47). -/
theorem priorityFirst_append {a b : List Vessel} (ha : ∀ v ∈ a, v.priority = true)
    (hb : ∀ v ∈ b, v.priority = false) : priorityFirst (a ++ b) := by
  unfold priorityFirst
  induction a with
  | nil => exact fun v m => hb v ((List.dropWhile_sublist _).subset m)
  | cons x a ih =>
    have hx := ha x (List.mem_cons_self ..)
    simp only [List.cons_append, List.dropWhile_cons, hx, if_true]
    exact ih fun v m => ha v (List.mem_cons_of_mem _ m)

theorem mergeConvoy_ordered (vs q : List Vessel) (h : priorityFirst q) : priorityFirst (mergeConvoy vs q) := by
  unfold mergeConvoy
  rw [List.append_assoc]
  refine priorityFirst_append (fun v m => ?_) fun v m => ?_
  · rcases List.mem_append.1 m with m | m
    · exact (List.mem_filter.1 m).2
    · exact takeWhile_all _ _ v m
  · rcases List.mem_append.1 m with m | m
    · simpa using (List.mem_filter.1 m).2
    · exact h v m

theorem placeVessel_ordered (v : Vessel) (q : List Vessel) (h : priorityFirst q) : priorityFirst (placeVessel v q) := by
  unfold placeVessel
  split
  · rename_i e
    have s : q.takeWhile (·.priority) ++ v :: q.dropWhile (·.priority)
        = (q.takeWhile (·.priority) ++ [v]) ++ q.dropWhile (·.priority) := by simp
    rw [s]
    refine priorityFirst_append (fun w m => ?_) h
    rcases List.mem_append.1 m with m | m
    · exact takeWhile_all _ _ w m
    · rw [List.mem_singleton.1 m]; exact e
  · rename_i e
    have s : q ++ [v] = q.takeWhile (·.priority) ++ (q.dropWhile (·.priority) ++ [v]) := by
      rw [← List.append_assoc, List.takeWhile_append_dropWhile]
    rw [s]
    refine priorityFirst_append (takeWhile_all _ _) fun w m => ?_
    rcases List.mem_append.1 m with m | m
    · exact h w m
    · rw [List.mem_singleton.1 m]; simpa using e

/-- A queue from which records left is still in order (R47, R52, R56). -/
theorem priorityFirst_sublist {a q : List Vessel} (s : a.Sublist q) (h : priorityFirst q) : priorityFirst a := by
  induction s with
  | slnil => exact h
  | @cons a q x s ih =>
    refine ih fun v m => ?_
    unfold priorityFirst at h
    simp only [List.dropWhile_cons] at h
    split at h
    · exact h v m
    · exact h v (List.mem_cons_of_mem _ ((List.dropWhile_sublist _).subset m))
  | @cons_cons a q x s ih =>
    unfold priorityFirst at h ⊢
    simp only [List.dropWhile_cons] at h ⊢
    split at h
    · rename_i e; simp only [e, if_true]; exact ih h
    · rename_i e
      simp only [e]
      intro v m
      rcases List.mem_cons.1 m with rfl | m
      · exact h _ (List.mem_cons_self ..)
      · exact h v (List.mem_cons_of_mem _ (s.subset m))

theorem setQueue_moved (d : Direction) (q : List Vessel) (h : priorityFirst (p.queueOf d) → priorityFirst q) :
    Moved p (p.setQueue d q) := by
  cases d
  · exact Moved.of_same rfl (fun _ => List.prefix_refl _) (fun _ => List.prefix_refl _) rfl rfl
      (fun o => ⟨h o.1, o.2⟩) id
  · exact Moved.of_same rfl (fun _ => List.prefix_refl _) (fun _ => List.prefix_refl _) rfl rfl
      (fun o => ⟨o.1, h o.2⟩) id

theorem returnConvoy_moved (d : Direction) (vs : List Vessel) : Moved p (p.returnConvoy d vs) :=
  (setQueue_moved p d _ (mergeConvoy_ordered vs _)).trans (deriveCalls_onward _).toMoved

theorem takeConvoy_moved (d : Direction) (vs : List Vessel) : Moved p (p.takeConvoy d vs) :=
  (setQueue_moved p d _ (priorityFirst_sublist (List.drop_sublist _ _))).trans (deriveCalls_onward _).toMoved

/-- A convoy returned is the convoy and the queue in another order (R57). -/
theorem mergeConvoy_perm (vs q : List Vessel) : (mergeConvoy vs q).Perm (vs ++ q) := by
  unfold mergeConvoy
  have a : (vs.filter (·.priority) ++ vs.filter fun v => !v.priority).Perm vs := List.filter_append_perm _ _
  have b : q.takeWhile (·.priority) ++ q.dropWhile (·.priority) = q := List.takeWhile_append_dropWhile
  have c : (vs.filter (·.priority) ++ q.takeWhile (·.priority) ++ vs.filter fun v => !v.priority).Perm
      (vs.filter (·.priority) ++ (vs.filter fun v => !v.priority) ++ q.takeWhile (·.priority)) := by
    rw [List.append_assoc, List.append_assoc]
    exact List.Perm.append_left _ List.perm_append_comm
  refine (c.append_right _).trans ?_
  rw [List.append_assoc, b]
  exact a.append_right _

end Sys2Proof.Machine
end

