-- ==== Sys2Proof/Laws/Lockage.lean ====
section
/-! SUPPORT. The lockage sequencer's operations keep to `Onward` (chapter 6). -/

namespace Sys2Proof.Machine

variable {p q : Part}

/-! ### Hull marks -/

/-- Vessels with distinct hull marks leave others that have them (R48). -/
def HullsLe (xs ys : List Vessel) : Prop :=
  (ys.map (·.hull)).Nodup → (xs.map (·.hull)).Nodup

theorem HullsLe.refl (xs : List Vessel) : HullsLe xs xs := id

theorem HullsLe.trans {xs ys zs : List Vessel} (a : HullsLe xs ys) (b : HullsLe ys zs) : HullsLe xs zs := a ∘ b

theorem HullsLe.of_perm {xs ys : List Vessel} (h : xs.Perm ys) : HullsLe xs ys := (h.map _).nodup_iff.2

theorem HullsLe.of_sublist {xs ys : List Vessel} (h : xs.Sublist ys) : HullsLe xs ys := fun n => n.sublist (h.map _)

theorem hulls_of_le (s : HullsLe q.registered p.registered) (h : p.HullsDistinct) : q.HullsDistinct := s h

/-- The mode is entered once the vessels stand in their places. -/
theorem Moved.enter (m : Moved p q) (h : p.HullsDistinct → q.HullsDistinct) (md : Mode) : Onward p (q.enterMode md) := by
  have w : Worked q (Gate.all.foldl Part.closeHeld { q with mode := md }) :=
    (mode_worked q md).trans (foldl_worked _ _ closeHeld_worked _)
  exact (m.trans w.moved).refresh fun o => w.onward.hulls (h o)

/-- The lockage record replaced or dropped. -/
theorem lockage_moved (p : Part) (l : Option Lockage) : Moved p { p with lockage := l } :=
  Moved.of_same (q := { p with lockage := l }) rfl (fun _ => List.prefix_refl _) (fun _ => List.prefix_refl _)
    rfl rfl id id

/-- A change of the lockage record that keeps its convoy and its step in hand. -/
theorem onLockage_onward (p : Part) (f : Lockage → Lockage) (hc : ∀ l, (f l).convoy = l.convoy)
    (hs : (p.onLockage f).curStep = p.curStep) : Onward p (p.onLockage f) := by
  refine (lockage_moved p _).onward_same rfl rfl hs rfl rfl ?_
  simp only [Part.convoy]
  cases p.lockage with
  | none => rfl
  | some l => exact hc l

/-- A change of the lockage record that keeps convoy, plan and current step. -/
theorem onLockage_plain (p : Part) (f : Lockage → Lockage) (hc : ∀ l, (f l).convoy = l.convoy)
    (hp : ∀ l, (f l).plan = l.plan) (hi : ∀ l, (f l).current = l.current) : Onward p (p.onLockage f) := by
  refine onLockage_onward p f hc ?_
  simp only [Part.curStep, Part.onLockage]
  cases p.lockage with
  | none => rfl
  | some l => simp only [Option.map_some, hp, hi]

/-! ### The end of a lockage -/

theorem convoy_of (p : Part) {l : Lockage} (h : p.lockage = some l) : p.convoy = l.convoy := by
  simp [Part.convoy, h]

/-- The queues after the disposal of a convoy, with no lockage left (R57, R94). -/
theorem dispose_hulls (p : Part) (l : Lockage) (o : LockageOutcome) :
    HullsLe ((p.dispose l o).upQueue ++ (p.dispose l o).downQueue) (p.upQueue ++ p.downQueue ++ l.convoy) := by
  unfold Part.dispose
  split
  · unfold Part.returnConvoy
    simp only [deriveCalls_upQueue, deriveCalls_downQueue]
    have m := mergeConvoy_perm l.convoy (p.queueOf l.direction)
    generalize l.direction = d at m ⊢
    cases d
    · simp only [Part.setQueue, Part.queueOf] at m ⊢
      refine .of_perm ((m.append_right _).trans ?_)
      rw [List.append_assoc]
      exact List.perm_append_comm
    · simp only [Part.setQueue, Part.queueOf] at m ⊢
      refine .of_perm ((m.append_left _).trans ?_)
      rw [List.append_assoc]
      exact List.Perm.append_left _ List.perm_append_comm
  · obtain ⟨u, s, e⟩ := (appendRecord_recorded p (.lockage (p.tollRecord l o))).form
    rw [e]
    exact .of_sublist (List.sublist_append_left _ _)

theorem dispose_moved (p : Part) (l : Lockage) (o : LockageOutcome) : Moved p (p.dispose l o) := by
  unfold Part.dispose
  split
  · exact returnConvoy_moved p _ _
  · exact (appendRecord_recorded p _).onward.toMoved

theorem endLockage_onward (p : Part) (o : LockageOutcome) : Onward p (p.endLockage o) := by
  unfold Part.endLockage
  split
  · exact .refl p
  · rename_i l h
    simp only
    refine .trans ?_ (event_worked _ _).onward
    have a := (stopLockageTimers_worked p).onward.trans
      (onLockage_plain p.stopLockageTimers (fun x => { x with outcome := some o }) (fun _ => rfl) (fun _ => rfl)
        fun _ => rfl)
    have w := requestAllStop_worked (p.stopLockageTimers.onLockage fun x => { x with outcome := some o })
    generalize e : (p.stopLockageTimers.onLockage fun x => { x with outcome := some o }).requestAllStop = p1
    rw [e] at w
    have b := a.trans w.onward
    have up : p1.upQueue = p.upQueue := w.upQueue
    have dn : p1.downQueue = p.downQueue := w.downQueue
    have c := countEnding_recorded (p1.dispose l o) o
      (if o.returns l.entryPassed = true then none else some (p1.tollRecord l o))
    generalize e2 : (p1.dispose l o).countEnding o
      (if o.returns l.entryPassed = true then none else some (p1.tollRecord l o)) = p2
    rw [e2] at c
    refine Moved.enter ?_ ?_ .rest
    · refine ((b.toMoved.trans (dispose_moved p1 l o)).trans c.onward.toMoved).trans ?_
      exact (lockage_moved p2 none).trans (clearReported_worked _).moved
    · refine hulls_of_le ?_
      have s := dispose_hulls p1 l o
      rw [up, dn] at s
      obtain ⟨u, t, f⟩ := c.form
      unfold Part.registered
      rw [convoy_of p h, f]
      simpa [Part.convoy, Part.clearReported] using s

theorem withdraw_onward (p : Part) : Onward p p.withdraw := by
  unfold Part.withdraw
  split
  · exact .refl p
  · refine .trans ?_ (endLockage_onward _ _)
    exact (((stopLockageTimers_worked p).trans (stopStepTransfer_worked _)).trans (closeEntry_worked _ _ _)).onward

/-! ### Steps -/

theorem makeCurrent_onward (p : Part) (i : Nat) : Onward p (p.makeCurrent i) := by
  unfold Part.makeCurrent
  split
  · exact .refl p
  · rename_i l h
    split
    · exact .refl p
    · rename_i s e
      simp only
      refine .trans ?_ (event_worked _ _).onward
      refine Moved.refresh ((lockage_moved p _).trans (clearReported_worked _).moved) ?_
      refine hulls_of_le ?_
      unfold Part.registered
      rw [convoy_of p h]
      exact HullsLe.refl _

/-- The plan replaced from a COMMIT step on: no face shows PROCEED there (R109). -/
theorem turnedBack_onward (p : Part) {s : PlanStep} (h : p.curStep = some s) (hs : s.work = .commit) :
    Onward p (p.onLockage Lockage.turnedBack) where
  toMoved := lockage_moved p _
  proceed g f e := by
    obtain ⟨_, ph, c⟩ := g f e
    rw [h] at c
    cases c
    cases hs
  hulls := hulls_of_le (by
    simp only [Part.registered, Part.convoy, Part.onLockage]
    cases p.lockage <;> exact HullsLe.refl _)

theorem beginCommit_onward (p : Part) (l : Lockage) {s : PlanStep} (h : p.curStep = some s)
    (hs : s.work = .commit) : Onward p (p.beginCommit l).1 := by
  unfold Part.beginCommit
  split
  · exact .refl p
  · exact turnedBack_onward p h hs
  · exact onLockage_plain p _ (fun _ => rfl) (fun _ => rfl) fun _ => rfl

theorem beginMove_onward (p : Part) (l : Lockage) (g : Gate) (d : Direction) : Onward p (p.beginMove l g d) := by
  unfold Part.beginMove
  split
  · split
    · exact withdraw_onward p
    · exact .refl p
  · exact (moveUnderWay_worked p g d).onward

theorem beginTransfer_onward (p : Part) (k : Sluice) (n : Nat) : Onward p (p.beginTransfer k n).1 := by
  unfold Part.beginTransfer
  simp only
  split
  · exact (startTransfer_worked p k n).onward.trans (endTransfer_onward _ k)
  · exact (startTransfer_worked p k n).onward

theorem beginStep_onward (p : Part) : Onward p p.beginStep.1 := by
  unfold Part.beginStep
  split
  · rename_i l s hl hs
    split
    · exact (closeGate_worked p _ _).onward
    · exact beginTransfer_onward p _ _
    · exact (evaluateOpen_worked p l _ _).onward
    · exact beginMove_onward p l _ _
    · rename_i h; exact beginCommit_onward p l hs h
  · exact .refl p

theorem nextStep_onward (p : Part) : Onward p p.nextStep.1 := by
  unfold Part.nextStep
  split
  · split
    · exact ((stopLockageTimers_worked p).onward.trans (makeCurrent_onward _ _)).trans (beginStep_onward _)
    · exact endLockage_onward p _
  · exact .refl p

theorem advanceBy_onward (n : Nat) (p : Part) : Onward p (Part.advanceBy n p) := by
  induction n generalizing p with
  | zero => exact .refl p
  | succ n ih =>
    unfold Part.advanceBy
    split
    · exact (nextStep_onward p).trans (ih _)
    · exact nextStep_onward p

theorem advance_onward (p : Part) : Onward p p.advance := advanceBy_onward _ p

/-- The chain goes on or not: either way onward. -/
theorem carryOn_onward (x : Part × Bool) (h : Onward p x.1) : Onward p (Part.carryOn x) := by
  unfold Part.carryOn
  split
  · exact h.trans (advance_onward _)
  · exact h

theorem work_onward (p : Part) : Onward p p.work := carryOn_onward _ (beginStep_onward p)

/-! ### What reaches the step in hand -/

theorem reevaluateOpen_onward (p : Part) : Onward p p.reevaluateOpen := by
  unfold Part.reevaluateOpen
  split
  · split
    · exact carryOn_onward _ (evaluateOpen_worked p _ _ _).onward
    · exact .refl p
  · exact .refl p

theorem arrivedClosed_onward (p : Part) (g : Gate) : Onward p (p.arrivedClosed g) := by
  unfold Part.arrivedClosed
  split
  · split
    · exact advance_onward p
    · exact .refl p
  · exact .refl p

theorem arrivedOpen_onward (p : Part) (g : Gate) : Onward p (p.arrivedOpen g) := by
  unfold Part.arrivedOpen
  split
  · split
    · exact advance_onward p
    · exact .refl p
  · exact .refl p

theorem transferReported_onward (p : Part) (k : Sluice) (n : Nat) : Onward p (p.transferReported k n) := by
  unfold Part.transferReported
  split
  · split
    · split
      · split
        · exact advance_onward p
        · exact .refl p
      · split
        · exact carryOn_onward _ (evaluateOpen_worked p _ _ _).onward
        · exact .refl p
      · exact .refl p
    · exact .refl p
  · exact .refl p

theorem startWaiting_onward (p : Part) (k : Sluice) (m : Nat) : Onward p (p.startWaiting k m) := by
  unfold Part.startWaiting
  simp only
  split
  · exact ((recordTransfer_worked p k m).onward.trans (endTransfer_onward _ k)).trans
      (transferReported_onward _ k m)
  · exact (recordTransfer_worked p k m).onward

theorem finishTransfer_onward (p : Part) (k : Sluice) : Onward p (p.finishTransfer k) := by
  unfold Part.finishTransfer
  simp only
  split
  · split
    · exact (endTransfer_onward p k).trans (startWaiting_onward _ k _)
    · exact (endTransfer_onward p k).trans (transferReported_onward _ k _)
    · exact .refl p
  · exact .refl p

theorem announceTransfer_onward (p : Part) (k : Sluice) : Onward p (p.announceTransfer k) := by
  unfold Part.announceTransfer
  split
  · split
    · exact (beginClosing_worked p k).onward.trans (finishTransfer_onward _ k)
    · exact ((rampNext_worked p k).trans (report_worked _ _ _)).onward
    · exact (rampNext_worked p k).onward
  · exact .refl p

theorem announceOpen_onward (p : Part) (r : Reach) : Onward p (p.announceOpen r) := by
  unfold Part.announceOpen
  split
  · split
    · exact reevaluateOpen_onward p
    · exact .refl p
  · exact .refl p

theorem announce_onward (p : Part) (r : Reach) : Onward p (p.announce r) := by
  unfold Part.announce
  have a := (foldl_worked p _ retestGate_worked r.gates).onward.trans
    ((foldl_onward _ announceTransfer_onward r.gates _).trans (announceOpen_onward _ r))
  simp only
  split
  · exact a.trans (deriveCalls_onward _)
  · exact a

end Sys2Proof.Machine
end

