-- ==== Sys2Proof/Laws/Turns.lean ====
section
/-! SUPPORT. The turn selector, the survey and `settle` keep to `Onward` (chapters 4 and 10); and what `settle` does
when the flight is not ready to turn. -/

namespace Sys2Proof.Machine

variable {p q : Part}

/-! ### The turn selector's own state -/

/-- A change of the turn selector that keeps the next lockage number in range. -/
theorem turn_onward (p : Part) (t : TurnSelector) (h : assignable p.turn.nextLockage → assignable t.nextLockage) :
    Onward p { p with turn := t } :=
  Moved.onward_same (q := { p with turn := t })
    (.of_same rfl (fun _ => List.prefix_refl _) (fun _ => List.prefix_refl _) rfl rfl id
      fun n => ⟨n.1, h n.2.1, n.2.2.1, n.2.2.2⟩) rfl rfl rfl rfl rfl rfl

theorem takePattern_onward (p : Part) : Onward p p.takePattern := turn_onward p _ id

theorem recompute_onward (p : Part) : Onward p p.recompute :=
  (takePattern_onward p).trans (turn_onward _ _ id)

theorem rejectPattern_onward (p : Part) : Onward p p.rejectPattern := by
  unfold Part.rejectPattern
  refine .trans ?_ (note_worked _ _).onward
  refine .trans ?_ (event_worked _ _).onward
  exact turn_onward p _ id

/-! ### The latch -/

theorem growConvoy_prefix (f : Flight) (rest taken : List Vessel) :
    p.growConvoy f taken rest <+: taken ++ rest := by
  induction rest generalizing taken with
  | nil => simp [Part.growConvoy]
  | cons v rest ih =>
    unfold Part.growConvoy
    split
    · have h := ih (taken ++ [v])
      simpa using h
    · exact List.prefix_append _ _

/-- A convoy stands at the head of its queue (R55). -/
theorem formConvoy_prefix (p : Part) (d : Direction) : p.formConvoy d <+: p.queueOf d := by
  unfold Part.formConvoy
  split
  · rename_i h; simp [h]
  · rename_i v rest h
    rw [h]
    split
    · exact growConvoy_prefix _ rest [v]
    · exact ⟨rest, rfl⟩

/-- The convoy taken and the queue it leaves are the queue (R56). -/
theorem convoy_drop (p : Part) (d : Direction) :
    p.formConvoy d ++ (p.queueOf d).drop (p.formConvoy d).length = p.queueOf d := by
  obtain ⟨rest, e⟩ := formConvoy_prefix p d
  have h : (p.queueOf d).drop (p.formConvoy d).length = rest := by
    rw [← e]; simp
  rw [h, e]

theorem undoLatch_moved (p : Part) (n : Nat) (d : Direction) (vs : List Vessel) (was : Pattern) (f : Predicted) :
    Moved p (p.undoLatch n d vs was f) := by
  unfold Part.undoLatch
  refine .trans ?_ (event_worked _ _).moved
  refine (returnConvoy_moved p d vs).trans (turn_onward (p.returnConvoy d vs) _ ?_).toMoved
  exact id

theorem startLockage_onward (p : Part) (l : Lockage) (b : Pattern) (m : Moved q p)
    (h : q.HullsDistinct → Part.HullsDistinct { p with lockage := some l }) : Onward q (p.startLockage l b) := by
  have a : Onward q (p.setUpLockage l b) := by
    unfold Part.setUpLockage
    refine .trans ?_ (makeCurrent_onward _ 1)
    refine .trans ?_ (event_worked _ _).onward
    refine .trans ?_ (requestEntryReady_worked _ _).onward
    refine Moved.enter (q := { p with lockage := some l, turn := { p.turn with planWait := false } }) ?_ h .working
    exact (m.trans (lockage_moved p (some l))).trans
      (turn_onward { p with lockage := some l } { p.turn with planWait := false } id).toMoved
  unfold Part.startLockage
  simp only
  split
  · exact (a.trans (eStopStanding_worked _).onward).trans (work_onward _)
  · exact a.trans (eStopStanding_worked _).onward

theorem latched_moved (p : Part) (d : Direction) : Moved p (p.latched d) := by
  refine (takeConvoy_moved p d (p.formConvoy d)).trans ?_
  refine (turn_onward (p.takeConvoy d (p.formConvoy d)) _ fun _ => ?_).toMoved
  exact nextNumber_assignable _

theorem queueOf_setQueue (p : Part) (d e : Direction) (q : List Vessel) :
    (p.setQueue d q).queueOf e = if e = d then q else p.queueOf e := by
  cases d <;> cases e <;> rfl

theorem registered_perm (p : Part) (d : Direction) :
    (p.queueOf d ++ p.queueOf d.opposite ++ p.convoy).Perm p.registered := by
  cases d
  · exact .refl _
  · exact List.Perm.append_right _ List.perm_append_comm

theorem opposite_ne (d : Direction) : d.opposite ≠ d := by cases d <;> exact fun h => nomatch h

theorem queueOf_lockage (p : Part) (l : Option Lockage) (d : Direction) :
    Part.queueOf { p with lockage := l } d = p.queueOf d := by
  cases d <;> rfl

@[simp] theorem latched_queueOf (p : Part) (d e : Direction) :
    (p.latched d).queueOf e = if e = d then (p.queueOf d).drop (p.formConvoy d).length else p.queueOf e := by
  cases d <;> cases e <;> rfl

/-- The vessels of a latch are those of the queues (R56). -/
theorem latched_hulls (p : Part) (d : Direction) (l : Lockage) (h : l.convoy = p.formConvoy d)
    (o : p.HullsDistinct) : Part.HullsDistinct { p.latched d with lockage := some l } := by
  refine hulls_of_le (p := p) ?_ o
  have e := convoy_drop p d
  have a := registered_perm { p.latched d with lockage := some l } d
  have q1 : Part.queueOf { p.latched d with lockage := some l } d = (p.queueOf d).drop (p.formConvoy d).length := by
    rw [queueOf_lockage, latched_queueOf]; simp
  have q2 : Part.queueOf { p.latched d with lockage := some l } d.opposite = p.queueOf d.opposite := by
    rw [queueOf_lockage, latched_queueOf]; simp [opposite_ne]
  have q3 : Part.convoy { p.latched d with lockage := some l } = p.formConvoy d := h
  rw [q1, q2, q3] at a
  refine (HullsLe.of_perm a.symm).trans ((HullsLe.trans ?_ (.of_sublist (List.sublist_append_left _ _))).trans
    (.of_perm (registered_perm p d)))
  refine .of_perm (List.perm_append_comm.trans ?_)
  rw [← List.append_assoc, e]

theorem undone_hulls (p : Part) (d : Direction) (n : Nat) (was : Pattern) (f : Predicted) (o : p.HullsDistinct) :
    Part.HullsDistinct ((p.latched d).undoLatch n d (p.formConvoy d) was f) := by
  refine hulls_of_le (p := p) ?_ o
  have e := convoy_drop p d
  have a := registered_perm ((p.latched d).undoLatch n d (p.formConvoy d) was f) d
  have q0 : ∀ x, ((p.latched d).undoLatch n d (p.formConvoy d) was f).queueOf x
      = ((p.latched d).setQueue d (mergeConvoy (p.formConvoy d) ((p.latched d).queueOf d))).queueOf x := by
    intro x; unfold Part.undoLatch Part.returnConvoy; cases x <;> rfl
  have q3 : ((p.latched d).undoLatch n d (p.formConvoy d) was f).convoy = p.convoy := by
    simp [Part.convoy]
  rw [q0, q0, q3, queueOf_setQueue, queueOf_setQueue] at a
  simp only [if_true, opposite_ne, if_false, latched_queueOf] at a
  refine (HullsLe.of_perm a.symm).trans (HullsLe.trans ?_ (.of_perm (registered_perm p d)))
  refine .of_perm (List.Perm.append_right _ (List.Perm.append_right _ ?_))
  exact (mergeConvoy_perm _ _).trans (.of_eq e)

theorem latch_onward (p : Part) (d : Direction) (cc : ClearanceClass) : Onward p (p.latch d cc) := by
  unfold Part.latch
  simp only
  split
  · exact startLockage_onward _ _ _ (latched_moved p d) fun h => latched_hulls p d _ rfl h
  · refine ⟨(latched_moved p d).trans (undoLatch_moved _ _ _ _ _ _), fun h => ?_, undone_hulls p d _ _ _⟩
    intro f e
    simp only [undoLatch_faces, latched_faces] at e
    obtain ⟨x, ph, y⟩ := h f e
    exact ⟨by simpa using x, ph, by simpa [Part.curStep] using y⟩

/-! ### Arrivals -/

theorem evaluateTurn_onward (p : Part) : Onward p p.evaluateTurn := by
  unfold Part.evaluateTurn
  split
  · exact .refl p
  · exact rejectPattern_onward p
  · exact (latch_onward p _ _).trans (recompute_onward _)
  · exact (latch_onward p _ _).trans (recompute_onward _)

theorem turnArrival_onward (p : Part) (a b : Bool) : Onward p (p.turnArrival a b) := by
  unfold Part.turnArrival
  simp only
  split
  · exact (recompute_onward p).trans (evaluateTurn_onward _)
  · exact recompute_onward p

theorem surveyTest_worked (p : Part) : Worked p p.surveyTest := by
  unfold Part.surveyTest
  split
  · exact ((clearReported_worked p).trans (enterMode_worked _ _)).trans (event_worked _ _)
  · exact .refl p

theorem settle_onward (p : Part) (a b : Bool) : Onward p (p.settle a b) :=
  (surveyTest_worked p).onward.trans (turnArrival_onward _ a b)

/-! ### The survey -/

theorem surveyGate_worked (p : Part) (g : Gate) : Worked p (p.surveyGate g) := by
  unfold Part.surveyGate
  split
  · exact .refl p
  · exact .refl p
  · exact closeGate_worked p g _

theorem surveySluice_worked (p : Part) (k : Sluice) : Worked p (p.surveySluice k) := by
  unfold Part.surveySluice
  split
  · exact closeSluice_worked p k
  · exact .refl p

theorem surveyWork_worked (p : Part) : Worked p p.surveyWork :=
  ((clearReported_worked p).trans (foldl_worked _ _ surveyGate_worked _)).trans
    (foldl_worked _ _ surveySluice_worked _)

theorem beginSurvey_worked (p : Part) : Worked p p.beginSurvey :=
  (surveyWork_worked p).trans (eStopStanding_worked _)

theorem surveyStopped_worked (p : Part) (g : Gate) (was : GateState) : Worked p (p.surveyStopped g was) := by
  unfold Part.surveyStopped
  split
  · exact closeGate_worked p g _
  · exact .refl p

theorem surveyRise_worked (p : Part) (k : Sluice) (was : Nat) : Worked p (p.surveyRise k was) := by
  unfold Part.surveyRise
  split
  · exact surveySluice_worked p k
  · exact .refl p

/-! ### Arrivals that turn nothing -/

/-- Where readiness cannot form, an arrival at the turn selector only recomputes pattern, hold and readiness (R63,
R64). -/
theorem turnArrival_idle (p : Part) (a b : Bool) (h : p.recompute.turn.readiness = false) :
    p.turnArrival a b = p.recompute := by
  unfold Part.turnArrival
  simp [h]

theorem recompute_readiness (p : Part) : p.recompute.turn.readiness = p.takePattern.formReadiness := rfl

/-- Outside REST readiness is not on (R63). -/
theorem recompute_notRest (p : Part) (h : p.mode ≠ .rest) : p.recompute.turn.readiness = false := by
  rw [recompute_readiness]
  simp [Part.formReadiness, Part.readyView, ReadyView.all, h]

/-- While NAV-INHIBIT stands readiness is not on (R63). -/
theorem recompute_inhibited (p : Part) (h : p.navInhibit = true) : p.recompute.turn.readiness = false := by
  rw [recompute_readiness]
  simp [Part.formReadiness, Part.readyView, ReadyView.all, h]

/-- While a tally is in the way readiness is not on (R63). -/
theorem recompute_tally (p : Part) (h : p.outlets.tally.inTheWay = true) : p.recompute.turn.readiness = false := by
  rw [recompute_readiness]
  simp [Part.formReadiness, Part.readyView, ReadyView.all, h]

theorem surveyTest_other (p : Part) (h : p.mode ≠ .survey) : p.surveyTest = p := by
  simp [Part.surveyTest, h]

/-- In STARTUP, WORKING and HALTED `settle` only recomputes the turn selector (R63, R64, R171). -/
theorem settle_quiet (p : Part) (a b : Bool) (h : p.mode ≠ .survey) (k : p.mode ≠ .rest) :
    p.settle a b = p.recompute := by
  rw [Part.settle, surveyTest_other p h, turnArrival_idle _ _ _ (recompute_notRest p k)]

/-- While NAV-INHIBIT stands, outside SURVEY, `settle` only recomputes the turn selector (R63, R64). -/
theorem settle_inhibited (p : Part) (a b : Bool) (h : p.mode ≠ .survey) (k : p.navInhibit = true) :
    p.settle a b = p.recompute := by
  rw [Part.settle, surveyTest_other p h, turnArrival_idle _ _ _ (recompute_inhibited p k)]

end Sys2Proof.Machine
end

