-- ==== Sys2Proof/Laws/Halts.lean ====
section
/-! SUPPORT. The halt record and the mode HALTED go together (R113): what each operation does to the two. -/

namespace Sys2Proof.Machine

variable {p q r : Part}

/-- The mode and the halt record stay as they are. -/
def SameHalt (p q : Part) : Prop := q.mode = p.mode ∧ q.faults.halt = p.faults.halt

/-- The flight runs: no halt record, and a mode other than HALTED. -/
def Part.Live (p : Part) : Prop := p.faults.halt = none ∧ p.mode ≠ .halted

theorem SameHalt.refl (p : Part) : SameHalt p p := ⟨rfl, rfl⟩

theorem SameHalt.trans (a : SameHalt p q) (b : SameHalt q r) : SameHalt p r := ⟨b.1.trans a.1, b.2.trans a.2⟩

theorem SameHalt.matches (a : SameHalt p q) (h : p.HaltMatches) : q.HaltMatches := by
  unfold Part.HaltMatches; rw [a.1, a.2]; exact h

theorem SameHalt.live (a : SameHalt p q) (h : p.Live) : q.Live := by
  unfold Part.Live; rw [a.1, a.2]; exact h

theorem Part.Live.matches (h : p.Live) : p.HaltMatches := by
  unfold Part.HaltMatches; rw [h.1]; exact ⟨fun a => (nomatch a), fun a => absurd a h.2⟩

/-- A sound part in another mode than HALTED runs. -/
theorem live_of (h : p.HaltMatches) (m : p.mode ≠ .halted) : p.Live := by
  refine ⟨?_, m⟩
  cases e : p.faults.halt with
  | none => rfl
  | some x => exact absurd (h.1 (by rw [e]; rfl)) m

theorem live_working (h : p.HaltMatches) (m : p.mode = .working) : p.Live := live_of h (by rw [m]; exact fun h => nomatch h)

/-! ### Operations that leave both alone -/

theorem foldl_same {α : Type} (f : Part → α → Part) (h : ∀ q x, SameHalt q (f q x)) (xs : List α) (p : Part) :
    SameHalt p (xs.foldl f p) := by
  induction xs generalizing p with
  | nil => exact .refl p
  | cons x xs ih => exact (h p x).trans (ih _)

theorem refreshFaces_same (p : Part) : SameHalt p p.refreshFaces := ⟨by simp, by simp⟩

theorem requestAspect_same (p : Part) (f : Face) (a : Aspect) : SameHalt p (p.requestAspect f a) :=
  (SameHalt.refl p).trans (refreshFaces_same _)

theorem requestAllStop_same (p : Part) : SameHalt p p.requestAllStop := (SameHalt.refl p).trans (refreshFaces_same _)

theorem requestEntryReady_same (p : Part) (d : Direction) : SameHalt p (p.requestEntryReady d) :=
  (SameHalt.refl p).trans (refreshFaces_same _)

theorem event_same (p : Part) (e : Event) : SameHalt p (p.event e) := ⟨rfl, rfl⟩

theorem putGate_same (p : Part) (g : Gate) (x : GateRec) : SameHalt p (p.putGate g x) := ⟨by simp, by simp⟩

theorem putSluice_same (p : Part) (k : Sluice) (x : SluiceRec) : SameHalt p (p.putSluice k x) := ⟨rfl, rfl⟩

theorem closeGate_same (p : Part) (g : Gate) (c : Commander) : SameHalt p (p.closeGate g c) := by
  unfold Part.closeGate
  simp only
  split <;> first | exact .refl p | exact putGate_same _ _ _

theorem openGate_same (p : Part) (g : Gate) : SameHalt p (p.openGate g) := by
  unfold Part.openGate
  simp only
  split
  · exact .refl p
  · exact .refl p
  · split
    · exact putGate_same _ _ _
    · exact .refl p

theorem stopGate_same (p : Part) (g : Gate) : SameHalt p (p.stopGate g) := by
  unfold Part.stopGate
  simp only
  split <;> first | exact .refl p | exact putGate_same _ _ _

theorem haltGate_same (p : Part) (g : Gate) : SameHalt p (p.haltGate g) := by
  unfold Part.haltGate
  simp only
  split <;> first | exact .refl p | exact putGate_same _ _ _

theorem stepSluice_same (p : Part) (k : Sluice) (d : StepDir) : SameHalt p (p.stepSluice k d) := putSluice_same _ _ _

theorem closeSluice_same (p : Part) (k : Sluice) : SameHalt p (p.closeSluice k) := by
  unfold Part.closeSluice
  simp only
  split
  · exact putSluice_same _ _ _
  · split
    · exact putSluice_same _ _ _
    · exact (putSluice_same _ _ _).trans (stepSluice_same _ _ _)

theorem closeHeld_same (p : Part) (k : Sluice) : SameHalt p (p.closeHeld k) := by
  unfold Part.closeHeld; split
  · exact closeSluice_same p k
  · exact .refl p

theorem rampNext_same (p : Part) (k : Sluice) : SameHalt p (p.rampNext k) := by
  unfold Part.rampNext
  simp only
  split
  · exact putSluice_same _ _ _
  · split
    · exact (putSluice_same _ _ _).trans (stepSluice_same _ _ _)
    · split
      · exact putSluice_same _ _ _
      · split
        · exact putSluice_same _ _ _
        · split
          · exact (putSluice_same _ _ _).trans (stepSluice_same _ _ _)
          · exact putSluice_same _ _ _

theorem retestRamp_same (p : Part) (k : Sluice) : SameHalt p (p.retestRamp k) := by
  unfold Part.retestRamp; split
  · exact rampNext_same p k
  · exact .refl p

theorem beginClosing_same (p : Part) (k : Sluice) : SameHalt p (p.beginClosing k) :=
  (putSluice_same _ _ _).trans (closeSluice_same _ k)

theorem stopTransfer_same (p : Part) (k : Sluice) : SameHalt p (p.stopTransfer k) := by
  unfold Part.stopTransfer
  simp only
  split
  · split
    · exact (putSluice_same _ _ _).trans (closeSluice_same _ k)
    · exact putSluice_same _ _ _
  · exact putSluice_same _ _ _

theorem haltWorks_same (p : Part) : SameHalt p p.haltWorks :=
  (foldl_same _ haltGate_same _ p).trans (foldl_same _ stopTransfer_same _ _)

theorem enterMode_halt (p : Part) (m : Mode) :
    (p.enterMode m).mode = m ∧ (p.enterMode m).faults.halt = p.faults.halt := by
  have a := (foldl_same _ closeHeld_same Gate.all { p with mode := m }).trans (refreshFaces_same _)
  exact a

theorem recorded_same (h : Recorded p q) : SameHalt p q := by
  obtain ⟨u, s, rfl⟩ := h.form; exact .refl p

theorem endTransfer_same (p : Part) (k : Sluice) : SameHalt p (p.endTransfer k) := by
  unfold Part.endTransfer
  simp only
  split
  · split <;> exact ⟨rfl, rfl⟩
  · exact ⟨rfl, rfl⟩

theorem dispose_same (p : Part) (l : Lockage) (o : LockageOutcome) : SameHalt p (p.dispose l o) := by
  unfold Part.dispose
  split
  · exact ⟨by simp, by simp⟩
  · exact recorded_same (appendRecord_recorded p _)

theorem makeCurrent_same (p : Part) (i : Nat) : SameHalt p (p.makeCurrent i) := by
  unfold Part.makeCurrent
  split
  · exact .refl p
  · split
    · exact .refl p
    · exact ⟨by simp [Part.clearReported], by simp [Part.clearReported]⟩

theorem stopStepTransfer_same (p : Part) : SameHalt p p.stopStepTransfer := by
  have own (k : Sluice) : SameHalt p (p.stopOwnTransfer k) := by
    unfold Part.stopOwnTransfer; split
    · exact stopTransfer_same p k
    · exact putSluice_same _ _ _
  unfold Part.stopStepTransfer
  split
  · split
    · exact own _
    · split
      · exact own _
      · exact .refl p
    · exact .refl p
  · exact .refl p

theorem closeEntry_same (p : Part) (d : Direction) (c : Commander) : SameHalt p (p.closeEntry d c) := by
  unfold Part.closeEntry; split
  · exact .refl p
  · exact closeGate_same _ _ _

/-! ### Operations that may halt -/

/-- A sound part stays sound. -/
def KeepsHalt (p q : Part) : Prop := p.HaltMatches → q.HaltMatches

theorem SameHalt.keeps (a : SameHalt p q) : KeepsHalt p q := a.matches

theorem KeepsHalt.trans (a : KeepsHalt p q) (b : KeepsHalt q r) : KeepsHalt p r := b ∘ a

theorem KeepsHalt.refl (p : Part) : KeepsHalt p p := id

theorem foldl_keeps {α : Type} (f : Part → α → Part) (h : ∀ q x, KeepsHalt q (f q x)) (xs : List α) (p : Part) :
    KeepsHalt p (xs.foldl f p) := by
  induction xs generalizing p with
  | nil => exact .refl p
  | cons x xs ih => exact (h p x).trans (ih _)

/-- A halt makes both: the record and the mode (R119). -/
theorem haltFlight_made (p : Part) (k : FaultKind) (x : Subject) :
    (p.haltFlight k x).mode = .halted ∧ (p.haltFlight k x).faults.halt = some
      { kind := k, subject := x, mode := p.mode, lockage := p.lockageNumber, index := p.stepIndex, time := p.clock } := by
  have made (h : HaltRec) : (({ p with faults := { p.faults with halt := some h } } : Part).enterMode
      .halted).haltWorks.requestAllStop.mode = .halted ∧ (({ p with faults :=
        { p.faults with halt := some h } } : Part).enterMode .halted).haltWorks.requestAllStop.faults.halt = some h := by
    have a := enterMode_halt { p with faults := { p.faults with halt := some h } } .halted
    have b := (haltWorks_same (({ p with faults := { p.faults with halt := some h } } : Part).enterMode .halted)).trans
      (requestAllStop_same _)
    exact ⟨b.1.trans a.1, b.2.trans a.2⟩
  unfold Part.haltFlight
  simp only [event_mode, event_faults, noteFault_mode, noteFault_faults, sendFault_mode, sendFault_faults,
    stopLockageTimers_mode, stopLockageTimers_faults]
  exact made _

theorem haltFlight_matches (p : Part) (k : FaultKind) (x : Subject) : (p.haltFlight k x).HaltMatches := by
  have a := haltFlight_made p k x
  unfold Part.HaltMatches; rw [a.1, a.2]; simp

theorem continueFault_same (p : Part) (k : FaultKind) (x : Subject) : SameHalt p (p.continueFault k x) := by
  unfold Part.continueFault; split <;> exact ⟨rfl, rfl⟩

theorem stopTravelling_same (p : Part) (k : FaultKind) : SameHalt p (p.stopTravelling k) := by
  unfold Part.stopTravelling; split
  · exact foldl_same _ stopGate_same _ p
  · exact .refl p

theorem report_keeps (p : Part) (k : FaultKind) (x : Subject) : KeepsHalt p (p.report k x) := by
  unfold Part.report
  split
  · split
    · exact fun _ => haltFlight_matches p k x
    · exact (continueFault_same p k x).keeps
  · split
    · exact fun _ => haltFlight_matches p k x
    · exact (continueFault_same p k x).keeps
  · exact SameHalt.keeps ⟨rfl, rfl⟩
  · exact SameHalt.keeps ((stopTravelling_same p k).trans ⟨rfl, rfl⟩)

theorem eStopStanding_keeps (p : Part) : KeepsHalt p p.eStopStanding := by
  unfold Part.eStopStanding; split
  · exact report_keeps _ _ _
  · exact .refl p

theorem lampDecision_keeps (p : Part) (f : Face) : KeepsHalt p (p.lampDecision f) := by
  unfold Part.lampDecision
  refine .trans ?_ (refreshFaces_same _).keeps
  refine .trans (q := ((p.setAwaited f true).refreshFaces).report .lampFailed (.face f)) ?_ (SameHalt.keeps ⟨rfl, rfl⟩)
  refine .trans ?_ (report_keeps _ _ _)
  exact SameHalt.keeps ((SameHalt.refl p).trans (refreshFaces_same _))

theorem requestProceed_keeps (p : Part) (f : Face) : KeepsHalt p (p.requestProceed f) := by
  unfold Part.requestProceed; split
  · exact (SameHalt.keeps (q := p.setRequested f .proceed) ⟨rfl, rfl⟩).trans (lampDecision_keeps _ f)
  · exact (requestAspect_same p f _).keeps

theorem retestGate_keeps (p : Part) (g : Gate) : KeepsHalt p (p.retestGate g) := by
  unfold Part.retestGate
  simp only
  split
  · exact .refl p
  · split
    · exact (putGate_same _ _ _).keeps.trans (report_keeps _ _ _)
    · split
      · exact .refl p
      · exact (putGate_same _ _ _).keeps
    · exact report_keeps p _ _
    · split
      · exact (putGate_same _ _ _).keeps
      · exact .refl p
    · exact .refl p

theorem retestBeside_keeps (p : Part) (g : Gate) : KeepsHalt p (p.retestBeside g) :=
  foldl_keeps _ (fun q h => (retestGate_keeps q h).trans (retestRamp_same _ h).keeps) _ p

theorem recordTransfer_keeps (p : Part) (k : Sluice) (n : Nat) : KeepsHalt p (p.recordTransfer k n) := by
  unfold Part.recordTransfer
  simp only
  split
  · exact ((putSluice_same _ _ _).trans (beginClosing_same _ k)).keeps
  · exact ((putSluice_same _ _ _).trans (rampNext_same _ k)).keeps.trans (report_keeps _ _ _)
  · exact ((putSluice_same _ _ _).trans (rampNext_same _ k)).keeps

theorem startTransfer_keeps (p : Part) (k : Sluice) (n : Nat) : KeepsHalt p (p.startTransfer k n) := by
  unfold Part.startTransfer
  simp only
  split
  · split <;> exact (putSluice_same _ _ _).keeps
  · exact recordTransfer_keeps p k n

theorem moveUnderWay_keeps (p : Part) (g : Gate) (d : Direction) : KeepsHalt p (p.moveUnderWay g d) := by
  unfold Part.moveUnderWay
  refine .trans ?_ (requestProceed_keeps _ _)
  exact SameHalt.keeps ⟨rfl, rfl⟩

/-! ### A transfer that a report stopped has not ended -/

/-- The transfer of sluice k, if it holds one, ramps. -/
def Part.OnlyRamps (p : Part) (k : Sluice) : Prop :=
  ∀ t, (p.sluices.get k).transfer = some t → t.phase = .ramping

theorem onlyRamps_done {k : Sluice} (h : p.OnlyRamps k) : p.transferDone k = false := by
  unfold Part.transferDone
  split
  · rename_i t e; simp [h t e]
  · rfl

/-- Another record with the same transfer, or any record of another sluice. -/
theorem putSluice_ramps {k : Sluice} (j : Sluice) (x : SluiceRec)
    (h : j = k → ∀ t, x.transfer = some t → t.phase = .ramping) (o : p.OnlyRamps k) : (p.putSluice j x).OnlyRamps k := by
  intro t e
  rw [putSluice_sluices, Four.get_set] at e
  split at e
  · rename_i c; exact h c.symm t e
  · exact o t e

theorem putSluice_same_ramps {k : Sluice} (j : Sluice) (x : SluiceRec)
    (h : x.transfer = (p.sluices.get j).transfer) (o : p.OnlyRamps k) : (p.putSluice j x).OnlyRamps k :=
  putSluice_ramps j x (fun c t e => o t (by rw [← c, ← h]; exact e)) o

theorem closeSluice_ramps {k : Sluice} (j : Sluice) (o : p.OnlyRamps k) : (p.closeSluice j).OnlyRamps k := by
  unfold Part.closeSluice
  simp only
  split
  · exact putSluice_same_ramps j _ rfl o
  · split
    · exact putSluice_same_ramps j _ rfl o
    · exact putSluice_same_ramps j _ rfl (putSluice_same_ramps j _ rfl o)

theorem stopTransfer_ramps {k : Sluice} (j : Sluice) (o : p.OnlyRamps k) : (p.stopTransfer j).OnlyRamps k := by
  unfold Part.stopTransfer
  simp only
  split
  · rename_i t e
    split
    · refine closeSluice_ramps j (putSluice_ramps j _ (fun _ t h => ?_) o)
      cases h
    · rename_i c
      refine putSluice_ramps j _ (fun a u h => ?_) o
      subst a
      have := o t e
      rw [c] at this; cases this
  · exact putSluice_same_ramps j _ rfl o

theorem sluices_ramps {k : Sluice} (h : q.sluices = p.sluices) (o : p.OnlyRamps k) : q.OnlyRamps k := by
  unfold Part.OnlyRamps; rw [h]; exact o

theorem foldl_ramps {α : Type} {k : Sluice} (f : Part → α → Part)
    (h : ∀ q x, q.OnlyRamps k → (f q x).OnlyRamps k) (xs : List α) (p : Part) (o : p.OnlyRamps k) :
    (xs.foldl f p).OnlyRamps k := by
  induction xs generalizing p with
  | nil => exact o
  | cons x xs ih => exact ih _ (h p x o)

theorem closeHeld_ramps {k : Sluice} (j : Sluice) (o : p.OnlyRamps k) : (p.closeHeld j).OnlyRamps k := by
  unfold Part.closeHeld; split
  · exact closeSluice_ramps j o
  · exact o

theorem haltGate_sluices (p : Part) (g : Gate) : (p.haltGate g).sluices = p.sluices := by
  unfold Part.haltGate
  simp only
  split <;> simp

theorem stopGate_sluices (p : Part) (g : Gate) : (p.stopGate g).sluices = p.sluices := by
  unfold Part.stopGate
  simp only
  split <;> simp

theorem haltFlight_ramps {j : Sluice} (k : FaultKind) (x : Subject) (o : p.OnlyRamps j) :
    (p.haltFlight k x).OnlyRamps j := by
  have e (h : HaltRec) : (({ p with faults := { p.faults with halt := some h } } : Part).enterMode
      .halted).haltWorks.requestAllStop.OnlyRamps j := by
    refine sluices_ramps (refreshFaces_sluices _) ?_
    refine foldl_ramps _ (fun q g h => stopTransfer_ramps g h) _ _ ?_
    refine foldl_ramps _ (fun q g h => sluices_ramps (haltGate_sluices q g) h) _ _ ?_
    refine sluices_ramps (refreshFaces_sluices _) ?_
    exact foldl_ramps _ (fun q g h => closeHeld_ramps g h) _ _ o
  have a (h : HaltRec) : ((({ p with faults := { p.faults with halt := some h } } : Part).enterMode
      .halted).haltWorks.requestAllStop.stopLockageTimers).OnlyRamps j := sluices_ramps (stopLockageTimers_sluices _) (e h)
  unfold Part.haltFlight Part.OnlyRamps
  simp only [event_sluices, noteFault_sluices, sendFault_sluices]
  exact a _

theorem report_ramps {j : Sluice} (k : FaultKind) (x : Subject) (o : p.OnlyRamps j) : (p.report k x).OnlyRamps j := by
  have c : (p.continueFault k x).OnlyRamps j := by
    unfold Part.continueFault; split
    · exact o
    · exact sluices_ramps rfl o
  unfold Part.report
  split
  · split
    · exact haltFlight_ramps k x o
    · exact c
  · split
    · exact haltFlight_ramps k x o
    · exact c
  · exact sluices_ramps rfl o
  · refine sluices_ramps (p := p.stopTravelling k) rfl ?_
    unfold Part.stopTravelling; split
    · exact foldl_ramps _ (fun q g h => sluices_ramps (stopGate_sluices q g) h) _ _ o
    · exact o

theorem rampNext_ramps {j : Sluice} (k : Sluice) (o : p.OnlyRamps j) : (p.rampNext k).OnlyRamps j := by
  unfold Part.rampNext
  simp only
  split
  · exact putSluice_same_ramps k _ rfl o
  · split
    · exact putSluice_same_ramps k _ rfl (putSluice_same_ramps k _ rfl o)
    · split
      · exact putSluice_same_ramps k _ rfl o
      · split
        · exact putSluice_same_ramps k _ rfl o
        · split
          · exact putSluice_same_ramps k _ rfl (putSluice_same_ramps k _ rfl o)
          · exact putSluice_same_ramps k _ rfl o

/-- A transfer that has ended as it started made no report. -/
theorem startTransfer_done (p : Part) (k : Sluice) (n : Nat) (h : (p.startTransfer k n).transferDone k = true) :
    SameHalt p (p.startTransfer k n) := by
  revert h
  unfold Part.startTransfer
  simp only
  split
  · split <;> exact fun _ => putSluice_same _ _ _
  · unfold Part.recordTransfer
    simp only
    split
    · exact fun _ => (putSluice_same _ _ _).trans (beginClosing_same _ k)
    · intro h
      refine absurd h ?_
      rw [onlyRamps_done (report_ramps _ _ (rampNext_ramps k ?_))]
      · exact fun h => nomatch h
      · intro t e
        rw [putSluice_sluices, Four.get_set_self] at e
        cases e; rfl
    · exact fun _ => (putSluice_same _ _ _).trans (rampNext_same _ k)

/-! ### The lockage -/

theorem endLockage_live (p : Part) (o : LockageOutcome) (h : p.Live) : (p.endLockage o).Live := by
  unfold Part.endLockage
  split
  · exact h
  · rename_i l e
    simp only
    have a : SameHalt p (p.stopLockageTimers.onLockage fun x => { x with outcome := some o }).requestAllStop :=
      (SameHalt.refl p).trans (requestAllStop_same _)
    generalize (p.stopLockageTimers.onLockage fun x => { x with outcome := some o }).requestAllStop = p1 at a ⊢
    have b := (a.trans (dispose_same p1 l o)).trans (recorded_same (countEnding_recorded (p1.dispose l o) o
      (if o.returns l.entryPassed = true then none else some (p1.tollRecord l o))))
    generalize (p1.dispose l o).countEnding o
      (if o.returns l.entryPassed = true then none else some (p1.tollRecord l o)) = p2 at b ⊢
    have m := enterMode_halt ({ p2 with lockage := none } : Part).clearReported .rest
    unfold Part.Live
    simp only [event_mode, event_faults]
    rw [m.1, m.2]
    exact ⟨b.2.trans h.1, fun h => nomatch h⟩

theorem withdraw_live (p : Part) (h : p.Live) : p.withdraw.Live := by
  unfold Part.withdraw
  split
  · exact h
  · refine endLockage_live _ _ ?_
    refine SameHalt.live ?_ h
    exact (SameHalt.trans (q := p.stopLockageTimers) ⟨rfl, rfl⟩ (stopStepTransfer_same _)).trans (closeEntry_same _ _ _)

/-- An operation of a step: sound after it, and running still where the step ended. -/
def Ends (p : Part) (x : Part × Bool) : Prop := p.Live → x.1.HaltMatches ∧ (x.2 = true → x.1.Live)

theorem ends_same {b : Bool} (a : SameHalt p q) : Ends p (q, b) := fun h => ⟨(a.live h).matches, fun _ => a.live h⟩

theorem ends_keeps (a : KeepsHalt p q) : Ends p (q, false) := fun h => ⟨a h.matches, fun h => nomatch h⟩

theorem evaluateOpen_ends (p : Part) (l : Lockage) (g : Gate) (ph : Phase) : Ends p (p.evaluateOpen l g ph) := by
  unfold Part.evaluateOpen
  split
  · exact ends_same ⟨rfl, rfl⟩
  · split
    · refine ends_same ?_
      unfold Part.waitTide
      split
      · exact .refl p
      · split <;> exact ⟨rfl, rfl⟩
    · unfold Part.levelTest
      split
      · split
        · exact ends_same ⟨rfl, rfl⟩
        · exact ends_same ((SameHalt.trans (q := p.reachTravel ph) ⟨rfl, rfl⟩ (openGate_same _ g)))
        · exact ends_same ⟨rfl, rfl⟩
      · exact ends_keeps ((SameHalt.keeps (q := p.setStage .level) ⟨rfl, rfl⟩).trans (report_keeps _ _ _))
      · exact ends_keeps ((SameHalt.keeps (q := p.setStage .levelling) ⟨rfl, rfl⟩).trans (startTransfer_keeps _ _ _))

theorem beginStep_ends (p : Part) : Ends p p.beginStep := by
  unfold Part.beginStep
  split
  · rename_i l s hl hs
    split
    · exact ends_same (closeGate_same _ _ _)
    · rename_i k _
      unfold Part.beginTransfer
      simp only
      split
      · rename_i e
        refine ends_same ((startTransfer_done p k _ ?_).trans (endTransfer_same _ k))
        exact (Bool.and_eq_true _ _ ▸ e).2
      · exact ends_keeps (startTransfer_keeps p k _)
    · exact evaluateOpen_ends p l _ _
    · unfold Part.beginMove
      split
      · split
        · exact fun h => ⟨(withdraw_live p h).matches, fun h => nomatch h⟩
        · exact ends_same (.refl p)
      · exact ends_keeps (moveUnderWay_keeps p _ _)
    · unfold Part.beginCommit
      split <;> exact ends_same ⟨rfl, rfl⟩
  · exact ends_same (.refl p)

theorem nextStep_ends (p : Part) : Ends p p.nextStep := by
  unfold Part.nextStep
  split
  · rename_i l s _ _
    split
    · intro h
      have a : SameHalt p (p.stopLockageTimers.makeCurrent (l.current + 1)) :=
        SameHalt.trans (q := p.stopLockageTimers) ⟨rfl, rfl⟩ (makeCurrent_same _ _)
      exact beginStep_ends _ (a.live h)
    · exact fun h => ⟨(endLockage_live p _ h).matches, fun h => nomatch h⟩
  · exact ends_same (.refl p)

theorem advanceBy_matches (n : Nat) (p : Part) (h : p.Live) : (Part.advanceBy n p).HaltMatches := by
  induction n generalizing p with
  | zero => exact h.matches
  | succ n ih =>
    unfold Part.advanceBy
    split
    · rename_i e; exact ih _ ((nextStep_ends p h).2 e)
    · exact (nextStep_ends p h).1

theorem advance_matches (p : Part) (h : p.Live) : p.advance.HaltMatches := advanceBy_matches _ p h

theorem carryOn_matches {x : Part × Bool} (e : Ends p x) (h : p.Live) : (Part.carryOn x).HaltMatches := by
  unfold Part.carryOn
  split
  · rename_i b; exact advance_matches _ ((e h).2 b)
  · exact (e h).1

theorem work_matches (p : Part) (h : p.Live) : p.work.HaltMatches := carryOn_matches (beginStep_ends p) h

theorem openInHand_working {x : Lockage × Gate × Phase} (h : p.openInHand = some x) : p.mode = .working := by
  unfold Part.openInHand at h
  split at h
  · split at h
    · assumption
    · cases h
  · cases h

theorem reevaluateOpen_keeps (p : Part) : KeepsHalt p p.reevaluateOpen := by
  unfold Part.reevaluateOpen
  split
  · rename_i l g ph e
    split
    · exact fun h => carryOn_matches (evaluateOpen_ends p l g ph) (live_working h (openInHand_working e))
    · exact .refl p
  · exact .refl p

theorem arrivedClosed_keeps (p : Part) (g : Gate) : KeepsHalt p (p.arrivedClosed g) := by
  unfold Part.arrivedClosed
  split
  · split
    · rename_i e; exact fun h => advance_matches p (live_working h e.1)
    · exact .refl p
  · exact .refl p

theorem arrivedOpen_keeps (p : Part) (g : Gate) : KeepsHalt p (p.arrivedOpen g) := by
  unfold Part.arrivedOpen
  split
  · rename_i e
    split
    · exact fun h => advance_matches p (live_working h (openInHand_working e))
    · exact .refl p
  · exact .refl p

theorem transferReported_keeps (p : Part) (k : Sluice) (n : Nat) : KeepsHalt p (p.transferReported k n) := by
  unfold Part.transferReported
  split
  · split
    · rename_i e
      split
      · split
        · exact fun h => advance_matches p (live_working h e.1)
        · exact .refl p
      · split
        · exact fun h => carryOn_matches (evaluateOpen_ends p _ _ _) (live_working h e.1)
        · exact .refl p
      · exact .refl p
    · exact .refl p
  · exact .refl p

theorem finishTransfer_keeps (p : Part) (k : Sluice) : KeepsHalt p (p.finishTransfer k) := by
  unfold Part.finishTransfer
  simp only
  split
  · split
    · rename_i m _
      unfold Part.startWaiting
      simp only
      refine (endTransfer_same p k).keeps.trans ?_
      split
      · exact ((recordTransfer_keeps _ k m).trans (endTransfer_same _ k).keeps).trans (transferReported_keeps _ k m)
      · exact recordTransfer_keeps _ k m
    · exact (endTransfer_same p k).keeps.trans (transferReported_keeps _ k _)
    · exact .refl p
  · exact .refl p

theorem announceTransfer_keeps (p : Part) (k : Sluice) : KeepsHalt p (p.announceTransfer k) := by
  unfold Part.announceTransfer
  split
  · split
    · exact (beginClosing_same p k).keeps.trans (finishTransfer_keeps _ k)
    · exact (rampNext_same p k).keeps.trans (report_keeps _ _ _)
    · exact (rampNext_same p k).keeps
  · exact .refl p

theorem announce_keeps (p : Part) (r : Reach) : KeepsHalt p (p.announce r) := by
  have o : ∀ q : Part, KeepsHalt q (q.announceOpen r) := by
    intro q
    unfold Part.announceOpen
    split
    · split
      · exact reevaluateOpen_keeps q
      · exact .refl q
    · exact .refl q
  unfold Part.announce
  have a := (foldl_keeps _ retestGate_keeps r.gates p).trans
    ((foldl_keeps _ announceTransfer_keeps r.gates _).trans (o _))
  simp only
  split
  · exact a.trans (SameHalt.keeps ⟨rfl, rfl⟩)
  · exact a

/-! ### The turn selector and the survey -/

theorem setUpLockage_live (p : Part) (l : Lockage) (b : Pattern) (h : p.Live) : (p.setUpLockage l b).Live := by
  have m := enterMode_halt { p with lockage := some l, turn := { p.turn with planWait := false } } .working
  have a : Part.Live (Part.enterMode { p with lockage := some l, turn := { p.turn with planWait := false } }
      .working) := ⟨m.2.trans h.1, by rw [m.1]; exact fun h => nomatch h⟩
  unfold Part.setUpLockage
  exact (makeCurrent_same _ 1).live ((event_same _ _).live ((requestEntryReady_same _ _).live a))

theorem latch_matches (p : Part) (d : Direction) (cc : ClearanceClass) (h : p.Live) : (p.latch d cc).HaltMatches := by
  have a : SameHalt p (p.latched d) := ⟨by simp, by simp⟩
  unfold Part.latch
  simp only
  split
  · unfold Part.startLockage
    simp only
    have k (l : Lockage) (b : Pattern) : ((p.latched d).setUpLockage l b).eStopStanding.HaltMatches :=
      eStopStanding_keeps _ (setUpLockage_live _ l b (a.live h)).matches
    split
    · rename_i e; exact work_matches _ (live_working (k _ _) e)
    · exact k _ _
  · exact (a.trans ⟨by simp, by simp⟩ : SameHalt p _).matches h.matches

theorem readiness_rest (p : Part) (h : p.recompute.turn.readiness = true) : p.mode = .rest := by
  apply Classical.byContradiction
  intro n
  rw [recompute_notRest p n] at h
  cases h

theorem turnArrival_keeps (p : Part) (a b : Bool) : KeepsHalt p (p.turnArrival a b) := by
  intro h
  unfold Part.turnArrival
  simp only
  have q : p.recompute.HaltMatches := h
  split
  · rename_i e
    have ready : p.recompute.turn.readiness = true := by
      simp only [Bool.and_eq_true] at e; exact e.1
    have l : p.recompute.Live := live_of q (by
      have := readiness_rest p ready
      show p.mode ≠ .halted
      rw [this]; exact fun h => nomatch h)
    unfold Part.evaluateTurn
    split
    · exact q
    · exact q
    · exact latch_matches _ _ _ l
    · exact latch_matches _ _ _ l
  · exact q

theorem surveyTest_keeps (p : Part) : KeepsHalt p p.surveyTest := by
  intro h
  unfold Part.surveyTest
  split
  · rename_i e
    have m := enterMode_halt p.clearReported .rest
    have l := live_of h (by rw [e.1]; exact fun h => nomatch h)
    have w : (p.clearReported.enterMode .rest).Live := ⟨m.2.trans l.1, by rw [m.1]; exact fun h => nomatch h⟩
    exact ((event_same _ _).live w).matches
  · exact h

theorem settle_keeps (p : Part) (a b : Bool) : KeepsHalt p (p.settle a b) :=
  (surveyTest_keeps p).trans (turnArrival_keeps _ a b)

theorem surveyWork_same (p : Part) : SameHalt p p.surveyWork := by
  unfold Part.surveyWork
  refine (SameHalt.trans (q := p.clearReported) ⟨rfl, rfl⟩ (foldl_same _ (fun q g => ?_) _ _)).trans
    (foldl_same _ (fun q k => ?_) _ _)
  · unfold Part.surveyGate
    split
    · exact .refl q
    · exact .refl q
    · exact closeGate_same _ _ _
  · unfold Part.surveySluice
    split
    · exact closeSluice_same _ _
    · exact .refl q

end Sys2Proof.Machine
end

