-- ==== Sys2Proof/Laws/Link.lean ====
section
/-! SUPPORT. What a frame's reply and a gate's resumed travel can do to the part: one lemma for each operation of
the link interface and of R97's arrivals that later proofs cite in place of its text. -/

namespace Sys2Proof.Machine

/-! ### The reply before the events of its own moment -/

/-- With nothing held back the messages stand as they are. -/
@[simp] theorem replyFirst_nothing (n : Nat) (ms : List Msg) : replyFirst n 0 ms = ms := by
  simp only [replyFirst, List.drop_zero, List.take_zero, List.append_nil, Nat.zero_add, List.append_assoc,
    List.take_append_drop]

/-- What was sent before the event stands. -/
theorem replyFirst_prefix (n held : Nat) (ms : List Msg) : ms.take n <+: replyFirst n held ms := by
  simp [replyFirst]

/-- The reply is the first message after what was sent before the event. -/
theorem replyFirst_reply (old events rest : List Msg) (reply : Msg) :
    replyFirst old.length events.length (old ++ events ++ reply :: rest) = old ++ reply :: events ++ rest := by
  simp [replyFirst]

/-- Holding back changes what port A has been sent, and nothing else. -/
theorem holdBack_eq (q p before : Part) :
    q.holdBack p before = { q with sent := q.sent.set .a (q.holdBack p before).sent.a } := rfl

/-- Where the restored link brought no event nothing is held back. -/
theorem holdBack_nothing (q p before : Part) (h : p.sent.a = before.sent.a) : q.holdBack p before = q := by
  simp [Part.holdBack, h, Three.set]

/-- A link that is up needs no restoring. -/
theorem restoreLink_up (p : Part) (h : p.link.lost = false) : p.restoreLink = p := by
  simp [Part.restoreLink, h]

/-- With no event since then a reset overtakes nothing. -/
theorem overtaken_nothing (p before : Part) (h : p.sent.a = before.sent.a) : p.overtaken before = p := by
  simp [Part.overtaken, ← h, Three.set]

/-- A reset that overtakes the events of its moment leaves port A as it was sent before. -/
@[simp] theorem overtaken_sent (p before : Part) : (p.overtaken before).sent.a = before.sent.a := rfl

/-- A frame that restores no link is judged once the watchdog is fed. -/
theorem frameOnA_up (p : Part) (kind : Byte) (tag : Tag) (body : List Byte) (h : p.link.lost = false) :
    p.frameOnA kind tag body = p.feedWatchdog.judge .a kind tag body := by
  have e : p.feedWatchdog.sent.a = p.sent.a := by simp [Part.feedWatchdog, restoreLink_up p h]
  simp [Part.frameOnA, overtaken_nothing _ _ e, holdBack_nothing _ _ _ e]

/-- A RESTART finds nothing sent in its own moment, and is judged as it stands (R184). -/
theorem frameOnA_restart (p : Part) (kind : Byte) (tag : Tag) (body : List Byte)
    (h : takesRestart kind tag body = true) :
    p.frameOnA kind tag body = (p.feedWatchdog.overtaken p).judge .a kind tag body := by
  simp only [Part.frameOnA, h, if_true]
  exact holdBack_nothing _ _ _ (overtaken_sent _ _)

/-- A frame of a code of the part's own messages names no request (R177). -/
theorem requestKind_sent (k : MessageKind) (body : List Byte) : requestKind (Config.kindCode k) body = none := by
  cases k <;> simp [requestKind, sentCode]

/-! ### A gate with open pending (R28, R97) -/

/-- The two tests of a gate, and the waiting OPEN step that a change of its state reaches, carry the part onward. -/
theorem resumeTravel_onward (p : Part) (g : Gate) : Onward p (p.resumeTravel g) := by
  have h := (retestGate_worked p g).onward
  unfold Part.resumeTravel
  dsimp only
  split
  · exact h
  · exact h.trans (reevaluateOpen_onward _)

/-- And they keep the halt record with the mode. -/
theorem resumeTravel_keeps (p : Part) (g : Gate) : KeepsHalt p (p.resumeTravel g) := by
  have h := retestGate_keeps p g
  unfold Part.resumeTravel
  dsimp only
  split
  · exact h
  · exact h.trans (reevaluateOpen_keeps _)

end Sys2Proof.Machine
end

