-- ==== Sys2Proof/Laws/PerInstr.lean ====
section
/-! SUPPORT. Statements about each command as syntax, one lemma per constructor. -/

namespace Sys2Proof.Laws.Wf

/-- The numbers of a command that a message carries in two bytes (section 11.7, spec/00_scope.md). -/
def numbers : Instr → List Nat
  | .setClock _ day _ => [day]
  | .register _ v => [v.length, v.draught]
  | .cancel _ ticket => [ticket]
  | .entryClear _ lockage => [lockage]
  | .entryRefuse _ lockage => [lockage]
  | .exitClear _ lockage => [lockage]
  | .exitRefuse _ lockage => [lockage]
  | .moveDone _ lockage index => [lockage, index]
  | .taken _ _ sequence => [sequence]
  | _ => []

/-- A well-formed command carries no two-byte number above 65,535. -/
def Statement (i : Instr) : Prop :=
  i.wf = true → ∀ n ∈ numbers i, n ≤ 65535

theorem sampleArrival (r : Reach) (raw : Fin 4096) : Statement (.sampleArrival r raw) := by
  exact fun _ _ h => nomatch h

theorem sampleTimerExpiry (r : Reach) : Statement (.sampleTimerExpiry r) := by
  exact fun _ _ h => nomatch h

theorem limitInputChange (g : Gate) (l : Limit) (asserted : Bool) : Statement (.limitInputChange g l asserted) := by
  exact fun _ _ h => nomatch h

theorem travelTimerExpiry (g : Gate) : Statement (.travelTimerExpiry g) := by
  exact fun _ _ h => nomatch h

theorem positionFeedbackChange (k : Sluice) (position : Fin 16) : Statement (.positionFeedbackChange k position) := by
  exact fun _ _ h => nomatch h

theorem stepTimerExpiry (k : Sluice) : Statement (.stepTimerExpiry k) := by
  exact fun _ _ h => nomatch h

theorem rampIntervalExpiry (k : Sluice) : Statement (.rampIntervalExpiry k) := by
  exact fun _ _ h => nomatch h

theorem dueUpStepIssue (k : Sluice) : Statement (.dueUpStepIssue k) := by
  exact fun _ _ h => nomatch h

theorem gateTravelResume (g : Gate) : Statement (.gateTravelResume g) := by
  exact fun _ _ h => nomatch h

theorem transferTimerExpiry (k : Sluice) : Statement (.transferTimerExpiry k) := by
  exact fun _ _ h => nomatch h

theorem lampRefresh (current : LampMap Bool) : Statement (.lampRefresh current) := by
  exact fun _ _ h => nomatch h

theorem eStopAsserted : Statement (.eStopAsserted) := by
  exact fun _ _ h => nomatch h

theorem eStopNegated : Statement (.eStopNegated) := by
  exact fun _ _ h => nomatch h

theorem navInhibitChange (asserted : Bool) : Statement (.navInhibitChange asserted) := by
  exact fun _ _ h => nomatch h

theorem moveTimerExpiry : Statement (.moveTimerExpiry) := by
  exact fun _ _ h => nomatch h

theorem windowTimerExpiry : Statement (.windowTimerExpiry) := by
  exact fun _ _ h => nomatch h

theorem watchdogExpiry : Statement (.watchdogExpiry) := by
  exact fun _ _ h => nomatch h

theorem clockAdvance : Statement (.clockAdvance) := by
  exact fun _ _ h => nomatch h

theorem byteReceived (q : Port) (b : Byte) : Statement (.byteReceived q b) := by
  exact fun _ _ h => nomatch h

theorem gapTimeout (q : Port) : Statement (.gapTimeout q) := by
  exact fun _ _ h => nomatch h

theorem powerOn (inputs : FieldInputs) : Statement (.powerOn inputs) := by
  exact fun _ _ h => nomatch h

theorem loadFlight (tag : Tag) (v : FlightLoad) : Statement (.loadFlight tag v) := by
  exact fun _ _ h => nomatch h

theorem loadReach (tag : Tag) (reach : Nat) (v : ReachLoad) : Statement (.loadReach tag reach v) := by
  exact fun _ _ h => nomatch h

theorem loadWorks (tag : Tag) (v : WorksLoad) : Statement (.loadWorks tag v) := by
  exact fun _ _ h => nomatch h

theorem loadTariff (tag : Tag) (v : TariffLoad) : Statement (.loadTariff tag v) := by
  exact fun _ _ h => nomatch h

theorem loadTurns (tag : Tag) (v : List TurnEntryLoad) : Statement (.loadTurns tag v) := by
  exact fun _ _ h => nomatch h

theorem loadOutlets (tag : Tag) (v : OutletsLoad) : Statement (.loadOutlets tag v) := by
  exact fun _ _ h => nomatch h

theorem loadResponses (tag : Tag) (v : ResponsesLoad) : Statement (.loadResponses tag v) := by
  exact fun _ _ h => nomatch h

theorem setClock (tag : Tag) (day : Nat) (second : Nat) : Statement (.setClock tag day second) := by
  intro h n m
  simp only [Instr.wf, Instr.fits16, decide_eq_true_eq] at h
  simp only [numbers, List.mem_cons, List.not_mem_nil, or_false] at m
  omega

theorem start (tag : Tag) : Statement (.start tag) := by
  exact fun _ _ h => nomatch h

theorem register (tag : Tag) (v : RegisterRequest) : Statement (.register tag v) := by
  intro h n m
  simp only [Instr.wf, RegisterRequest.fits, Instr.fits16, Bool.and_eq_true, decide_eq_true_eq] at h
  simp only [numbers, List.mem_cons, List.not_mem_nil, or_false] at m
  omega

theorem cancel (tag : Tag) (ticket : Nat) : Statement (.cancel tag ticket) := by
  intro h n m
  simp only [Instr.wf, Instr.fits16, decide_eq_true_eq] at h
  simp only [numbers, List.mem_cons, List.not_mem_nil, or_false] at m
  omega

theorem entryClear (tag : Tag) (lockage : Nat) : Statement (.entryClear tag lockage) := by
  intro h n m
  simp only [Instr.wf, Instr.fits16, decide_eq_true_eq] at h
  simp only [numbers, List.mem_cons, List.not_mem_nil, or_false] at m
  omega

theorem entryRefuse (tag : Tag) (lockage : Nat) : Statement (.entryRefuse tag lockage) := by
  intro h n m
  simp only [Instr.wf, Instr.fits16, decide_eq_true_eq] at h
  simp only [numbers, List.mem_cons, List.not_mem_nil, or_false] at m
  omega

theorem exitClear (tag : Tag) (lockage : Nat) : Statement (.exitClear tag lockage) := by
  intro h n m
  simp only [Instr.wf, Instr.fits16, decide_eq_true_eq] at h
  simp only [numbers, List.mem_cons, List.not_mem_nil, or_false] at m
  omega

theorem exitRefuse (tag : Tag) (lockage : Nat) : Statement (.exitRefuse tag lockage) := by
  intro h n m
  simp only [Instr.wf, Instr.fits16, decide_eq_true_eq] at h
  simp only [numbers, List.mem_cons, List.not_mem_nil, or_false] at m
  omega

theorem moveDone (tag : Tag) (lockage : Nat) (index : Nat) : Statement (.moveDone tag lockage index) := by
  intro h n m
  simp only [Instr.wf, Instr.fits16, Bool.and_eq_true, decide_eq_true_eq] at h
  simp only [numbers, List.mem_cons, List.not_mem_nil, or_false] at m
  omega

theorem trim (tag : Tag) (sluice : Nat) (adjustment : Int) : Statement (.trim tag sluice adjustment) := by
  exact fun _ _ h => nomatch h

theorem halt (tag : Tag) : Statement (.halt tag) := by
  exact fun _ _ h => nomatch h

theorem resume (tag : Tag) : Statement (.resume tag) := by
  exact fun _ _ h => nomatch h

theorem abandon (tag : Tag) : Statement (.abandon tag) := by
  exact fun _ _ h => nomatch h

theorem forceTally (tag : Tag) : Statement (.forceTally tag) := by
  exact fun _ _ h => nomatch h

theorem captureDatum (tag : Tag) (reach : Nat) (level : Int) : Statement (.captureDatum tag reach level) := by
  exact fun _ _ h => nomatch h

theorem lampClear (tag : Tag) : Statement (.lampClear tag) := by
  exact fun _ _ h => nomatch h

theorem restartKeep (tag : Tag) : Statement (.restartKeep tag) := by
  exact fun _ _ h => nomatch h

theorem restartClear (tag : Tag) : Statement (.restartClear tag) := by
  exact fun _ _ h => nomatch h

theorem conditionRead (tag : Tag) : Statement (.conditionRead tag) := by
  exact fun _ _ h => nomatch h

theorem queryFlight (tag : Tag) : Statement (.queryFlight tag) := by
  exact fun _ _ h => nomatch h

theorem queryQueues (tag : Tag) : Statement (.queryQueues tag) := by
  exact fun _ _ h => nomatch h

theorem queryLockage (tag : Tag) : Statement (.queryLockage tag) := by
  exact fun _ _ h => nomatch h

theorem queryOutlets (tag : Tag) : Statement (.queryOutlets tag) := by
  exact fun _ _ h => nomatch h

theorem queryLink (tag : Tag) : Statement (.queryLink tag) := by
  exact fun _ _ h => nomatch h

theorem taken (q : Port) (tag : Tag) (sequence : Nat) : Statement (.taken q tag sequence) := by
  intro h n m
  simp only [Instr.wf, Instr.fits16, decide_eq_true_eq] at h
  simp only [numbers, List.mem_cons, List.not_mem_nil, or_false] at m
  omega

theorem peek (q : Port) (tag : Tag) : Statement (.peek q tag) := by
  exact fun _ _ h => nomatch h

theorem turnEvaluate : Statement (.turnEvaluate) := by
  exact fun _ _ h => nomatch h

theorem tallyAppend : Statement (.tallyAppend) := by
  exact fun _ _ h => nomatch h

theorem surveyEnd : Statement (.surveyEnd) := by
  exact fun _ _ h => nomatch h

theorem openStepEvaluate : Statement (.openStepEvaluate) := by
  exact fun _ _ h => nomatch h

end Sys2Proof.Laws.Wf
end

