-- ==== Sys2Proof/Laws/Readings.lean ====
section
/-! SUPPORT. What a reading, a capture, a lamp found failed and a limit input's report do beyond their own record:
each keeps to `Worked` or `Onward` (chapters 1 and 2). -/

namespace Sys2Proof.Machine

theorem noteClass_worked (p : Part) (r : Reach) (w) : Worked p (p.noteClass r w) := by
  unfold Part.noteClass; simp only; split
  · exact note_worked _ _
  · exact .refl _

/-- Reach records may change outside their readings. -/
theorem reaches_worked (p : Part) (v : Five ReachRec) (h : v.map ReachRec.reading = p.reaches.map ReachRec.reading) :
    Worked p { p with reaches := v } :=
  .of_same (by simp [Part.still, h]) (fun _ => List.prefix_refl _) rfl rfl fun _ => rfl

/-- A record written with an unchanged reading leaves every reading. -/
theorem mapFive {α β : Type} (f : α → β) (v : Five α) (g : Reach) (x : α) (h : f x = f (v.get g)) :
    (v.set g x).map f = v.map f := by
  apply Five.ext_get; intro k; simp only [Five.get_map, Five.get_set]; split
  · rename_i e; rw [e, h]
  · rfl

theorem examineReach_worked (p : Part) (r : Reach) : Worked p (p.examineReach r) := by
  unfold Part.examineReach; split
  · exact reaches_worked p _ (mapFive _ _ _ _ (examined_reading p _))
  · exact .refl _

theorem driftOf_worked (p : Part) (r : Reach) : Worked p (p.driftOf r) := by
  unfold Part.driftOf; split
  · unfold Part.driftTest; simp only; split
    · refine .trans ?_ (report_worked _ _ _)
      exact reaches_worked p _ (mapFive _ _ _ _ rfl)
    · exact .refl _
  · exact .refl _

theorem recapture_worked (p : Part) (c : Chamber) : Worked p (p.recapture c) := by
  unfold Part.recapture; simp only; split
  · exact reaches_worked p _ (mapFive _ _ _ _ rfl)
  · exact .refl _

theorem limitReport_onward (p : Part) (g w) : Onward p (p.limitReport g w) := by
  unfold Part.limitReport; simp only; split
  · exact (report_worked _ _ _).onward
  · split
    · exact .refl _
    · split
      · exact arrivedClosed_onward _ _
      · split
        · exact arrivedOpen_onward _ _
        · exact .refl _

theorem lampLost_worked (p : Part) (x) : Worked p (p.lampLost x) := by
  unfold Part.lampLost; simp only; split
  · exact (note_worked _ _).trans (lampDecision_worked _ _)
  · exact note_worked _ _

end Sys2Proof.Machine
end

