-- ==== Sys2Proof/Laws/Wire.lean ====
section
/-! SUPPORT. The bytes of what the part sends (R185, R186): how long each field and record is, and what number a field
spells, so that no later proof unfolds a layout to find a place in it. -/

namespace Sys2Proof.Machine

/-! ### Numbers -/

@[simp] theorem bytesOf_length (n v : Nat) : (bytesOf n v).length = n := by
  induction n with
  | zero => rfl
  | succ n ih => simp [bytesOf, ih]

/-- Bytes taken one after another onto a number already read (R185). -/
theorem foldl_bytesOf (n v acc : Nat) :
    (bytesOf n v).foldl (fun m (b : Byte) => 256 * m + b.toNat) acc = 256 ^ n * acc + v % 256 ^ n := by
  induction n generalizing acc with
  | zero => simp [bytesOf, Nat.mod_one]
  | succ n ih =>
    have digit : v % 256 ^ (n + 1) = 256 ^ n * (v / 256 ^ n % 256) + v % 256 ^ n := by
      rw [Nat.pow_succ, Nat.mod_mul, Nat.add_comm]
    rw [bytesOf, List.foldl_cons, ih, BitVec.toNat_ofNat, digit, Nat.mul_add, Nat.add_assoc, ← Nat.mul_assoc,
      ← Nat.pow_succ]

/-- A number that fits its bytes is read back from them (R185). -/
theorem natOf_bytesOf (n v : Nat) (h : v < 256 ^ n) : natOf (bytesOf n v) = v := by
  rw [natOf, foldl_bytesOf, Nat.mod_eq_of_lt h]; simp

/-! ### Fields and records -/

@[simp] theorem hullBytes_length (h : List Byte) : (hullBytes h).length = 8 := by simp [hullBytes]

/-- A hull mark of at most 8 characters stands whole, filled up with bytes of 0 (R185). -/
theorem hullBytes_short (h : List Byte) (k : h.length ≤ 8) : hullBytes h = h ++ List.replicate (8 - h.length) 0 := by
  simp only [hullBytes, List.take_append, List.take_of_length_le k, List.take_replicate]
  congr 2; omega

@[simp] theorem flagByte_length (flags : List Bool) : (flagByte flags).length = 1 := by simp [flagByte]

@[simp] theorem clockBytes_length (c : Clock) : (clockBytes c).length = 6 := by simp [clockBytes]

@[simp] theorem lineBytes_length (x : Line) : (lineBytes x).length = 31 := by simp [lineBytes]

@[simp] theorem lockageHead_length (n : Nat) (r : LockageRecord) : (lockageHead n r).length = 39 := by
  simp [lockageHead]

@[simp] theorem linesBytes_length (xs : List Line) : (xs.flatMap lineBytes).length = 31 * xs.length := by
  induction xs with
  | nil => rfl
  | cons x xs ih => simp [ih]; omega

@[simp] theorem lockageBytes_length (n : Nat) (r : LockageRecord) :
    (lockageBytes n r).length = 39 + 31 * r.lines.length := by
  simp only [lockageBytes, List.length_append, lockageHead_length, linesBytes_length]

@[simp] theorem tallyBytes_length (n : Nat) (r : TallyRecord) : (tallyBytes n r).length = 28 := by
  simp [tallyBytes, countBytes]

/-- The i-th line stands after the i lines before it (R186). -/
theorem linesBytes_get (xs : List Line) (i : Nat) (x : Line) (h : xs[i]? = some x) :
    ((xs.flatMap lineBytes).drop (31 * i)).take 31 = lineBytes x := by
  induction xs generalizing i with
  | nil => cases h
  | cons y xs ih =>
    cases i with
    | zero =>
      obtain rfl : y = x := by simpa using h
      simp
    | succ i =>
      have past : 31 * (i + 1) = 31 + 31 * i := by omega
      rw [List.flatMap_cons, past, ← List.drop_drop, List.drop_left' (lineBytes_length y)]
      exact ih i (by simpa using h)

/-- A reply makes at least one part (R185). -/
theorem partCount_pos (bs : List Byte) : 0 < partCount bs := by
  unfold partCount; omega

/-- Its parts have room for all of its data (R185). -/
theorem partCount_room (bs : List Byte) : bs.length ≤ 236 * partCount bs := by
  unfold partCount; omega

end Sys2Proof.Machine
end

