-- ==== Sys2Proof/Tests/Slice0.lean ====
section
/-! SUPPORT. Tests: the well-formedness smoke, the spec's worked cases on one step each, and for every statement with
hypotheses a witness that meets them. Expected values come from spec/, named in each docstring. -/

namespace Sys2Proof.Tests

open Sys2Proof Sys2Proof.Machine

/-! ### Small states -/

/-- A reach VALID at one raw, its window full of it. -/
def settled (raw : Nat) : ReachRec :=
  { ReachRec.reset with cls := .valid, window := [raw, raw, raw, raw], previousRaw := some raw, settleCount := 20 }

/-- A REACH group whose levels are the raws. -/
def plain : ReachGroup :=
  { zero := 0, span := 4096, datum := 0, rmin := 10, rmax := 4000, jump := 50, drift := some 60 }

/-- The TAIL group of spec/01, "Worked case: a TAIL reading". -/
def tailGroup : ReachGroup :=
  { zero := 410, span := 6000, datum := -1250, rmin := 300, rmax := 3900, jump := 40, drift := none }

/-- A gate at its CLOSED limit. -/
def shut : GateRec := { GateRec.initial with state := .closed, atClosed := true }

/-- A gate at its OPEN limit. -/
def stoodOpen : GateRec := { GateRec.initial with state := .open_, atOpen := true }

/-- A gate travelling open for the sequencer, off both limits. -/
def travelling : GateRec :=
  { GateRec.initial with state := .opening, drive := .openDrive, travelTimer := some 900, openPending := true
                         commander := .sequencer }

/-- A gate travelling closed for the sequencer, off both limits. -/
def closingGate : GateRec :=
  { GateRec.initial with state := .closing, drive := .closeDrive, travelTimer := some 900, commander := .sequencer }

/-- The FLIGHT group of spec/03, section 3.10, with nominal levels of 2,000 and 1,000 mm. -/
def flightGroup : Flight :=
  { usableLength := 1100, convoyMaximum := 4, vesselGap := 20, n1 := 2000, n2 := 1000, headSill := -500
    tailSill := -1800, keelClearance := 300, headFlood := 4000, tailFlood := 4000, tolerance := ⟨30, 30, 30, 30⟩ }

/-- WORKS with the S0 settings of spec/02, "Worked sequence: a transfer into C1 with trim". -/
def worksGroup : Works :=
  { travelLimit := ⟨60, 60, 60, 60⟩, stepLimit := ⟨10, 10, 10, 10⟩, rampInterval := ⟨15, 15, 15, 15⟩
    transferLimit := ⟨900, 900, 900, 900⟩, cap := ⟨4, 4, 4, 4⟩, moveLimit := 900, window := 180 }

/-- One class of the tariff of spec/08, section 8.10. -/
def freeClass : ClassTariff := { base := 0, rate := 0, freeLength := 0, ladenPercent := 100, exempt := true }

/-- The TARIFF group of spec/08, section 8.10. -/
def tariffGroup : Tariff :=
  { classes := { pleasure := ⟨800, 60, 60, 100, false⟩, passenger := freeClass
                 dryCargo := ⟨4500, 123, 200, 150, false⟩, tanker := freeClass, pushTow := freeClass
                 workCraft := freeClass, authority := freeClass, rescue := freeClass }
    passPercent := 80, waterRate := 1250, delayCredit := 2000, returnPercent := 40
    hourBand := [3, 3, 3, 3, 3, 3, 2, 2, 2, 2, 1, 1, 1, 1, 1, 1, 1, 1, 2, 2, 2, 2, 3, 3]
    bandPercent := [100, 110, 125, 80] }

/-- Every pattern with an UP call turns UP and every other with a DOWN call turns DOWN, class C. -/
def turnsGroup : List TurnEntry :=
  (List.range 32).map fun i => ⟨if i % 2 = 1 then .up else if i / 2 % 2 = 1 then .down else .hold, .c⟩

def outletsGroup : OutletsGroup :=
  { authorityEnable := true, quayEnable := false, accountsDepth := 2, authorityDepth := 1, quayDepth := 1
    interval := 2 }

/-- Every maskable fault answered CONTINUE, and the watchdog at code 3, 20 s (spec/11, section 11.8). -/
def responsesGroup : Responses :=
  { sensorStale := .continue_, sensorLimited := .continue_, transferTimeout := .continue_, levelDrift := .continue_
    lampFailed := .continue_, moveTimeout := .continue_, periodCode := 3 }

/-- The part in service at REST: every reach VALID, every gate CLOSED, every sluice at 0, NAV-INHIBIT asserted. -/
def inService : Part :=
  { Part.initial with
    mode := .rest, navInhibit := true
    reaches := ⟨settled 3000, settled 2000, settled 1000, settled 500, settled 500⟩
    gates := ⟨shut, shut, shut, shut⟩
    settings := { flight := some flightGroup, reach := ⟨some plain, some plain, some plain, some plain, some plain⟩
                  works := some worksGroup, tariff := some tariffGroup, turns := some turnsGroup
                  outlets := some outletsGroup, responses := some responsesGroup }
    outlets := OutletUnit.initial.configure outletsGroup
    clock := some ⟨412, 50800⟩
    link := { Part.initial.link with conditions := Conditions.empty } }

def part (p : Part) : State := { pending := [], part := p }

/-- What a command leaves of the part; every command answers a next state. -/
def after (c : Instr) (p : Part) : Part :=
  match exec c (part p) with
  | .next t => t.part
  | _ => p

def vessel (ticket : Nat) (hull : Byte) (d : Direction) (cls : VesselClass) (length : Nat) (laden : Bool) : Vessel :=
  { ticket := ticket, hull := [hull], direction := d, cls := cls, length := length, draught := 1600, laden := laden
    accountKind := .cash, accountNumber := none, priority := false, registered := ⟨412, 50000⟩ }

/-- The convoy of lockage 142 (spec/08, section 8.10). -/
def convoy142 : List Vessel :=
  [{ vessel 611 0x44 .up .dryCargo 765 true with accountKind := .account, accountNumber := some 40017332 },
   vessel 612 0x53 .up .pleasure 113 false, vessel 613 0x57 .up .authority 180 false]

/-- Lockage 142 with a plan and a place in it. -/
def lockage142 (plan : List PlanStep) (current : Nat) (stage : Stage) : Lockage :=
  { newLockage 142 .up .c convoy142 plan ⟨412, 50800⟩ with current := current, stage := stage, headDraws := 3 }

/-- The part WORKING lockage 142 at the first of two steps. -/
def working (x y : PlanStep) (stage : Stage) : Part :=
  { inService with mode := .working, lockage := some (lockage142 [x, y] 1 stage) }

/-- The same flight halted. -/
def halted (x y : PlanStep) (stage : Stage) : Part :=
  { working x y stage with
    mode := .halted
    faults := { halt := some ⟨.operatorHalt, .flight, .working, some 142, some 1, none⟩, reported := [] } }

/-- The 19 steps of spec/05, section 5.8, by kind and gate. -/
def plan58 : List Work :=
  [.transfer .g0, .transfer .g1, .transfer .g0, .openGate .g3, .move .g3 .up, .close .g3, .commit,
   .transfer .g2, .openGate .g2, .move .g2 .up, .close .g2, .transfer .g1, .openGate .g1, .move .g1 .up, .close .g1,
   .transfer .g0, .openGate .g0, .move .g0 .up, .close .g0]

/-! ### Well-formedness: an ill-formed command for each check -/

def tariffLoad : TariffLoad :=
  let c : ClassLoad := { base := 0, rate := 0, freeLength := 0, ladenPercent := 100, exempt := some false }
  { classes := ⟨c, c, c, c, c, c, c, c⟩, passPercent := 0, waterRate := 0, delayCredit := 0, returnPercent := 0
    hourBand := List.replicate 24 0, bandPercent := [100, 100, 100, 100] }

def request (hull : List Byte) (d length : Nat) : RegisterRequest :=
  { hull := hull, direction := d, cls := 2, length := length, draught := 2800, laden := true, accountKind := 1
    accountNumber := some 40017332, priority := false }

theorem test_wf_tariff_hours :
    (Instr.loadTariff 0 tariffLoad).wf = true
      ∧ (Instr.loadTariff 0 { tariffLoad with hourBand := List.replicate 23 0 }).wf = false := by decide

theorem test_wf_tariff_bands :
    (Instr.loadTariff 0 { tariffLoad with bandPercent := [100, 100, 100] }).wf = false := by decide

theorem test_wf_turns_entries :
    (Instr.loadTurns 0 (List.replicate 32 ⟨some .hold, some .a⟩)).wf = true
      ∧ (Instr.loadTurns 0 (List.replicate 31 ⟨some .hold, some .a⟩)).wf = false := by decide

theorem test_wf_clock_day :
    (Instr.setClock 0 65535 90000).wf = true ∧ (Instr.setClock 0 65536 0).wf = false := by decide

theorem test_wf_register_direction : (Instr.register 0 (request [0x41] 256 765)).wf = false := by decide

theorem test_wf_register_class : (Instr.register 0 { request [0x41] 0 765 with cls := 256 }).wf = false := by decide

theorem test_wf_register_length : (Instr.register 0 (request [0x41] 0 65536)).wf = false := by decide

theorem test_wf_register_draught :
    (Instr.register 0 { request [0x41] 0 765 with draught := 65536 }).wf = false := by decide

theorem test_wf_register_account_kind :
    (Instr.register 0 { request [0x41] 0 765 with accountKind := 256 }).wf = false := by decide

theorem test_wf_register_account_number :
    (Instr.register 0 { request [0x41] 0 765 with accountNumber := some 4294967296 }).wf = false := by decide

theorem test_wf_cancel : (Instr.cancel 0 65535).wf = true ∧ (Instr.cancel 0 65536).wf = false := by decide

theorem test_wf_clearances :
    (Instr.entryClear 0 65536).wf = false ∧ (Instr.entryRefuse 0 65536).wf = false
      ∧ (Instr.exitClear 0 65536).wf = false ∧ (Instr.exitRefuse 0 65536).wf = false := by decide

theorem test_wf_move_done :
    (Instr.moveDone 0 65536 1).wf = false ∧ (Instr.moveDone 0 1 65536).wf = false
      ∧ (Instr.moveDone 0 1 1).wf = true := by decide

theorem test_wf_taken : (Instr.taken .b 0 65536).wf = false ∧ (Instr.taken .b 0 1).wf = true := by decide

/-- No row of the table gives bits, so no word spells a command and the queue stands as it was. -/
theorem test_no_word_spells_a_command :
    decodeTableWord 8 165 = none ∧ (part inService).withFetchWord 8 165 = part inService := ⟨rfl, rfl⟩

/-! ### Levels (spec/01) -/

/-- R9: a raw of 400 under z = 410, s = 6,000, d = −1,250 has level −1,265. -/
theorem test_level_rounds_away : rawLevel tailGroup 400 = -1265 ∧ rawLevel tailGroup 2731 = 2150 := by decide

/-- "Worked case: a TAIL reading": 2,731 is stored and VALID, and the next sample of 2,790 breaks the reach. -/
theorem test_tail_reading :
    let p := { inService with
      settings := { inService.settings with reach := { inService.settings.reach with tail := some tailGroup } }
      reaches := { inService.reaches with tail := { settled 2730 with previousRaw := some 2727 } } }
    let q := after (.sampleArrival .tail 2731) p
    let r := after (.sampleArrival .tail 2790) q
    q.reaches.tail.cls = .valid ∧ q.reaches.tail.window = [2730, 2730, 2730, 2731]
      ∧ r.reaches.tail.cls = .broken ∧ r.reaches.tail.run = [2790] ∧ r.reaches.tail.window = q.reaches.tail.window
      ∧ r.level .tail = none := by decide

/-- "Compares worked", across G3 with a tolerance of 30. -/
theorem test_compares_worked :
    let at_ (c3 tail : ReadingClass) (u w : Nat) : Part := { inService with reaches := { inService.reaches with
      c3 := { settled u with cls := c3 }, tail := { settled w with cls := tail } } }
    (at_ .valid .valid 2170 2151).compare .g3 = .level
      ∧ (at_ .valid .valid 2420 2151).compare .g3 = .above
      ∧ (at_ .valid .limitedHigh 2420 2151).compare .g3 = .unordered .limited
      ∧ (at_ .limitedHigh .valid 2420 2151).compare .g3 = .above
      ∧ (at_ .valid .limitedLow 1900 2151).compare .g3 = .unordered .limited
      ∧ (at_ .stale .broken 0 0).compare .g3 = .unordered .broken := by decide

/-- "Worked case: capturing the TAIL datum": zero 417, not clamped, and the TAIL level moves to 2,140. -/
theorem test_capture_tail :
    let p := { inService with
      settings := { inService.settings with reach := { inService.settings.reach with tail := some tailGroup } }
      reaches := { inService.reaches with tail := settled 2731 } }
    let q := after (.captureDatum 9 4 2140) p
    q.settings.reach.tail = some { tailGroup with zero := 417 } ∧ q.level .tail = some 2140
      ∧ q.sent.a = [.accepted 9 (some false) (.datum 417 false)] := by decide

/-- R19: a level outside its range is refused at REST, and any capture outside REST. -/
theorem test_capture_refused :
    (after (.captureDatum 9 4 30001) inService).sent.a = [.refused 9 (some false) .badValue]
      ∧ (after (.captureDatum 9 5 2140) inService).sent.a = [.refused 9 (some false) .badValue]
      ∧ (after (.captureDatum 9 4 2140) { inService with mode := .survey }).sent.a
          = [.refused 9 (some false) .notAtRest] := by decide

/-- R7: the fifth period without a sample makes an ordered reach STALE and the change is noted (R8). -/
theorem test_fifth_period_makes_stale :
    let p := { inService with reaches := { inService.reaches with c2 := { settled 1000 with missed := 4 } } }
    let q := after (.sampleTimerExpiry .c2) p
    q.reaches.c2.cls = .stale ∧ q.link.conditions.reaches.c2 = some .stale := by decide

/-! ### Works (spec/02, "Worked sequence: a transfer into C1 with trim") -/

/-- S0 in RAMPING at a position, under cap 4. -/
def rampingAt (n : Nat) (s : SluiceState) (due : Bool) : Part :=
  let p := working ⟨.transfer .g0, .setting⟩ ⟨.transfer .g1, .setting⟩ .running
  { p with sluices := { p.sluices with g0 := { SluiceRec.initial with
      position := n, state := s, target := 4, due := due, transfer := some ⟨.ramping, some 1000, 142⟩ } } }

/-- 18 s: the ramp interval runs out and the up-step to 2 is issued. -/
theorem test_ramp_interval_issues_step :
    let p := rampingAt 1 .stepping false
    let q := after (.rampIntervalExpiry .g0)
      { p with sluices := { p.sluices with g0 := { p.sluices.g0 with rampTimer := some 0 } } }
    q.sluices.g0.step = some (.up, 2) ∧ q.sluices.g0.state = .stepping ∧ q.sluices.g0.stepTimer = some 10000 := by
  decide

/-- 57 s: feedback 4 confirms, and the sluice stands HELD at its cap. -/
theorem test_ramp_holds_at_cap :
    let p := rampingAt 3 .stepping false
    let q := after (.positionFeedbackChange .g0 4)
      { p with sluices := { p.sluices with g0 := { p.sluices.g0 with step := some (.up, 4) } } }
    q.sluices.g0.position = 4 ∧ q.sluices.g0.state = .held ∧ q.sluices.g0.step = none
      ∧ q.sluices.g0.rampTimer = some 15000 := by decide

/-- R124: the first up-step of a transfer waits for the step in flight, and for no ramp interval after it. -/
theorem test_first_step_follows_confirmation :
    let p := rampingAt 1 .stepping true
    let q := after (.positionFeedbackChange .g0 2)
      { p with sluices := { p.sluices with g0 := { p.sluices.g0 with step := some (.up, 2) } } }
    q.sluices.g0.step = some (.up, 3) ∧ q.sluices.g0.rampTimer = none ∧ q.sluices.g0.due = false := by decide

/-- 120 s: TRIM S0 +1 issues the due step to 5. -/
theorem test_trim_issues_due_step :
    let q := after (.trim 7 0 1) (rampingAt 4 .held true)
    q.sluices.g0.trim = 1 ∧ q.sluices.g0.step = some (.up, 5) ∧ q.sluices.g0.state = .stepping
      ∧ q.sent.a = [.accepted 7 (some false) (.trim 1 5)] := by decide

/-- A due step held back by the interlock is issued once it holds (R33). -/
theorem test_due_step_waits :
    let p := rampingAt 1 .held true
    let q := after (.dueUpStepIssue .g0) { p with gates := { p.gates with g1 := stoodOpen } }
    q.sluices.g0.step = none ∧ q.sluices.g0.state = .held ∧ q.sluices.g0.due = true
      ∧ (after (.dueUpStepIssue .g0) p).sluices.g0.step = some (.up, 2) := by decide

/-- R30, R38: a step not confirmed in its time halts a flight that works, and the ramping sluice closes. -/
theorem test_step_stalls :
    let p := rampingAt 1 .stepping false
    let q := after (.stepTimerExpiry .g0)
      { p with sluices := { p.sluices with g0 := { p.sluices.g0 with step := some (.up, 2), stepTimer := some 0 } } }
    q.mode = .halted ∧ (q.faults.halt.map (·.kind)) = some .sluiceStall ∧ q.sluices.g0.transfer = none
      ∧ q.sluices.g0.state = .closing := by decide

/-- R26: a gate that reaches its OPEN limit stands OPEN with its drive OFF. -/
theorem test_gate_reaches_open :
    let p := { inService with gates := { inService.gates with g0 := travelling } }
    let q := after (.limitInputChange .g0 .openLimit true) p
    q.gates.g0.state = .open_ ∧ q.gates.g0.drive = .off ∧ q.gates.g0.travelTimer = none
      ∧ q.gates.g0.openPending = false := by decide

/-- R26: both limits asserted stop the gate and report GATE_LIMIT. -/
theorem test_gate_double_limit :
    let q := after (.limitInputChange .g0 .openLimit true) inService
    q.gates.g0.state = .stopped
      ∧ q.sent.a = [.event (.fault .gateLimit (.gate .g0) .none .rest none none (some ⟨412, 50800⟩))] := by decide

/-- R27: a gate that does not arrive in its travel limit stands STOPPED. -/
theorem test_travel_timeout :
    let q := after (.travelTimerExpiry .g2) { inService with gates := { inService.gates with g2 := closingGate } }
    q.gates.g2.state = .stopped ∧ q.gates.g2.drive = .off ∧ q.gates.g2.travelTimer = none := by decide

/-- R28: a gate paused at LEVEL with its interlock travels on. -/
theorem test_paused_gate_travels_on :
    let p := working ⟨.openGate .g3, .entry⟩ ⟨.move .g3 .up, .entry⟩ .travel
    let q := after (.gateTravelResume .g3)
      { p with gates := { p.gates with g3 := { travelling with state := .stopped, drive := .off } } }
    q.gates.g3.state = .opening ∧ q.gates.g3.drive = .openDrive ∧ q.gates.g3.travelTimer = some 900 := by decide

/-- R36: a transfer that outruns its limit under CONTINUE ramps on with its timer stopped. -/
theorem test_transfer_timeout_continues :
    let q := after (.transferTimerExpiry .g0) (rampingAt 4 .held false)
    q.mode = .working ∧ q.sluices.g0.transfer = some ⟨.ramping, none, 142⟩
      ∧ q.faults.reported = [.transferTimeout] := by decide

/-- R42: an armed lamp without current fails, and LAMP_CLEAR counts it (R44). -/
theorem test_lamp_fails_and_is_cleared :
    let armed := { inService with lamps := setLamp inService.lamps ⟨.g1, .upper⟩ .red ⟨.lit, true, true, true, false⟩ }
    let q := after (.lampRefresh (lampMap fun _ _ => false)) armed
    (lampOf q.lamps ⟨.g1, .upper⟩ .red).failed = true ∧ q.lampTimer = 500
      ∧ (lampOf (after (.lampClear 3) q).lamps ⟨.g1, .upper⟩ .red).failed = false := by decide

/-! ### Inputs, timers and the clock -/

/-- R116, R121: E-STOP in WORKING halts the flight; its negation starts nothing. -/
theorem test_e_stop_halts :
    let q := after .eStopAsserted (working ⟨.close .g3, .entry⟩ ⟨.commit, .commit⟩ .travel)
    q.mode = .halted ∧ q.eStop = true ∧ (after .eStopNegated q).mode = .halted
      ∧ (after .eStopNegated q).eStop = false := by decide

/-- Section 4.10: NAV-INHIBIT negated lets a ready flight latch the UP turn of its one waiting vessel. -/
theorem test_nav_inhibit_negated_latches :
    let q := after (.navInhibitChange false) { inService with
      turn := { inService.turn with nextLockage := 58 }
      upQueue := [vessel 410 0x41 .up .dryCargo 300 false], calls := ⟨true, false, false, false⟩ }
    q.mode = .working ∧ q.upQueue = [] ∧ q.turn.nextLockage = 59 ∧ q.turn.pattern.index = 16
      ∧ (q.lockage.map (·.number)) = some 58 ∧ (faceOf q.faces ⟨.g3, .lower⟩).shown = .ready := by decide

/-- R102: MOVE_TIMEOUT under CONTINUE leaves the move in hand. -/
theorem test_move_timeout :
    let p := working ⟨.move .g3 .up, .entry⟩ ⟨.close .g3, .entry⟩ .underWay
    let q := after .moveTimerExpiry { p with lockage := p.lockage.map fun l => { l with moveTimer := some 0 } }
    q.mode = .working ∧ (q.lockage.map (·.moveTimer)) = some none ∧ q.faults.reported = [.moveTimeout] := by decide

/-- R107: the window ends COMMIT and the carrying transfer begins with the commitment PASSED (R96). -/
theorem test_window_passes_commitment :
    let p := working ⟨.commit, .commit⟩ ⟨.transfer .g2, .carrying⟩ .waiting
    let q := after .windowTimerExpiry { p with lockage := p.lockage.map fun l => { l with windowTimer := some 0 } }
    (q.lockage.map (·.current)) = some 2 ∧ (q.lockage.bind (·.commitment)) = some .passed
      ∧ q.sluices.g2.step = some (.up, 1) := by decide

/-- Section 11.8: the watchdog withdraws a lockage whose entry move waits. -/
theorem test_watchdog_withdraws :
    let p := working ⟨.move .g3 .up, .entry⟩ ⟨.close .g3, .entry⟩ .awaiting
    let q := after .watchdogExpiry { p with link := { p.link with armed := true, watchdog := some 0 } }
    q.mode = .rest ∧ q.lockage = none ∧ q.upQueue = convoy142 ∧ q.link.lost = true
      ∧ q.link.conditions.linkLost = true := by decide

/-- R167: the last second of day 65,535 is followed by day 0. -/
theorem test_clock_wraps :
    (after .clockAdvance { inService with clock := some ⟨65535, 86399⟩ }).clock = some ⟨0, 0⟩ := by decide

/-- R168: a second of 86,400 is refused, and 86,399 is taken. -/
theorem test_set_clock :
    (after (.setClock 4 412 86400) inService).sent.a = [.refused 4 (some false) .badValue]
      ∧ (after (.setClock 4 7 86399) inService).clock = some ⟨7, 86399⟩ := by decide

/-! ### Turns and plans -/

/-- Section 5.8: an UP turn of class C from three EMPTY chambers has these 19 steps; section 5.7 has 18. -/
theorem test_worked_plans :
    ((planFrom ⟨.empty, .empty, .empty, ⟨false, false, false, false⟩⟩ .up .c).steps.map (·.work)) = plan58
      ∧ (planFrom ⟨.full, .full, .full, ⟨false, false, false, false⟩⟩ .down .b).steps.length = 18
      ∧ (planFrom ⟨.full, .empty, .full, ⟨false, false, true, false⟩⟩ .down .b).steps.length = 17 := by decide

/-- Section 4.10: a latch with C2 LIMITED_HIGH ends in NO_PLAN and leaves the queue as it was. -/
theorem test_no_plan :
    let v := vessel 410 0x41 .up .dryCargo 300 false
    let q := after .turnEvaluate { inService with
      navInhibit := false, turn := { inService.turn with nextLockage := 57 }
      reaches := { inService.reaches with c2 := { settled 1000 with cls := .limitedHigh } }
      upQueue := [v], calls := ⟨true, false, false, false⟩ }
    q.mode = .rest ∧ q.upQueue = [v] ∧ q.turn.planWait = true ∧ q.turn.nextLockage = 58
      ∧ q.turn.pattern.index = 1 := by decide

/-- R97: an exit OPEN of class C waits in CLEARANCE until its clearance is given. -/
theorem test_open_step_waits_for_clearance :
    let p := working ⟨.openGate .g0, .exit⟩ ⟨.move .g0 .up, .exit⟩ .level
    ((after .openStepEvaluate p).lockage.map (·.stage)) = some .clearance := by decide

/-- R171: the survey ends once every reading, gate and sluice is as it asks. -/
theorem test_survey_ends :
    let q := after .surveyEnd { inService with mode := .survey }
    q.mode = .rest ∧ q.sent.a = [.event (.mode .rest none)] := by decide

/-! ### Clearances, moves and recovery -/

/-- R104: ENTRY_CLEAR sends the waiting entry move under way, and PROCEED shows through the open gate. -/
theorem test_entry_clear :
    let p := working ⟨.move .g3 .up, .entry⟩ ⟨.close .g3, .entry⟩ .awaiting
    let q := after (.entryClear 5 142) { p with gates := { p.gates with g3 := stoodOpen } }
    (q.lockage.map (·.stage)) = some .underWay ∧ (q.lockage.map (·.moveTimer)) = some (some 900000)
      ∧ (faceOf q.faces ⟨.g3, .lower⟩).shown = .proceed ∧ (q.lockage.map (·.entryPassed)) = some true := by decide

/-- R105: ENTRY_REFUSE before entry withdraws the lockage and puts its convoy back. -/
theorem test_entry_refuse :
    let q := after (.entryRefuse 5 142) (working ⟨.move .g3 .up, .entry⟩ ⟨.close .g3, .entry⟩ .awaiting)
    q.mode = .rest ∧ q.lockage = none ∧ q.upQueue = convoy142 ∧ q.outlets.counters.withdrawn = 1 := by decide

/-- R99, R117: an OPEN step whose compare is UNORDERED waits in LEVEL, and reports the STALE reach once. -/
theorem test_open_step_unordered :
    let p := working ⟨.openGate .g3, .entry⟩ ⟨.move .g3 .up, .entry⟩ .tide
    let blind := { p with reaches := { p.reaches with c3 := { settled 500 with cls := .stale } } }
    let q := after .openStepEvaluate blind
    (q.lockage.map (·.stage)) = some .level ∧ q.gates = inService.gates ∧ q.faults.reported = [.sensorStale]
      ∧ q.sent.a = [.event (.fault .sensorStale (.gate .g3) .continue_ .working (some 142) (some 1)
          (some ⟨412, 50800⟩))]
      ∧ (after .openStepEvaluate q).sent.a = q.sent.a := by decide

/-- R107, R108: EXIT_CLEAR at COMMIT ends the step. -/
theorem test_exit_clear :
    let q := after (.exitClear 5 142) (working ⟨.commit, .commit⟩ ⟨.transfer .g2, .carrying⟩ .waiting)
    (q.lockage.map (·.exit)) = some .given ∧ (q.lockage.map (·.current)) = some 2 := by decide

/-- Lockage 142 at its exit OPEN, HEAD and C1 level, with the exit awaited after the commitment has passed. -/
def exiting (stage : Stage) : Part :=
  { working ⟨.openGate .g0, .exit⟩ ⟨.move .g0 .up, .exit⟩ stage with
    reaches := { inService.reaches with head := settled 2000 }
    lockage := some { lockage142 [⟨.openGate .g0, .exit⟩, ⟨.move .g0 .up, .exit⟩] 1 stage with
      commitment := some .passed } }

/-- R97, R108: EXIT_CLEAR at an exit OPEN in CLEARANCE has its gate opened, and EXIT_REFUSE leaves it there, late. -/
theorem test_exit_clear_at_open :
    let q := after (.exitClear 5 142) (exiting .clearance)
    let r := after (.exitRefuse 5 142) (exiting .clearance)
    q.gates.g0.state = .opening ∧ (q.lockage.map (·.stage)) = some .travel
      ∧ (r.lockage.map fun l => (l.exit, l.late, l.stage)) = some (.refused, true, .clearance)
      ∧ r.gates = inService.gates := by decide

/-- R109: EXIT_REFUSE at COMMIT turns the convoy back through the entry gate. -/
theorem test_exit_refuse :
    let q := after (.exitRefuse 5 142) (working ⟨.commit, .commit⟩ ⟨.transfer .g2, .carrying⟩ .waiting)
    (q.lockage.map fun l => (l.current, l.plan.drop 1))
      = some (2, [⟨.openGate .g3, .returning⟩, ⟨.move .g3 .down, .returning⟩, ⟨.close .g3, .returning⟩]) := by decide

/-- An exit OPEN in TIDE that had reached TRAVEL before a halt. -/
def exitWaitsAgain : Lockage :=
  { lockage142 [⟨.openGate .g0, .exit⟩, ⟨.move .g0 .up, .exit⟩] 1 .tide with
    exit := .given, commitment := some .passed, exitCommanded := true }

/-- R108: an EXIT_REFUSE is TOO_LATE at an exit OPEN that waits again after a halt, and late where it had not reached
TRAVEL. -/
theorem test_exit_refuse_after_travel :
    let at1 := fun (l : Lockage) => { working ⟨.commit, .commit⟩ ⟨.commit, .commit⟩ .waiting with lockage := some l }
    let q := after (.exitRefuse 5 142) (at1 exitWaitsAgain)
    let r := after (.exitRefuse 5 142) (at1 { exitWaitsAgain with exitCommanded := false })
    q.lockage = some exitWaitsAgain ∧ q.sent.a = [.refused 5 (some false) .tooLate]
      ∧ (r.lockage.map fun l => (l.exit, l.late, l.stage)) = some (.refused, true, .clearance) := by decide

/-- R101: MOVE_DONE ends the move in hand, and one for another step is refused. -/
theorem test_move_done :
    let p := working ⟨.move .g2 .up, .carrying⟩ ⟨.close .g2, .carrying⟩ .underWay
    ((after (.moveDone 5 142 1) p).lockage.map (·.current)) = none
      ∧ (after (.moveDone 5 142 2) p).sent.a = [.refused 5 (some false) .notCurrent] := by decide

/-- R122: HALT in WORKING halts, its reply first. -/
theorem test_halt :
    let q := after (.halt 5) (working ⟨.close .g3, .entry⟩ ⟨.commit, .commit⟩ .travel)
    q.mode = .halted ∧ q.sent.a.head? = some (.accepted 5 (some false) (.halt .halted true)) := by decide

/-- R123, R124: RESUME works on at the halted step, and is refused while E-STOP stands. -/
theorem test_resume :
    let p := { halted ⟨.close .g3, .entry⟩ ⟨.commit, .commit⟩ .travel with
      gates := { inService.gates with g3 := { closingGate with state := .stopped, drive := .off } } }
    let q := after (.resume 5) p
    q.mode = .working ∧ q.gates.g3.drive = .closeDrive ∧ q.faults.halt = none
      ∧ (after (.resume 5) { p with eStop := true }).sent.a = [.refused 5 (some false) .stillFaulted] := by decide

/-- R125, R140: ABANDON after entry ends the lockage with a record of 0. -/
theorem test_abandon :
    let p := halted ⟨.close .g3, .entry⟩ ⟨.commit, .commit⟩ .travel
    let q := after (.abandon 5) { p with lockage := p.lockage.map fun l => { l with entryPassed := true } }
    q.mode = .rest ∧ q.outlets.counters.abandoned = 1 ∧ q.outlets.counters.tollSum = 0
      ∧ q.outlets.counters.lockageRecords = 1 ∧ q.upQueue = [] := by decide

/-! ### Vessels -/

/-- Section 3.10: RHN4471 takes ticket 301 and position 1. -/
theorem test_register :
    let mark := [0x52#8, 0x48#8, 0x4E#8, 0x34#8, 0x34#8, 0x37#8, 0x31#8]
    let q := after (.register 5 (request mark 0 765)) { inService with
      nextTicket := 301, reaches := { inService.reaches with head := settled 3200, tail := settled 2151 } }
    q.nextTicket = 302 ∧ (q.upQueue.map (·.hull)) = [mark] ∧ q.calls.up = true
      ∧ q.sent.a = [.accepted 5 (some false) (.register 301 1 765 false false)] := by decide

/-- Section 3.10: a length of 42 dm is recorded as 50, and a mark in the convoy is refused DUPLICATE. -/
theorem test_register_raised_and_refused :
    let p := working ⟨.close .g3, .entry⟩ ⟨.commit, .commit⟩ .travel
    ((after (.register 5 { request [0x4B] 0 42 with accountKind := 0 }) p).upQueue.map (·.length)) = [50]
      ∧ (after (.register 5 (request [0x44] 0 90)) p).sent.a = [.refused 5 (some false) .duplicate] := by decide

/-- R52: CANCEL takes a record off its queue and replies its place. -/
theorem test_cancel :
    let q := after (.cancel 5 302) { inService with
      upQueue := [vessel 301 0x41 .up .tanker 300 false, vessel 302 0x42 .up .tanker 300 false] }
    (q.upQueue.map (·.ticket)) = [301] ∧ q.sent.a = [.accepted 5 (some false) (.cancel [0x42] .up 2)] := by decide

/-! ### Tolls, records and tallies -/

/-- Section 8.10: lockage 142 as it ended, late: lines of 20,160, 0 and 0 with shares 3,267, 483 and 0. -/
theorem test_lockage_142 :
    let r := tariffGroup.record { lockage142 [] 1 .travel with late := true } .completedLate ⟨412, 58980⟩
    (r.lines.map (·.tariffFee)) = [18893, 1230, 0] ∧ (r.lines.map (·.waterShare)) = [3267, 483, 0]
      ∧ (r.lines.map (·.lineFee)) = [20160, 0, 0] ∧ r.total = 20160 ∧ r.waterCharged = 3750
      ∧ (r.lines.map (·.roundedUp)) = [true, true, false] ∧ (r.lines.map (·.creditFloored)) = [false, true, false] := by
  decide

/-- Section 8.11: equal remainders go to the first vessels in convoy order, and a return costs 1,800 and 320. -/
theorem test_further_tolls :
    waterShares 1250 [some 300, some 300, some 300] = [417, 417, 416]
      ∧ ((tariffGroup.record (lockage142 [] 1 .travel) .returned ⟨0, 0⟩).lines.map (·.lineFee)) = [1800, 320, 0] := by
  decide

/-- R158: a FORCE_TALLY in WORKING waits for the end of the lockage; at REST it is appended at once (R156). -/
theorem test_force_tally :
    (after (.forceTally 5) (working ⟨.close .g3, .entry⟩ ⟨.commit, .commit⟩ .travel)).outlets.tally = .waiting
      ∧ (after (.forceTally 5) inService).outlets.tally = .outstanding 1 := by decide

/-- Section 9.10: a pending tally is appended once a slot is free, as sequence 302 with number 18, counters at 0. -/
theorem test_tally_append :
    let u := inService.outlets
    let q := after .tallyAppend { inService with outlets := { u with
      tally := .pending true true, nextSequence := 302, nextTally := 18
      counters := { Counters.zero with lockageRecords := 2, tollSum := 17345 } } }
    q.outlets.tally = .outstanding 302 ∧ q.outlets.counters = Counters.zero ∧ q.outlets.nextSequence = 303
      ∧ (q.outlets.outlets.b.queue.map (·.sequence)) = [302] := by decide

/-- R150: TAKEN of the head frees it, and of any other sequence is refused NOT_HEAD; PEEK reads the head (R151). -/
theorem test_taken_and_peek :
    let r : Record := ⟨301, .tally ⟨17, false, true, false, Counters.zero⟩⟩
    let p := { inService with outlets := { inService.outlets with
      outlets := { inService.outlets.outlets with b := ⟨true, 1, [r], .offered⟩ } } }
    (after (.taken .b 5 301) p).outlets.outlets.b = ⟨true, 1, [], .idle⟩
      ∧ (after (.taken .b 5 302) p).sent.b = [.refused 5 none .notHead]
      ∧ (after (.peek .b 6) p).sent.b = [.accepted 6 none (.peek 1 (some r))] := by decide

/-! ### Settings and resets -/

/-- R163, R164: fields are stored at the nearer end of their range and counted, with the first one's index. -/
theorem test_loads_clamp :
    let q := after (.loadReach 5 4 { zero := -1, span := 4096, datum := 0, rmin := 50, rmax := 20, jump := 256, drift := 0 })
      inService
    q.settings.reach.tail = some { plain with rmin := 50, rmax := 50, jump := 255, drift := none }
      ∧ q.reaches.tail.cls = .settling ∧ q.sent.a = [.accepted 5 (some false) (.load 3 (some 0))] := by decide

/-- R164: a window of 5 s is stored as 10 and one of 0 as 0; FLIGHT's usable length is at most 2,500 dm. -/
theorem test_works_and_flight_loads :
    let v : WorksLoad := { travelLimit := ⟨60, 60, 60, 60⟩, stepLimit := ⟨10, 10, 10, 10⟩, cap := ⟨4, 4, 4, 16⟩
                           rampInterval := ⟨15, 15, 15, 15⟩, transferLimit := ⟨900, 900, 900, 900⟩
                           moveLimit := 900, window := 5 }
    let f : FlightLoad := { usableLength := 2501, convoyMaximum := 4, vesselGap := 20, n1 := 2000, n2 := 1000
                            headSill := 0, tailSill := 0, keelClearance := 300, headFlood := 4000, tailFlood := 4000
                            tolerance := ⟨30, 30, 30, 4⟩ }
    ((after (.loadWorks 5 v) inService).settings.works.map (·.window)) = some 10
      ∧ ((after (.loadWorks 5 { v with window := 0 }) inService).settings.works.map (·.window)) = some 0
      ∧ ((after (.loadFlight 5 f) inService).settings.flight.map (·.usableLength)) = some 2500
      ∧ (after (.loadFlight 5 f) inService).sent.a = [.accepted 5 (some false) (.load 2 (some 0))] := by decide

/-- R129: an exempt code of no meaning is NO and counts; R65: an UP action where the UP call is absent is HOLD. -/
theorem test_tariff_and_turns_loads :
    let c : ClassLoad := { base := 65536, rate := 0, freeLength := 0, ladenPercent := 100, exempt := none }
    (after (.loadTariff 5 { tariffLoad with classes := { tariffLoad.classes with tanker := c } }) inService).sent.a
        = [.accepted 5 (some false) (.load 2 (some 15))]
      ∧ ((after (.loadTurns 5 (List.replicate 32 ⟨some .up, none⟩)) inService).settings.turns.map (·.take 2))
        = some [⟨.hold, .c⟩, ⟨.up, .c⟩] := by decide

/-- R146: OUTLETS is refused OUTLET_BUSY while a tally is outstanding; R182: RESPONSES restarts an armed watchdog. -/
theorem test_outlets_and_responses_loads :
    let o : OutletsLoad := { authorityEnable := some true, quayEnable := some true, accountsDepth := 9
                             authorityDepth := 1, quayDepth := 0, interval := 0 }
    let h : Option Response := some .halt
    let w : ResponsesLoad := { sensorStale := h, sensorLimited := h, transferTimeout := h, levelDrift := h
                               lampFailed := h, moveTimeout := none, periodCode := 7 }
    (after (.loadOutlets 5 o) { inService with outlets := { inService.outlets with tally := .outstanding 3 } }).sent.a
        = [.refused 5 (some false) .outletBusy]
      ∧ (after (.loadOutlets 5 o) inService).outlets.outlets.c = ⟨true, 1, [], .idle⟩
      ∧ (after (.loadResponses 5 w) { inService with link := { inService.link with armed := true } }).link.watchdog
        = some 300000 := by decide

/-- R169: START names the missing clock; with everything set it begins the survey. -/
theorem test_start :
    (after (.start 5) { inService with mode := .startup, clock := none }).sent.a
        = [.refused 5 (some false) (.setupIncomplete [.clock])]
      ∧ (after (.start 5) { inService with
          mode := .startup, reaches := { inService.reaches with tail := ReachRec.reset } }).mode = .survey := by decide

/-- R172, R173: RESTART_KEEP of a complete part surveys with its queues kept; RESTART_CLEAR starts up with none. -/
theorem test_restarts :
    let p := { inService with upQueue := convoy142, nextTicket := 614 }
    (after (.restartKeep 5) p).mode = .survey ∧ (after (.restartKeep 5) p).upQueue = convoy142
      ∧ (after (.restartClear 5) p).mode = .startup ∧ (after (.restartClear 5) p).upQueue = []
      ∧ (after (.restartClear 5) p).nextTicket = 614
      ∧ (after (.restartClear 5) p).link.conditions.restarted = some .clear := by decide

/-- R23, R29: power-on takes each gate from its limits and closes a sluice found above 0. -/
theorem test_power_on :
    let q := after (.powerOn { closedLimit := ⟨true, false, false, false⟩, openLimit := ⟨false, true, false, false⟩
                               feedback := ⟨0, 0, 3, 0⟩, eStop := false, navInhibit := false, straps := 2 }) inService
    q.gates.g0.state = .closed ∧ q.gates.g1.state = .open_ ∧ q.gates.g2.state = .stopped
      ∧ q.sluices.g2.step = some (.down, 2) ∧ q.mode = .startup ∧ q.link.rate = 2 := by decide

/-! ### The link -/

/-- R180: a critical condition is shown in place of a query's data and cleared; CONDITION_READ shows it always. -/
theorem test_condition_rule :
    let c := { Conditions.empty with restarted := some .power }
    let p := { inService with link := { inService.link with conditions := c } }
    (after (.queryFlight 8) p).sent.a = [.condition 8 c] ∧ (after (.queryLink 8) p).link.conditions = Conditions.empty
      ∧ (after (.queryLockage 8) inService).sent.a = [.accepted 8 (some false) (.lockage none)]
      ∧ (after (.conditionRead 8) inService).sent.a = [.condition 8 Conditions.empty] := by decide

/-- R60, R161: the queries of the queues and the outlets return them as they stand. -/
theorem test_queries :
    (after (.queryQueues 8) inService).sent.a = [.accepted 8 (some false) (.queues inService.queuesView)]
      ∧ inService.queuesView.nextTicket = 1 ∧ inService.queuesView.up.count = 0
      ∧ (after (.queryOutlets 8) inService).sent.a = [.accepted 8 (some false) (.outlets inService.outlets.view)]
      ∧ inService.outlets.view.interval = 2 := by decide

/-- R176: 0xA5 begins a frame, a LEN of 241 discards it, and a gap inside a frame discards it too. -/
theorem test_receiver :
    let p := after (.byteReceived .b 0xA5) inService
    p.link.receivers.b = .inFrame none [] 0 ∧ (after (.byteReceived .b 241) p).link.receivers.b = .hunting
      ∧ (after (.byteReceived .b 240) p).link.receivers.b = .inFrame (some 240) [] 0
      ∧ (after (.gapTimeout .b) p).link.conditions.badMessage = 1
      ∧ (after (.gapTimeout .b) p).link.receivers.b = .hunting := by decide

/-- R176: 0xA5 after a gap above 50 ms discards the frame it finds and begins another. -/
theorem test_gap_begins_frame :
    let p := { inService with link := { inService.link with receivers :=
      ⟨.inFrame (some 2) [0x10#8] 51, .hunting, .hunting⟩ } }
    (after (.byteReceived .a 0xA5) p).link.receivers.a = .inFrame none [] 0
      ∧ (after (.byteReceived .a 0xA5) p).link.conditions.badMessage = 1 := by decide

/-- R176: a frame whose check fails is counted and answered with nothing. -/
theorem test_failed_check :
    let p := { inService with link := { inService.link with receivers :=
      ⟨.inFrame (some 2) [0x10#8, 7#8, 0#8] 0, .hunting, .hunting⟩ } }
    (after (.byteReceived .a 0) p).link.checkErrors.a = 1 ∧ (after (.byteReceived .a 0) p).sent.a = [] := by decide +kernel

/-- R185: the CRC-16 of the nine digits is the published check value of this polynomial and initial value. -/
theorem test_crc :
    crc16 [0x31, 0x32, 0x33, 0x34, 0x35, 0x36, 0x37, 0x38, 0x39] = 0x29B1#16 := by decide +kernel

/-- R186: a LOCKAGE body of three lines takes 39 bytes and 31 a line, a TALLY body 28. -/
theorem test_record_sizes :
    (lockageBytes 1 (tariffGroup.record (lockage142 [] 1 .travel) .completed ⟨412, 58980⟩)).length = 132
      ∧ (tallyBytes 1 ⟨18, true, true, false, Counters.zero⟩).length = 28 := by decide +kernel

/-! ### Witnesses: for each statement with hypotheses, a state and operands that meet them together -/

/-- The queue of the part is not empty, and empty. -/
theorem witness_step :
    ({ part inService with pending := [.eStopNegated] } : State).pending = .eStopNegated :: []
      ∧ (part inService).pending = [] := ⟨rfl, rfl⟩

/-- The entry move of lockage 142 under way, its face showing PROCEED through the open gate. -/
def entering : Part :=
  let p := working ⟨.move .g3 .up, .entry⟩ ⟨.close .g3, .entry⟩ .awaiting
  after (.entryClear 5 142) { p with gates := { p.gates with g3 := stoodOpen } }

/-- A part that shows PROCEED, has a convoy and waiting vessels, and meets every invariant; and a step from it. -/
def busy : Part :=
  { entering with
    upQueue := [{ vessel 701 0x50 .up .rescue 140 false with priority := true }, vessel 702 0x51 .up .tanker 300 true] }

theorem busy_guarded : busy.ProceedGuarded := by
  rintro ⟨g, s⟩ h
  cases g <;> cases s <;> first
    | exact absurd h (by decide)
    | exact ⟨by decide, .entry, by decide⟩

theorem busy_sluices : busy.SluicesInRange := by
  intro k; cases k <;> decide

theorem busy_drives : busy.DrivesMatch := by
  intro g; cases g <;> rfl

theorem busy_queues : busy.QueuesOrdered := by
  have a : ∀ v ∈ busy.upQueue.dropWhile (·.priority), v.priority = false := by decide
  have b : ∀ v ∈ busy.downQueue.dropWhile (·.priority), v.priority = false := by decide
  exact ⟨a, b⟩

/-- Every invariant of the statements holds of a busy part, which a step takes on. -/
theorem witness_invariants :
    (∃ t, step { part busy with pending := [.limitInputChange .g3 .openLimit false] } = .next t
        ∧ (faceOf t.part.faces ⟨.g3, .lower⟩).shown = .stop)
      ∧ busy.ProceedGuarded ∧ (faceOf busy.faces ⟨.g3, .lower⟩).shown = .proceed
      ∧ busy.HaltMatches ∧ busy.HullsDistinct ∧ busy.QueuesOrdered ∧ busy.DrivesMatch ∧ busy.NumbersInRange
      ∧ busy.SluicesInRange :=
  ⟨⟨_, rfl, by decide⟩, busy_guarded, by decide, by unfold Part.HaltMatches; decide,
    by unfold Part.HullsDistinct; decide, busy_queues, busy_drives,
    by unfold Part.NumbersInRange assignable; decide, busy_sluices⟩

/-- An OPEN step of lockage 142 at G3, LEVEL, its far side closed. -/
def opening : Part := working ⟨.openGate .g3, .entry⟩ ⟨.move .g3 .up, .entry⟩ .level

/-- A command that is no byte turns an OPEN drive on, and one issues an up-step. -/
theorem witness_far_side :
    (∃ t, exec .openStepEvaluate (part opening) = .next t ∧ t.part.gates.g3.drive = .openDrive
        ∧ opening.gates.g3.drive = .off)
      ∧ (∃ t, exec (.dueUpStepIssue .g0) (part (rampingAt 1 .held true)) = .next t
        ∧ t.part.sluices.g0.step = some (.up, 2) ∧ (rampingAt 1 .held true).sluices.g0.step = none)
      ∧ ∀ q b, Instr.openStepEvaluate ≠ .byteReceived q b :=
  ⟨⟨_, rfl, by decide⟩, ⟨_, rfl, by decide⟩, by simp⟩

/-- A command to which every clause of the frames applies, and no power-on; and a REACH load of another reach. -/
theorem witness_frames :
    (∃ t, exec .eStopNegated (part busy) = .next t)
      ∧ (Instr.eStopNegated).storesSettings = false ∧ (Instr.eStopNegated).setsClock = false
      ∧ (Instr.eStopNegated).spendsTicket = false ∧ (Instr.eStopNegated).configuresOutlets = false
      ∧ (Instr.eStopNegated).actsOnLink = false ∧ (Instr.eStopNegated).readsReach .c1 = false
      ∧ (∀ v, (Instr.loadReach 0 4 v).readsReach .c2 = false)
      ∧ (Instr.eStopNegated).sensesLamps = false ∧ (Instr.eStopNegated).takesRecord = false
      ∧ (∀ v, Instr.eStopNegated ≠ .powerOn v) ∧ (Instr.clockAdvance ≠ .eStopAsserted)
      ∧ (∀ b, Instr.clockAdvance ≠ .navInhibitChange b)
      ∧ (∀ b, Instr.limitInputChange .g0 .openLimit true ≠ .limitInputChange .g0 .closedLimit b)
      ∧ (∀ b, Instr.limitInputChange .g0 .closedLimit true ≠ .limitInputChange .g0 .openLimit b)
      ∧ ∀ n, Instr.positionFeedbackChange .g0 3 ≠ .positionFeedbackChange .g1 n := by
  refine ⟨⟨_, rfl⟩, ?_⟩
  simp [Instr.storesSettings, Instr.setsClock, Instr.spendsTicket, Instr.configuresOutlets, Instr.actsOnLink,
    Instr.readsReach, Reach.index, Instr.sensesLamps, Instr.takesRecord]

/-- One reach of the part in service replaced, its group in force. -/
def withReach (x : ReachRec) : Part := { inService with reaches := { inService.reaches with c2 := x } }

/-- A SET group, with a STALE reach, one at its nineteenth settling sample, and ordered ones at the jump's edge. -/
theorem witness_samples :
    inService.settings.reach.get .c2 = some plain
      ∧ ((withReach { settled 1000 with cls := .stale }).reaches.get .c2).cls = .stale
      ∧ ((withReach { ReachRec.reset with settleCount := 19 }).reaches.get .c2).settleCount = 19
      ∧ ((withReach (settled 1000)).reaches.get .c2).cls.ordered = true
      ∧ ((withReach (settled 1000)).reaches.get .c2).previousRaw = some 1000
      ∧ (1050 - 1000) + (1000 - 1050) ≤ plain.jump := by decide

/-- A reach in SETTLING below its nineteenth sample; a jump of 51 against 50; a run to extend, to end and to restart. -/
theorem witness_settling_and_jumps :
    ((withReach { ReachRec.reset with settleCount := 18 }).reaches.get .c2).cls = .settling
      ∧ (18 : Nat) < 19 ∧ 0 < plain.jump ∧ plain.jump < (1051 - 1000) + (1000 - 1051)
      ∧ (settled 1000).cls.ordered = true ∧ (settled 1000).previousRaw = some 1000
      ∧ (let run := { settled 1000 with cls := .broken, run := [1200], runCount := 1 }
         ((withReach run).reaches.get .c2).cls = .broken ∧ run.run.getLast? = some 1200
           ∧ (1250 - 1200) + (1200 - 1250) ≤ plain.jump ∧ run.runCount < 19)
      ∧ (let run := { settled 1000 with cls := .broken, run := [1200], runCount := 19 }
         ((withReach run).reaches.get .c2).cls = .broken ∧ ¬ run.runCount < 19)
      ∧ (∀ v, [1200].getLast? = some v → plain.jump < (1149 - v) + (v - 1149)) := by
  refine ⟨by decide, by decide, by decide, by decide, by decide, by decide, by decide, by decide, ?_⟩
  intro v h; cases h; decide

/-- The fifth missed period, one without a change of class, an UNSET group; and a sample row and a timer row. -/
theorem witness_missed_periods :
    (withReach { settled 1000 with missed := 4 }).reaches.c2.missed = 4
      ∧ ((withReach { ReachRec.reset with missed := 4 }).reaches.c2.missed = 4
        → (withReach { ReachRec.reset with missed := 4 }).reaches.c2.cls.ordered = false)
      ∧ Part.initial.settings.reach.get .c2 = none
      ∧ (∃ raw, Instr.sampleArrival .c2 2731 = .sampleArrival .c2 raw) :=
  ⟨by decide, fun _ => by decide, rfl, ⟨_, rfl⟩⟩

/-- A flight that halts on every maskable fault. -/
def strict (p : Part) : Part := { p with settings := { p.settings with responses := none } }

/-- C2 isolated with a level recorded, VALID at 1,000 mm. -/
def drifting (level : Int) : Part := withReach { settled 1000 with isolationLevel := some level }

/-- C2 isolated at 1,000 mm, 61 and 60 mm from the level it was isolated at, in a flight that stands by and in one that
works under HALT; no transfer ramps and no gate waits. -/
theorem witness_drift :
    inService.settings.reach.get Chamber.c2.reach = some plain ∧ plain.drift = some 60 ∧ (0 : Int) ≤ 60
      ∧ (drifting 939).isolated .c2 = true ∧ (drifting 939).StandsBy
      ∧ (∀ k, (drifting 939).ramping k = false) ∧ (∀ h, ((drifting 939).gates.get h).openPending = false)
      ∧ (after (.sampleArrival .c2 1000) (drifting 939)).level .c2 = some 1000 ∧ (60 : Int) < 1000 - 939
      ∧ ¬ ((60 : Int) < 1000 - 940) ∧ ((drifting 939).reaches.get .c2).driftReported = false
      ∧ ((withReach (settled 1000)).reaches.get .c2).isolationLevel = none
      ∧ (let p := { drifting 939 with mode := .working }
         p.mode = .working ∧ (strict p).responseOf .levelDrift = .halt ∧ ∀ g, (p.gates.get g).drive = (p.gates.get g).state.drive) :=
  ⟨rfl, rfl, by decide, by decide, Or.inr (Or.inr ⟨rfl, rfl⟩), fun k => by cases k <;> decide,
    fun h => by cases h <;> rfl, by decide, by decide, by decide, rfl, rfl, rfl, by decide,
    fun g => by cases g <;> rfl⟩

/-- R9's ranges at both ends, a reach without a level, and one with four raws. -/
theorem witness_levels :
    (4095 : Nat) ≤ 4095 ∧ (0 : Int) ≤ plain.zero ∧ plain.zero ≤ 4095 ∧ 500 ≤ plain.span ∧ plain.span ≤ 20000
      ∧ -5000 ≤ plain.datum ∧ plain.datum ≤ 30000
      ∧ (Part.initial.reaches.get .c2).cls.ordered = false
      ∧ inService.settings.reach.get .c2 = some plain ∧ (inService.reaches.get .c2).cls.ordered = true
      ∧ (inService.reaches.get .c2).window = [1000, 1000, 1000, 1000] := by decide

/-- A gate between two levels with its tolerance, and one beside a reach without a level. -/
theorem witness_compares :
    (Part.initial.reaches.get Gate.g0.above).cls.ordered = false
      ∧ Part.initial.compare .g0 = .unordered .limited
      ∧ inService.settings.flight = some flightGroup ∧ inService.level Gate.g3.above = some 500
      ∧ inService.level Gate.g3.below = some 500 ∧ 0 ≤ flightGroup.tolerance.get .g3 := by decide

/-- Every group SET, with each chamber EMPTY, one FULL and one UNKNOWN; and a convoy of equal draughts that is passable. -/
theorem witness_chambers :
    (∀ r, inService.settings.reach.get r ≠ none) ∧ inService.chamberState .c1 = .empty
      ∧ inService.chamberState .c2 = .empty ∧ inService.chamberState .c3 = .empty
      ∧ (withReach (settled 2030)).chamberState .c2 = .full ∧ (withReach (settled 1500)).chamberState .c2 = .part
      ∧ (withReach { settled 1000 with cls := .stale }).chamberState .c2 = .unknown
      ∧ vessel 612 0x53 .up .pleasure 113 false ∈ convoy142 ∧ (∀ w ∈ convoy142, w.draught ≤ 1600)
      ∧ inService.passable convoy142 = true :=
  ⟨fun r => by cases r <;> decide, by decide⟩

/-- A FLIGHT group in force, the flight NAVIGABLE and ready but for NAV-INHIBIT. -/
theorem witness_flood :
    inService.settings.flight = some flightGroup ∧ inService.flood = .navigable
      ∧ ({ inService with navInhibit := false } : Part).formReadiness = true := by decide

/-- C2 isolated, VALID and SET at REST, with its drift limit; a level at each end of its range; and each refusal. -/
theorem witness_capture :
    inService.mode = .rest ∧ inService.navInhibit = true ∧ inService.settings.reach.get .c2 = some plain
      ∧ (inService.reaches.get .c2).cls.ordered = true ∧ (inService.reaches.get .c2).previousRaw = some 1000
      ∧ (-5000 : Int) ≤ -5000 ∧ (30000 : Int) ≤ 30000 ∧ 500 ≤ plain.span
      ∧ Reach.c2.chamber = some .c2 ∧ inService.isolated .c2 = true ∧ plain.drift = some 60
      ∧ busy.mode ≠ .rest ∧ (4 : Nat) < 5 ∧ (-5001 : Int) < -5000 ∧ (30000 : Int) < 30001
      ∧ Reach.c2.index = 2 ∧ ((withReach { settled 1000 with cls := .broken }).reaches.get .c2).cls.ordered = false
      ∧ { inService with settings := Settings.unset }.settings.reach.get .c2 = none := by decide

/-- A flight that stands by in each of its three ways, with a gate off both limits, at one and at the other. -/
theorem witness_limit_inputs :
    Part.initial.StandsBy ∧ inService.StandsBy
      ∧ (halted ⟨.close .g3, .entry⟩ ⟨.commit, .commit⟩ .travel).StandsBy
      ∧ travelling.atClosed = false ∧ travelling.atOpen = false
      ∧ shut.atClosed = true ∧ shut.atOpen = false ∧ stoodOpen.atOpen = true ∧ stoodOpen.atClosed = false :=
  ⟨Or.inl rfl, Or.inr (Or.inr ⟨rfl, rfl⟩), Or.inr (Or.inl rfl), by decide⟩

/-- A gate that closes under its CLOSE step, and one that opens under its OPEN step, each with a step after. -/
theorem witness_arrivals :
    (let p := { working ⟨.close .g3, .entry⟩ ⟨.commit, .commit⟩ .travel with
        gates := { inService.gates with g3 := closingGate } }
     let l := lockage142 [⟨.close .g3, .entry⟩, ⟨.commit, .commit⟩] 1 .travel
     p.mode = .working ∧ p.lockage = some l ∧ l.plan[l.current]? = some ⟨.commit, .commit⟩
       ∧ p.gates.g3.commander = .sequencer ∧ p.gates.g3.atClosed = false ∧ p.gates.g3.atOpen = false
       ∧ l.plan[l.current - 1]? = some ⟨.close .g3, .entry⟩ ∧ p.gates.g3.state = .closing)
      ∧ (let p := { working ⟨.openGate .g3, .entry⟩ ⟨.move .g3 .up, .entry⟩ .travel with
          gates := { inService.gates with g3 := travelling } }
         let l := lockage142 [⟨.openGate .g3, .entry⟩, ⟨.move .g3 .up, .entry⟩] 1 .travel
         p.mode = .working ∧ p.lockage = some l ∧ l.plan[l.current]? = some ⟨.move .g3 .up, .entry⟩
           ∧ p.gates.g3.commander = .sequencer ∧ p.gates.g3.atClosed = false ∧ p.gates.g3.atOpen = false
           ∧ l.plan[l.current - 1]? = some ⟨.openGate .g3, .entry⟩ ∧ l.stage = .travel
           ∧ p.gates.g3.state = .opening ∧ p.gates.g3.openPending = true) := by decide

/-- The last CLOSE of lockage 142 under way, with every outlet's depth and the tally as given. -/
def lastClose (ph : Phase) (depth interval : Nat) (tally : TallyState) : Part :=
  { inService with
    mode := .working, lockage := some (lockage142 [⟨.close .g0, ph⟩] 1 .travel)
    gates := { inService.gates with g0 := closingGate }
    outlets := { OutletUnit.initial.configure { outletsGroup with
      accountsDepth := depth, authorityDepth := depth, interval := interval } with tally := tally } }

/-- A lockage at its last step: no tally due; one due with no free slot left; one due, and one waiting, with a slot. -/
theorem witness_lockage_ends :
    (let p := lastClose .exit 2 0 .none
     let l := lockage142 [⟨.close .g0, .exit⟩] 1 .travel
     p.mode = .working ∧ p.navInhibit = true ∧ p.lockage = some l ∧ l.current = l.plan.length
       ∧ l.plan[l.current - 1]? = some ⟨.close .g0, .exit⟩ ∧ p.gates.g0.commander = .sequencer
       ∧ p.gates.g0.state = .closing ∧ p.gates.g0.atClosed = false ∧ p.gates.g0.atOpen = false
       ∧ p.outlets.tally = .none ∧ p.outlets.interval = 0)
      ∧ (let u := (lastClose .exit 1 1 .none).outlets
         u.tally = .none ∧ u.interval ≠ 0 ∧ u.interval ≤ min 65535 (u.counters.lockageRecords + 1)
           ∧ (u.outlets.get .b).enabled = true ∧ (u.outlets.get .b).depth ≤ (u.outlets.get .b).queue.length + 1)
      ∧ (let u := (lastClose .returning 2 1 .waiting).outlets
         u.tally = .waiting ∧ ∀ x, (u.outlets.get x).enabled = true →
           (u.outlets.get x).queue.length + 1 < (u.outlets.get x).depth) :=
  ⟨by decide, by decide, rfl, fun x => by cases x <;> decide⟩

/-- A working flight whose gate travels and whose sluice steps, its drives as their states call for; and each at rest. -/
def moving : Part :=
  { working ⟨.close .g3, .entry⟩ ⟨.commit, .commit⟩ .travel with
    gates := { inService.gates with g3 := closingGate }
    sluices := { inService.sluices with g0 := { SluiceRec.initial with step := some (.up, 1), stepTimer := some 0 } } }

theorem moving_drives : moving.DrivesMatch := by
  intro g; cases g <;> rfl

theorem witness_stopped_motion :
    inService.gates.g3.travelTimer = none ∧ inService.sluices.g0.stepTimer = none
      ∧ moving.gates.g3.travelTimer ≠ none ∧ moving.sluices.g0.stepTimer ≠ none ∧ moving.mode = .working
      ∧ moving.DrivesMatch
      ∧ (∀ m ∈ [Mode.startup, .halted, .rest], { moving with mode := m, lockage := none }.StandsBy)
      ∧ moving.sluices.g0.transfer = none
      ∧ (let r := { moving.sluices.g0 with position := 1, transfer := some ⟨.closing, none, 142⟩ }
         r.stepTimer ≠ none ∧ r.position ≠ 0)
      ∧ ({ moving with mode := .rest, navInhibit := false, lockage := none } : Part).mode = .rest :=
  ⟨rfl, rfl, by decide, by decide, rfl, moving_drives, by simp [Part.StandsBy, moving, working, inService], rfl,
    by decide, rfl⟩

/-- A paused gate whose tests hold, an opening one whose compare is ABOVE, and one whose reach is BROKEN. -/
theorem witness_paused_travel :
    (let p := { working ⟨.openGate .g3, .entry⟩ ⟨.move .g3 .up, .entry⟩ .travel with
        gates := { opening.gates with g3 := { travelling with state := .stopped, drive := .off } } }
     p.gates.g3.openPending = true ∧ p.mode ≠ .survey ∧ p.mode ≠ .rest ∧ p.gates.g3.state = .stopped
       ∧ (p.lockage.map (·.stage)) = some .travel ∧ p.compare .g3 = .level ∧ p.interlock .g3 = true)
      ∧ (let p := { working ⟨.openGate .g3, .entry⟩ ⟨.move .g3 .up, .entry⟩ .travel with
          gates := { opening.gates with g3 := travelling }, reaches := { opening.reaches with c3 := settled 900 } }
         p.gates.g3.openPending = true ∧ p.gates.g3.state = .opening ∧ p.compare .g3 = .above
           ∧ (p.lockage.map (·.stage)) = some .travel ∧ (p.compare .g3).isOrdered = true)
      ∧ (let p := { opening with
          gates := { opening.gates with g3 := travelling }
          reaches := { opening.reaches with c3 := { settled 500 with cls := .broken } } }
         p.mode = .working ∧ p.gates.g3.state = .opening ∧ p.compare .g3 = .unordered .broken
           ∧ p.responseOf (sensorFault .broken) = .halt) := by decide

/-- S0 with no step, with one in flight to each end, closing and held; and a ramping one a step below its cap. -/
theorem witness_feedback :
    inService.StandsBy ∧ (inService.sluices.get .g0).transfer = none ∧ (1 : Fin 16).val ≠ inService.sluices.g0.position
      ∧ (inService.sluices.get .g0).step = none ∧ (inService.sluices.get .g0).state ≠ .closing
      ∧ (let r := { SluiceRec.initial with position := 15, state := .closing, step := some (.down, 14) }
         r.step = some (.down, 14) ∧ (14 : Fin 16).val ≠ r.position ∧ (13 : Fin 16).val ≠ 14)
      ∧ (let p := rampingAt 3 .stepping false
         let q := { p with sluices := { p.sluices with g0 := { p.sluices.g0 with step := some (.up, 4) } } }
         q.mode = .working ∧ q.curStep = some ⟨.transfer .g0, .setting⟩
           ∧ (q.sluices.get .g0).transfer = some ⟨.ramping, some 1000, 142⟩
           ∧ (q.sluices.get .g0).step = some (.up, (4 : Fin 16).val) ∧ (4 : Fin 16).val ≠ q.sluices.g0.position
           ∧ (4 : Fin 16).val ≤ q.effectiveCap .g0 ∧ (q.sluices.get .g0).due = false)
      ∧ (let p := rampingAt 2 .stepping true
         let q := { p with sluices := { p.sluices with g0 := { p.sluices.g0 with step := some (.up, 3) } } }
         (q.sluices.get .g0).due = true ∧ (q.sluices.get .g0).step = some (.up, (3 : Fin 16).val)
           ∧ (3 : Fin 16).val < q.effectiveCap .g0 ∧ (q.compare .g0).isOrdered = true ∧ q.interlock .g0 = true) :=
  ⟨Or.inr (Or.inr ⟨rfl, rfl⟩), by decide⟩

theorem witness_ramp_gates (g : Gate) : ((rampingAt 3 .stepping false).gates.get g).openPending = false := by
  cases g <;> rfl

/-- A transfer in RAMPING above 0 whose reaches become LEVEL, stay ABOVE, or lose their level under HALT. -/
theorem witness_announcements :
    (let p := rampingAt 3 .held true
     p.mode = .working ∧ p.curStep = some ⟨.transfer .g0, .setting⟩ ∧ 0 < (p.sluices.get .g0).position
       ∧ (p.sluices.get .g0).transfer = some ⟨.ramping, some 1000, 142⟩ ∧ Reach.c1 = Gate.g0.below
       ∧ (after (.sampleArrival .c1 2001) p).compare .g0 = .above)
      ∧ (let p := { rampingAt 3 .held true with reaches := { inService.reaches with c1 := settled 2970 } }
         (after (.sampleArrival .c1 2970) p).compare .g0 = .level)
      ∧ (let p := { strict (rampingAt 3 .held true) with
          reaches := { inService.reaches with c1 := { settled 2000 with cls := .broken } } }
         (after (.sampleArrival .c1 2000) p).compare .g0 = .unordered .broken
           ∧ p.responseOf (sensorFault .broken) = .halt)
      ∧ (∀ g, ((rampingAt 3 .held true).gates.get g).drive = ((rampingAt 3 .held true).gates.get g).state.drive)
      ∧ ∀ j, j ≠ Gate.g0 → (rampingAt 3 .held true).ramping j = false :=
  ⟨by decide, by decide, by decide, fun g => by cases g <;> rfl, fun j h => by cases j <;> first | rfl | exact absurd rfl h⟩

/-- S0 one confirmation from the end of its transfer, in WORKING before a TRANSFER of the setting, and HALTED. -/
theorem witness_transfer_end :
    let ends := fun (p : Part) => { p with sluices := { p.sluices with g0 := { SluiceRec.initial with
      position := 1, state := .closing, step := some (.down, 0), transfer := some ⟨.closing, some 1000, 142⟩ } } }
    let p := ends (working ⟨.transfer .g0, .setting⟩ ⟨.transfer .g1, .setting⟩ .running)
    let l := lockage142 [⟨.transfer .g0, .setting⟩, ⟨.transfer .g1, .setting⟩] 1 .running
    p.lockage = some l ∧ (p.sluices.get .g0).transfer = some ⟨.closing, some 1000, 142⟩ ∧ l.number = 142
      ∧ (p.sluices.get .g0).waiting = none ∧ (p.sluices.get .g0).step = some (.down, 0)
      ∧ (p.sluices.get .g0).position ≠ 0 ∧ (p.sluices.get .g0).target = 0 ∧ (p.sluices.get .g0).state = .closing
      ∧ p.mode = .working ∧ l.plan[l.current - 1]? = some ⟨.transfer .g0, .setting⟩
      ∧ l.plan[l.current]? = some ⟨.transfer .g1, .setting⟩ ∧ Gate.g1 ≠ .g0 ∧ (p.sluices.get .g1).transfer = none
      ∧ p.compare .g1 = .above
      ∧ (ends (halted ⟨.transfer .g0, .setting⟩ ⟨.transfer .g1, .setting⟩ .running)).mode = .halted := by decide

/-- A due step with its interval run out, the interlock holding and broken. -/
theorem witness_due_steps :
    (let p := rampingAt 3 .held true
     (p.sluices.get .g0).transfer = some ⟨.ramping, some 1000, 142⟩ ∧ (p.sluices.get .g0).step = none
       ∧ (p.sluices.get .g0).position < p.effectiveCap .g0 ∧ (p.sluices.get .g0).due = true
       ∧ (p.compare .g0).isOrdered = true ∧ p.interlock .g0 = true)
      ∧ (let p := rampingAt 3 .held true
         ({ p with gates := { p.gates with g1 := stoodOpen } } : Part).interlock .g0 = false)
      ∧ (let p := rampingAt 3 .stepping false
         let q := { p with sluices := { p.sluices with g0 := { p.sluices.g0 with rampTimer := some 0 } } }
         (q.sluices.get .g0).rampTimer ≠ none) := by decide

/-- A transfer and a move with their timers running, under CONTINUE before and after a report, and under HALT. -/
theorem witness_timeouts :
    (let p := rampingAt 3 .held true
     p.mode = .working ∧ (p.sluices.get .g0).transfer = some ⟨.ramping, some 1000, 142⟩
       ∧ p.responseOf .transferTimeout = .continue_ ∧ p.responseOf .moveTimeout = .continue_
       ∧ p.faults.reported.contains .transferTimeout = false
       ∧ ({ p with faults := { p.faults with reported := [.transferTimeout] } } : Part).faults.reported.contains
          .transferTimeout = true
       ∧ (strict p).responseOf .transferTimeout = .halt ∧ (strict p).responseOf .moveTimeout = .halt)
      ∧ (∀ g, ((rampingAt 3 .held true).gates.get g).drive = ((rampingAt 3 .held true).gates.get g).state.drive)
      ∧ (let l := { lockage142 [⟨.move .g3 .up, .entry⟩] 1 .underWay with moveTimer := some 0 }
         l.moveTimer ≠ none ∧ (lockage142 [] 1 .travel).moveTimer = none) :=
  ⟨by decide, fun g => by cases g <;> rfl, by decide⟩

/-- A WORKS group, a sluice whose transfer ramps, one whose transfer closes, and one without. -/
theorem witness_trim :
    let p := rampingAt 4 .held true
    p.settings.works = some worksGroup ∧ (3 : Nat) < 4 ∧ (0 : Nat) = Gate.g0.index
      ∧ (2 : Int) ≠ 1 ∧ (2 : Int) ≠ -1 ∧ (p.sluices.get .g1).transfer = none ∧ (p.sluices.get .g0).transfer ≠ none
      ∧ p.ramping .g0 = true ∧ p.ramping .g1 = false := by decide

/-- A flight at REST and one at work, for the lamps; a second too late and the last one, for the clock. -/
theorem witness_lamps_and_clock :
    inService.mode = .rest ∧ busy.mode ≠ .rest ∧ busy.mode ≠ .survey ∧ 86399 < 86400 ∧ 86399 ≤ 86399 := by decide

/-- An armed lamp of the face whose move in hand asks PROCEED fails at the next refresh, under CONTINUE and under HALT;
and a part at work whose faces ask no PROCEED. -/
theorem witness_lamp_failed :
    (let p := { entering with lamps := setLamp entering.lamps ⟨.g3, .lower⟩ .green ⟨.lit, true, true, true, false⟩ }
     let q := after (.lampRefresh (lampMap fun _ _ => false)) p
     p.mode = .working ∧ p.curStep = some ⟨.move .g3 .up, .entry⟩
       ∧ (faceOf p.faces (faceServing .g3 .up)).requested = .proceed
       ∧ (lampOf q.lamps (faceServing .g3 .up) .green).failed = true
       ∧ (lampOf p.lamps (faceServing .g3 .up) .green).failed = false
       ∧ p.responseOf .lampFailed = .continue_ ∧ p.faults.reported.contains .lampFailed = false
       ∧ (strict p).responseOf .lampFailed = .halt)
      ∧ entering.DrivesMatch ∧ quietMode moving.mode ∧ ∀ f, (faceOf moving.faces f).requested ≠ .proceed :=
  ⟨by decide, fun g => by cases g <;> rfl, by unfold quietMode; decide,
    fun f => by obtain ⟨g, s⟩ := f; cases g <;> cases s <;> decide⟩

/-- E-STOP asserted already; negated while a flight works, is halted, starts up and rests. -/
theorem witness_inputs :
    ({ inService with eStop := true } : Part).eStop = true ∧ moving.eStop = false ∧ moving.mode = .working
      ∧ moving.DrivesMatch ∧ (halted ⟨.close .g3, .entry⟩ ⟨.commit, .commit⟩ .travel).mode = .halted
      ∧ Part.initial.mode = .startup ∧ inService.mode = .rest ∧ inService.navInhibit = true
      ∧ quietMode moving.mode :=
  ⟨rfl, rfl, rfl, moving_drives, rfl, rfl, rfl, rfl, by unfold quietMode; decide⟩

/-- The COMMIT step of a class C lockage with its window running and the carrying transfer of C3 after it; and none. -/
theorem witness_window :
    (let l := { lockage142 [⟨.commit, .commit⟩, ⟨.transfer .g2, .carrying⟩] 1 .waiting with windowTimer := some 0 }
     let p := { working ⟨.commit, .commit⟩ ⟨.transfer .g2, .carrying⟩ .waiting with lockage := some l }
     l.windowTimer ≠ none ∧ p.mode = .working ∧ l.cls = .c
       ∧ l.plan[l.current - 1]? = some ⟨.commit, .commit⟩ ∧ l.plan[l.current]? = some ⟨.transfer .g2, .carrying⟩
       ∧ (p.sluices.get .g2).transfer = none ∧ p.compare .g2 = .above)
      ∧ (lockage142 [] 1 .waiting).windowTimer = none := by decide

/-- The watchdog stopped and running, with the entry move AWAITING and with a step that does not wait. -/
theorem witness_watchdog :
    inService.link.watchdog = none
      ∧ (let p := working ⟨.move .g3 .up, .entry⟩ ⟨.close .g3, .entry⟩ .awaiting
         let q := { p with link := { p.link with watchdog := some 0 } }
         q.link.watchdog ≠ none ∧ q.mode = .working ∧ (q.lockage.map (·.stage)) = some .awaiting
           ∧ q.curStep = some ⟨.move .g3 .up, .entry⟩)
      ∧ (lockage142 [] 1 .travel).stage ≠ .awaiting := by decide

/-- A flight that has just become ready, with one waiting vessel and a turn table. -/
def justReady (ts : List TurnEntry) (c2 : ReachRec) : Part :=
  { inService with
    navInhibit := false, upQueue := [vessel 410 0x41 .up .dryCargo 300 false], calls := ⟨true, false, false, false⟩
    reaches := { inService.reaches with c2 := c2 }, settings := { inService.settings with turns := some ts } }

/-- Readiness from no to yes with each action, and with a plan and without one. -/
theorem witness_evaluation :
    (let p := justReady turnsGroup (settled 1000)
     p.turn.readiness = false ∧ p.recompute.turn.readiness = true ∧ p.recompute.turnEntry.action = .up
       ∧ ((p.recompute.buildPlan .up .c).map (·.head?)) = some (some ⟨.transfer .g0, .setting⟩))
      ∧ (let p := justReady turnsGroup { settled 1000 with cls := .limitedHigh }
         p.recompute.turn.readiness = true ∧ p.recompute.buildPlan .up .c = none)
      ∧ (justReady (List.replicate 32 ⟨.hold, .c⟩) (settled 1000)).recompute.turnEntry.action = .hold
      ∧ (justReady (List.replicate 32 ⟨.reject, .c⟩) (settled 1000)).recompute.turnEntry.action = .reject
      ∧ (justReady (List.replicate 32 ⟨.down, .c⟩) (settled 1000)).recompute.turnEntry.action = .down := by decide

/-- A queue whose first two vessels make a convoy and whose third is too long for it. -/
theorem witness_convoy :
    let p := { inService with upQueue := [vessel 410 0x41 .up .dryCargo 600 false,
      vessel 411 0x42 .up .dryCargo 480 false, vessel 412 0x43 .up .dryCargo 100 false] }
    p.settings.flight = some flightGroup
      ∧ (p.queueOf .up).head? = some (vessel 410 0x41 .up .dryCargo 600 false)
      ∧ (p.formConvoy .up).length = 2 := by decide

/-- An OPEN step in each of the cases of its tests. -/
theorem witness_open_step :
    (opening.mode = .working ∧ opening.curStep = some ⟨.openGate .g3, .entry⟩
        ∧ (opening.lockage.map (·.stage)) = some .level ∧ opening.compare .g3 = .level
        ∧ opening.gates.g3.state ≠ .open_ ∧ opening.gates.g3.state ≠ .opening
        ∧ opening.passable convoy142 = true ∧ opening.interlock .g3 = true)
      ∧ (let p := { opening with gates := { opening.gates with g2 := stoodOpen } }
         p.interlock .g3 = false ∧ p.compare .g3 = .level)
      ∧ (let p := { opening with reaches := { opening.reaches with c3 := settled 900 } }
         p.compare .g3 = .above ∧ (p.sluices.get .g3).transfer = none ∧ p.passable convoy142 = true)
      ∧ (let p := { opening with reaches := { opening.reaches with tail := settled 20 } }
         p.passable convoy142 = false)
      ∧ (let l := lockage142 [⟨.openGate .g0, .exit⟩] 1 .clearance
         l.stage = .clearance ∧ l.cls = .c ∧ l.exit ≠ .given)
      ∧ (let p := { opening with gates := { opening.gates with g3 := travelling } }
         p.compare .g3 = .level ∧ p.gates.g3.state = .opening)
      ∧ (let p := { opening with gates := { opening.gates with g3 := stoodOpen } }
         p.compare .g3 = .level ∧ p.gates.g3.state = .open_
           ∧ (p.lockage.bind fun l => l.plan[l.current]?) = some ⟨.move .g3 .up, .entry⟩)
      ∧ (let p := { opening with reaches := { opening.reaches with c3 := { settled 500 with cls := .stale } } }
         p.compare .g3 = .unordered .stale ∧ p.passable convoy142 = true
           ∧ p.responseOf .sensorStale = .continue_ ∧ p.faults.reported.contains .sensorStale = false
           ∧ (after .openStepEvaluate p).faults.reported.contains .sensorStale = true
           ∧ (after .openStepEvaluate p).compare .g3 = .unordered .stale
           ∧ (strict p).responseOf .sensorStale = .halt) := by decide

/-- And its drives are as their states call for, so that the halt an UNORDERED compare brings is stated in full. -/
theorem witness_open_step_halts : (strict opening).DrivesMatch ∧ (strict opening).mode = .working :=
  ⟨fun g => by cases g <;> rfl, rfl⟩

/-- Lockage 142 halted with both clearances awaited, before entry and before its exit. -/
theorem witness_stored_clearances :
    let p := halted ⟨.move .g3 .up, .entry⟩ ⟨.close .g3, .entry⟩ .awaiting
    let l := lockage142 [⟨.move .g3 .up, .entry⟩, ⟨.close .g3, .entry⟩] 1 .awaiting
    p.mode = .halted ∧ p.lockage = some l ∧ l.entry = .awaited ∧ l.exit = .awaited ∧ l.entryPassed = false
      ∧ (∀ x ∈ l.plan, x.phase ≠ .returning) ∧ l.exitBegun = false := by decide

/-- The entry move AWAITING in WORKING with its gate OPEN and its lamps whole. -/
theorem witness_entry_clearance :
    let p := { working ⟨.move .g3 .up, .entry⟩ ⟨.close .g3, .entry⟩ .awaiting with
      gates := { inService.gates with g3 := stoodOpen } }
    let l := lockage142 [⟨.move .g3 .up, .entry⟩, ⟨.close .g3, .entry⟩] 1 .awaiting
    p.mode = .working ∧ p.lockage = some l ∧ l.entry = .awaited ∧ l.stage = .awaiting
      ∧ p.curStep = some ⟨.move .g3 .up, .entry⟩ ∧ (p.gates.get .g3).state = .open_
      ∧ p.hasFailedLamp (faceServing .g3 .up) = false ∧ (faceOf p.faces (faceServing .g3 .up)).awaited = false
      ∧ l.entryPassed = false ∧ p.navInhibit = true := by decide

/-- The COMMIT step in WORKING with the exit awaited, a CLOSE before it, and the carrying TRANSFER after it. -/
theorem witness_exit_clearance :
    (let p := working ⟨.commit, .commit⟩ ⟨.transfer .g2, .carrying⟩ .waiting
     let l := lockage142 [⟨.commit, .commit⟩, ⟨.transfer .g2, .carrying⟩] 1 .waiting
     p.mode = .working ∧ p.lockage = some l ∧ (∀ x ∈ l.plan, x.phase ≠ .returning)
       ∧ l.plan[l.current - 1]? = some ⟨.commit, .commit⟩ ∧ l.plan[l.current]? = some ⟨.transfer .g2, .carrying⟩
       ∧ l.exit = .awaited ∧ l.commitment = some .open_ ∧ l.exitCommanded = false
       ∧ l.current ≤ l.plan.length ∧ 0 < l.current)
      ∧ (let l := { lockage142 [⟨.transfer .g2, .carrying⟩] 1 .running with commitment := some .passed }
         l.plan[l.current - 1]? = some ⟨.transfer .g2, .carrying⟩ ∧ l.exit ≠ .notNeeded ∧ l.exit ≠ .refused
           ∧ l.exitCommanded = false ∧ l.commitment = some .passed ∧ ∀ x ∈ l.plan, x.phase ≠ .returning)
      ∧ (let p := working ⟨.close .g3, .entry⟩ ⟨.commit, .commit⟩ .travel
         let l := lockage142 [⟨.close .g3, .entry⟩, ⟨.commit, .commit⟩] 1 .travel
         p.mode = .working ∧ p.lockage = some l ∧ p.curStep = some ⟨.close .g3, .entry⟩
           ∧ (∀ g, Work.close .g3 ≠ .openGate g) ∧ Work.close .g3 ≠ .commit ∧ Phase.entry ≠ .exit
           ∧ l.exit = .awaited ∧ l.exitCommanded = false ∧ l.commitment = some .open_
           ∧ ∀ x ∈ l.plan, x.phase ≠ .returning) :=
  ⟨by decide, by decide, rfl, rfl, rfl, by simp, by decide, by decide, by decide, rfl, rfl, by decide⟩

/-- The exit OPEN in CLEARANCE with its exit awaited, its convoy passable over LEVEL water or not; and in each other
stage in which a refusal is late. -/
theorem witness_exit_open :
    (∀ st ∈ [Stage.clearance, .tide, .level, .levelling],
        (exiting st).mode = .working ∧ (exiting st).curStep = some ⟨.openGate .g0, .exit⟩
          ∧ ∃ l, (exiting st).lockage = some l ∧ l.stage = st ∧ l.cls = .c ∧ l.exit = .awaited
              ∧ l.exitCommanded = false ∧ l.commitment = some .passed ∧ (∀ x ∈ l.plan, x.phase ≠ .returning))
      ∧ (Stage.levelling ≠ .clearance ∧ Stage.levelling ≠ .tide ∧ Stage.levelling ≠ .level)
      ∧ (exiting .clearance).passable convoy142 = true ∧ (exiting .clearance).compare .g0 = .level
      ∧ (exiting .clearance).interlock .g0 = true ∧ (exiting .clearance).gates.g0.state = .closed
      ∧ (let p := exiting .clearance
         { p with reaches := { p.reaches with tail := settled 20 } }.passable convoy142 = false) := by
  refine ⟨fun st h => ?_, by decide, by decide, by decide, by decide, rfl, by decide⟩
  simp only [List.mem_cons, List.not_mem_nil, or_false] at h
  rcases h with rfl | rfl | rfl | rfl <;> exact ⟨rfl, rfl, _, rfl, rfl, rfl, rfl, rfl, rfl, by decide⟩

/-- No lockage; lockage 142 against another number; and one whose clearances are not needed, too late or returned. -/
theorem witness_refused_clearances :
    inService.lockage = none ∧ (lockage142 [] 1 .travel).number ≠ 143
      ∧ (newLockage 142 .up .a [] [] ⟨0, 0⟩).entry = .notNeeded ∧ (newLockage 142 .up .b [] [] ⟨0, 0⟩).exit = .notNeeded
      ∧ (let l := { lockage142 (returnSteps .up) 1 .awaiting with entryPassed := true }
         l.entry ≠ .notNeeded ∧ l.entryPassed = true ∧ l.exit ≠ .notNeeded
           ∧ (∃ x ∈ l.plan, x.phase = .returning) ∧ 2 ≠ l.current ∧ l.stage = .awaiting)
      ∧ (exitWaitsAgain.exit ≠ .notNeeded ∧ (∀ x ∈ exitWaitsAgain.plan, x.phase ≠ .returning)
           ∧ exitWaitsAgain.exitCommanded = true)
      ∧ ({ exitWaitsAgain with exitCommanded := false, stage := .travel } : Lockage).exitBegun = true
      ∧ ({ exitWaitsAgain with exitCommanded := false, current := 2, stage := .underWay } : Lockage).exitBegun = true := by
  decide

/-- A move under way in WORKING with a step after it, and the same halted. -/
theorem witness_move_done :
    let x : PlanStep := ⟨.move .g3 .up, .entry⟩
    let y : PlanStep := ⟨.close .g3, .entry⟩
    let l := lockage142 [x, y] 1 .underWay
    (working x y .underWay).lockage = some l ∧ (working x y .underWay).curStep = some x ∧ l.stage ≠ .awaiting
      ∧ (working x y .underWay).mode = .working ∧ l.plan[l.current]? = some y
      ∧ (halted x y .underWay).mode = .halted ∧ (halted x y .underWay).lockage = some l
      ∧ (halted x y .underWay).curStep = some x := by decide

/-- HALT in each mode it tells apart. -/
theorem witness_halt :
    (halted ⟨.close .g3, .entry⟩ ⟨.commit, .commit⟩ .travel).mode = .halted ∧ moving.mode = .working
      ∧ moving.DrivesMatch ∧ Part.initial.mode = .startup ∧ inService.mode = .rest ∧ inService.navInhibit = true :=
  ⟨rfl, rfl, moving_drives, rfl, rfl, rfl⟩

/-- A flight halted out of a survey, one reach without a level. -/
def surveyHalt : Part :=
  { inService with
    mode := .halted, reaches := { inService.reaches with c2 := ReachRec.reset }
    faults := { halt := some ⟨.operatorHalt, .flight, .survey, none, none, none⟩, reported := [] } }

/-- Not halted; halted under E-STOP; out of a survey; and at a CLOSE step whose gate is not CLOSED. -/
theorem witness_resume :
    inService.mode ≠ .halted ∧ surveyHalt.mode = .halted
      ∧ ({ surveyHalt with eStop := true } : Part).eStop = true ∧ surveyHalt.eStop = false
      ∧ (∀ g, ¬ ((surveyHalt.gates.get g).atClosed = true ∧ (surveyHalt.gates.get g).atOpen = true))
      ∧ surveyHalt.curStep = none ∧ surveyHalt.lockage = none ∧ (surveyHalt.reaches.get .c2).cls.ordered = false
      ∧ (let p := { halted ⟨.close .g3, .entry⟩ ⟨.commit, .commit⟩ .travel with
          gates := { inService.gates with g3 := { closingGate with state := .stopped, drive := .off } } }
         let l := lockage142 [⟨.close .g3, .entry⟩, ⟨.commit, .commit⟩] 1 .travel
         p.mode = .halted ∧ p.eStop = false ∧ p.lockage = some l ∧ p.curStep = some ⟨.close .g3, .entry⟩
           ∧ l.plan[l.current - 1]? = some ⟨.close .g3, .entry⟩ ∧ (p.gates.get .g3).state ≠ .closed
           ∧ l.entry ≠ .refused ∧ l.entryPassed = false) :=
  ⟨by decide, rfl, rfl, rfl, fun g => by cases g <;> decide, rfl, rfl, by decide, by decide⟩

/-- A halted flight that is not still faulted, with the lockage, sluices and gates as given. -/
def haltedAt (l : Lockage) (k : Gate) (r : SluiceRec) (g : Gate) (x : GateRec) : Part :=
  { halted ⟨.commit, .commit⟩ ⟨.commit, .commit⟩ .waiting with
    lockage := some l, sluices := inService.sluices.set k r, gates := inService.gates.set g x }

/-- R124: a re-level that the halt stopped starts anew; over LEVEL water at 0 it ends at once, and the gate opens. -/
theorem test_resume_relevel :
    let at1 := fun (g : Gate) => lockage142 [⟨.openGate g, .prepare⟩, ⟨.move .g3 .up, .entry⟩] 1 .levelling
    let q := after (.resume 5) (haltedAt (at1 .g0) .g0 SluiceRec.initial .g3 shut)
    let r := after (.resume 5) (haltedAt (at1 .g3) .g3 SluiceRec.initial .g3 shut)
    q.ramping .g0 = true ∧ q.sluices.g0.step = some (.up, 1) ∧ (q.lockage.map (·.stage)) = some .levelling
      ∧ r.sluices.g3.transfer = none ∧ r.gates.g3.drive = .openDrive ∧ (r.lockage.map (·.stage)) = some .travel := by
  decide

/-- R97, R108, R124: an exit OPEN commanded open keeps that through a RESUME that finds the tide fallen. -/
theorem test_resume_exit_waits_again :
    let ready := { lockage142 [⟨.openGate .g3, .exit⟩, ⟨.move .g3 .up, .exit⟩] 1 .level with exit := .given }
    let q := after .openStepEvaluate { opening with lockage := some ready }
    let p := haltedAt { ready with stage := .travel, exitCommanded := true } .g0 SluiceRec.initial .g3 shut
    let r := after (.resume 5) { p with reaches := { p.reaches with tail := settled 20 } }
    (q.lockage.map fun l => (l.stage, l.exitCommanded)) = some (.travel, true)
      ∧ (r.lockage.map fun l => (l.stage, l.exitCommanded)) = some (.tide, true) := by decide

/-- Nothing of R123's list holds of such a flight, whose readings are VALID and whose faces are at STOP. -/
theorem witness_resume_ready (l : Lockage) (k g : Gate) (r : SluiceRec) :
    let p := haltedAt l k r g stoodOpen
    p.mode = .halted ∧ p.eStop = false ∧ (∀ f, (faceOf p.faces f).requested = .stop)
      ∧ (∀ h, ¬ ((p.gates.get h).atClosed = true ∧ (p.gates.get h).atOpen = true))
      ∧ (∀ h : Gate, (p.reaches.get h.above).cls ≠ .broken ∧ (p.reaches.get h.below).cls ≠ .broken) := by
  have faces : ∀ f, (faceOf inService.faces f).requested = .stop := by
    rintro ⟨g, s⟩; cases g <;> cases s <;> decide
  have readings : ∀ h : Gate, (inService.reaches.get h.above).cls ≠ .broken
      ∧ (inService.reaches.get h.below).cls ≠ .broken := by intro h; cases h <;> decide
  refine ⟨rfl, rfl, faces, ?_, readings⟩
  intro h; cases g <;> cases h <;> simp [haltedAt, halted, working, inService, Four.set, Four.get, stoodOpen, shut,
    GateRec.initial]

/-- An OPEN step halted in LEVELLING: its re-level still CLOSING, gone with the compare ABOVE, and gone over LEVEL
water above 0 and at 0. -/
theorem witness_resume_relevel :
    let at1 := fun (g : Gate) (ph : Phase) => lockage142 [⟨.openGate g, ph⟩, ⟨.move .g3 .up, .entry⟩] 1 .levelling
    let closingS := { SluiceRec.initial with position := 1, state := .closing, step := some (.down, 0)
                                             transfer := some ⟨.closing, some 9, 142⟩ }
    (let p := haltedAt (at1 .g0 .prepare) .g0 closingS .g3 stoodOpen
     p.curStep = some ⟨.openGate .g0, .prepare⟩ ∧ (p.sluices.get .g0).transfer = some ⟨.closing, some 9, 142⟩
       ∧ (p.lockage.map (·.stage)) = some .levelling ∧ 0 < (p.sluices.get .g0).position)
      ∧ (let p := haltedAt (at1 .g0 .prepare) .g0 { closingS with transfer := none } .g3 stoodOpen
         (p.sluices.get .g0).transfer = none ∧ p.compare .g0 = .above ∧ (p.sluices.get .g0).step = some (.down, 0))
      ∧ (let p := haltedAt (at1 .g3 .entry) .g3 { closingS with transfer := none } .g3 shut
         (p.sluices.get .g3).transfer = none ∧ p.compare .g3 = .level ∧ 0 < (p.sluices.get .g3).position)
      ∧ (let p := haltedAt (at1 .g3 .entry) .g3 SluiceRec.initial .g3 shut
         (p.sluices.get .g3).position = 0 ∧ (p.sluices.get .g3).step = none ∧ (p.gates.get .g3).state = .closed
           ∧ p.compare .g3 = .level ∧ p.interlock .g3 = true ∧ p.passable convoy142 = true) := by decide

/-- Each step at which a halted lockage is taken up again, and the refusal that withdraws it. -/
theorem witness_resume_steps :
    let at1 := fun (x y : PlanStep) (s : Stage) => lockage142 [x, y] 1 s
    let closingS := { SluiceRec.initial with position := 1, state := .closing, step := some (.down, 0)
                                             transfer := some ⟨.closing, some 9, 142⟩ }
    (let p := haltedAt { at1 ⟨.move .g3 .up, .entry⟩ ⟨.close .g3, .entry⟩ .awaiting with entry := .refused } .g0
        SluiceRec.initial .g3 stoodOpen
     (p.lockage.map (·.entry)) = some .refused ∧ (p.lockage.map (·.entryPassed)) = some false
       ∧ p.curStep = some ⟨.move .g3 .up, .entry⟩ ∧ p.navInhibit = true)
      ∧ (let p := haltedAt (at1 ⟨.transfer .g0, .setting⟩ ⟨.transfer .g1, .setting⟩ .running) .g0 closingS .g3 stoodOpen
         p.curStep = some ⟨.transfer .g0, .setting⟩ ∧ (p.sluices.get .g0).transfer = some ⟨.closing, some 9, 142⟩
           ∧ (p.sluices.get .g0).state = .closing ∧ 0 < (p.sluices.get .g0).position
           ∧ (p.sluices.get .g1).transfer = none ∧ p.compare .g1 = .above ∧ p.compare .g0 = .above)
      ∧ (let p := haltedAt (at1 ⟨.openGate .g3, .entry⟩ ⟨.move .g3 .up, .entry⟩ .travel) .g0 SluiceRec.initial .g3
          { travelling with state := .stopped, drive := .off }
         p.curStep = some ⟨.openGate .g3, .entry⟩ ∧ (p.sluices.get .g3).transfer = none ∧ p.passable convoy142 = true
           ∧ p.compare .g3 = .level ∧ p.interlock .g3 = true ∧ (p.gates.get .g3).state = .stopped
           ∧ { p with reaches := { p.reaches with tail := settled 20 } }.passable convoy142 = false)
      ∧ (let l := { lockage142 [⟨.openGate .g3, .entry⟩, ⟨.move .g3 .up, .entry⟩, ⟨.close .g3, .entry⟩] 2 .underWay with
          moveDone := true }
         l.plan[l.current - 1]? = some ⟨.move .g3 .up, .entry⟩ ∧ l.plan[l.current]? = some ⟨.close .g3, .entry⟩
           ∧ 2 ≤ l.current ∧ l.plan[l.current - 2]? = some ⟨.openGate .g3, .entry⟩ ∧ shut.state ≠ .open_)
      ∧ (let p := haltedAt (at1 ⟨.move .g3 .up, .entry⟩ ⟨.close .g3, .entry⟩ .awaiting) .g0 SluiceRec.initial .g3 stoodOpen
         p.curStep = some ⟨.move .g3 .up, .entry⟩ ∧ (p.gates.get .g3).state = .open_ ∧ p.link.lost = false
           ∧ (p.lockage.map (·.entry)) = some .awaited ∧ (p.lockage.map (·.moveDone)) = some false
           ∧ p.hasFailedLamp (faceServing .g3 .up) = false ∧ (faceOf p.faces (faceServing .g3 .up)).awaited = false
           ∧ ({ at1 ⟨.move .g3 .up, .entry⟩ ⟨.close .g3, .entry⟩ .underWay with entry := .given } : Lockage).entry
             ≠ .awaited)
      ∧ (let l := at1 ⟨.commit, .commit⟩ ⟨.transfer .g2, .carrying⟩ .waiting
         l.plan[l.current - 1]? = some ⟨.commit, .commit⟩ ∧ l.plan[l.current]? = some ⟨.transfer .g2, .carrying⟩
           ∧ l.exit ≠ .given ∧ l.exit ≠ .refused ∧ ({ l with exit := .given } : Lockage).exit = .given
           ∧ ({ l with exit := .refused } : Lockage).exit = .refused) := by decide

/-- A lockage halted before and after entry at NAV-INHIBIT, its entry gate not CLOSED; and a survey halt. -/
theorem witness_abandon :
    inService.mode ≠ .halted
      ∧ (let p := { halted ⟨.openGate .g3, .entry⟩ ⟨.move .g3 .up, .entry⟩ .travel with
          gates := { inService.gates with g3 := stoodOpen } }
         let l := lockage142 [⟨.openGate .g3, .entry⟩, ⟨.move .g3 .up, .entry⟩] 1 .travel
         p.mode = .halted ∧ p.lockage = some l ∧ p.navInhibit = true ∧ l.entryPassed = false
           ∧ (p.gates.get l.direction.entryGate).state ≠ .closed ∧ { l with entryPassed := true }.entryPassed = true
           ∧ (p.outlets.outlets.get .a).enabled = true)
      ∧ surveyHalt.mode = .halted ∧ surveyHalt.lockage = none ∧ surveyHalt.eStop = false
      ∧ (surveyHalt.reaches.get .c2).cls.ordered = false := by decide

/-- STARTUP incomplete, and complete with a reach without a level; a survey that is done and one that is not. -/
theorem witness_start :
    inService.mode ≠ .startup ∧ Part.initial.mode = .startup ∧ Part.initial.settings.flight = none
      ∧ (let p := { surveyHalt with mode := .startup }
         p.complete = true ∧ p.eStop = false ∧ (p.reaches.get .c2).cls.ordered = false)
      ∧ ({ inService with mode := .survey } : Part).mode = .survey
      ∧ (∀ r, (inService.reaches.get r).cls.ordered = true)
      ∧ (∀ g, (inService.gates.get g).state = .closed ∨ (inService.gates.get g).state = .open_)
      ∧ (∀ k, (inService.sluices.get k).state = .closed ∧ (inService.sluices.get k).position = 0)
      ∧ ¬ (surveyHalt.reaches.get .c2).cls.ordered = true
      ∧ Face.isApproach ⟨.g3, .lower⟩ = true ∧ (faceOf inService.faces ⟨.g3, .lower⟩).requested = .stop :=
  ⟨by decide, rfl, rfl, by decide, rfl, fun r => by cases r <;> decide, fun g => by cases g <;> decide,
    fun k => by cases k <;> decide, by decide, by decide, by decide⟩

/-- A REGISTER that passes each test, its length at the usable length, its draught at either end. -/
theorem witness_register :
    let v := request [0x41] 0 1100
    busy.mode = .working ∧ busy.hullInUse v.hull = false ∧ (busy.queueOf .up).length + busy.reserved .up < 12
      ∧ Direction.ofCode v.direction = some .up ∧ VesselClass.ofCode v.cls = some .dryCargo
      ∧ AccountKind.ofCode v.accountKind = some .account ∧ hullOk v.hull = true ∧ 300 ≤ (300 : Nat)
      ∧ v.draught ≤ 5000 ∧ (5000 : Nat) ≤ 5000 ∧ accountOk .account v.accountNumber = true
      ∧ max 50 v.length ≤ busy.usableLength ∧ 1 ≤ busy.nextTicket ∧ busy.nextTicket ≤ 65535
      ∧ busy.registered.length < 65535 ∧ (∀ y ∈ busy.registered, y.ticket ≠ busy.nextTicket)
      ∧ inService.mode = .rest ∧ inService.navInhibit = true ∧ inService.hullInUse v.hull = false
      ∧ (inService.queueOf .up).length + inService.reserved .up < 12
      ∧ max 50 v.length ≤ inService.usableLength := by decide

/-- A queue of twelve. -/
def fullQueue : Part :=
  { busy with upQueue := (List.range 12).map fun i => vessel (800 + i) (BitVec.ofNat 8 (0x41 + i)) .up .tanker 100 true }

/-- A REGISTER that fails each test in turn. -/
theorem witness_register_refusals :
    inService.mode = .rest ∧ Part.initial.mode = .startup ∧ busy.hullInUse [0x44] = true
      ∧ busy.hullInUse [0x4E] = false ∧ (fullQueue.queueOf .up).length = 12 ∧ fullQueue.hullInUse [0x4E] = false
      ∧ (busy.queueOf .up).length + busy.reserved .up < 12
      ∧ hullOk [0x4E] = true ∧ ¬ (299 : Nat) ≥ 300 ∧ busy.usableLength < max 50 1101 := by decide

/-- A ticket in the convoy, one in no use, and one behind another in the UP queue. -/
theorem witness_cancel :
    (∃ v ∈ busy.convoy, v.ticket = 611) ∧ (∀ v ∈ busy.registered, v.ticket ≠ 999)
      ∧ busy.mode ≠ .survey ∧ busy.mode ≠ .rest ∧ (∀ w ∈ busy.convoy, w.ticket ≠ 702)
      ∧ (busy.queueOf .up).map (·.ticket) = [701] ++ 702 :: []
      ∧ (let p := { busy with mode := .survey, lockage := none }
         p.navInhibit = true ∧ p.convoy = [] ∧ (p.queueOf .up).map (·.ticket) = [701] ++ 702 :: [])
      ∧ (let p := { busy with mode := .rest, lockage := none }
         p.mode = .rest ∧ p.navInhibit = true ∧ p.convoy = []) := by decide

/-- No tally, a tally outstanding, and one pending with every slot free and with a full outlet. -/
theorem witness_tallies :
    busy.outlets.tally = .none ∧ busy.mode = .working ∧ TallyState.outstanding 1 ≠ .none
      ∧ (∀ x, (inService.outlets.outlets.get x).enabled = true →
          (inService.outlets.outlets.get x).queue.length < (inService.outlets.outlets.get x).depth)
      ∧ (let r : Record := ⟨301, .tally ⟨17, false, true, false, Counters.zero⟩⟩
         let o : Outlet := ⟨true, 1, [r], .offered⟩
         o.enabled = true ∧ o.depth ≤ o.queue.length) :=
  ⟨rfl, rfl, by decide, fun x => by cases x <;> decide, by decide⟩

/-- FORCE_TALLY where no lockage is current, with a free slot in every enabled outlet and without one. -/
theorem witness_tally_at_once :
    surveyHalt.outlets.tally = .none ∧ surveyHalt.mode = .halted ∧ surveyHalt.lockage = none ∧ inService.mode = .rest
      ∧ inService.outlets.tally = .none ∧ inService.outlets.Room
      ∧ (let r : Record := ⟨301, .tally ⟨17, false, true, false, Counters.zero⟩⟩
         let u := { inService.outlets with
           outlets := { inService.outlets.outlets with b := ⟨true, 1, [r], .offered⟩ } }
         ¬ u.Room ∧ ({ u with tally := .pending true false } : OutletUnit).tally = .pending true false) :=
  ⟨rfl, rfl, rfl, rfl, rfl, fun x => by cases x <;> decide, fun h => absurd (h .b) (by decide), rfl⟩

/-- An outlet with a record at its head, one record behind it or none, in a mode that neither turns nor surveys. -/
theorem witness_taken :
    let r : Record := ⟨301, .tally ⟨17, false, true, false, Counters.zero⟩⟩
    let o : Outlet := ⟨true, 2, [r, { r with sequence := 302 }], .offered⟩
    o.queue = r :: [{ r with sequence := 302 }] ∧ r.sequence = 301 ∧ 302 ≠ r.sequence
      ∧ busy.outlets.tally = .none ∧ busy.mode ≠ .survey ∧ busy.mode ≠ .rest ∧ Port.b ≠ .a := by decide

/-- The head taken while a tally stands behind it, while it is the tally, and while one waits for its slot. -/
theorem witness_taken_tallies :
    let r : Record := ⟨301, .tally ⟨17, false, true, false, Counters.zero⟩⟩
    let two : Outlet := ⟨true, 2, [r, { r with sequence := 302 }], .offered⟩
    let u := { inService.outlets with outlets := { inService.outlets.outlets with a := two } }
    let freed := { u with outlets := u.outlets.set .a { two with queue := [{ r with sequence := 302 }] } }
    (∃ y, (freed.outlets.get y).enabled = true ∧ ∃ z ∈ (freed.outlets.get y).queue, z.sequence = 302)
      ∧ (¬ ∃ y, (freed.outlets.get y).enabled = true ∧ ∃ z ∈ (freed.outlets.get y).queue, z.sequence = 301)
      ∧ freed.Room ∧ ¬ u.Room
      ∧ quietMode ({ surveyHalt with outlets := { u with tally := .outstanding 301 } } : Part).mode :=
  ⟨⟨.a, by decide⟩, fun ⟨y, h⟩ => by cases y <;> revert h <;> decide, fun x => by cases x <;> decide,
    fun h => absurd (h .a) (by decide), by unfold quietMode; decide⟩

/-- A TARIFF in force and the convoy of lockage 142, and a draw for a lockage that has ended. -/
theorem witness_water :
    inService.settings.tariff = some tariffGroup ∧ LockageOutcome.completedLate ≠ .withdrawn
      ∧ (∀ v ∈ convoy142, 0 < v.length) ∧ (∃ v ∈ convoy142, (tariffGroup.classes.get v.cls).exempt = false)
      ∧ (lockage142 [] 1 .travel).number ≠ 141
      ∧ tariffGroup.returnPercent ≤ 100 ∧ (tariffGroup.classes.get .dryCargo).base ≤ 65535
      ∧ (tariffGroup.classes.get .authority).exempt = true
      ∧ (let r := inService.tollRecord (lockage142 [] 1 .travel) .completed
         (lockage142 [] 1 .travel).convoy[0]? = convoy142.head? ∧ (r.lines[0]?.map (·.ticket)) = some 611) := by decide

/-- A TRANSFER and an OPEN step stand in a plan. -/
theorem witness_plans :
    let plan := (planFrom ⟨.empty, .empty, .empty, ⟨false, false, false, false⟩⟩ .up .c).steps
    (plan[0]?.map (·.work)) = some (.transfer .g0) ∧ (plan[3]?.map (·.work)) = some (.openGate .g3)
      ∧ plan.length = 19 := by decide

/-- Loads in the modes that take them and in one that does not; a reach index of 5; each outlet empty. -/
theorem witness_loads :
    busy.mode ≠ .startup ∧ busy.mode ≠ .rest ∧ inService.mode = .rest ∧ inService.navInhibit = true
      ∧ Part.initial.mode = .startup ∧ (4 : Nat) < 5 ∧ (TallyState.outstanding 3).inTheWay = true
      ∧ inService.outlets.tally.inTheWay = false ∧ (∀ x, (inService.outlets.outlets.get x).queue = [])
      ∧ (0 : Int) ≤ 0 ∧ (∃ v, Instr.loadFlight 1 v = .loadFlight 1 v) :=
  ⟨by decide, by decide, rfl, rfl, rfl, by decide, rfl, rfl, fun x => by cases x <;> rfl, by decide,
    ⟨{ usableLength := 0, convoyMaximum := 0, vesselGap := 0, n1 := 0, n2 := 0, headSill := 0, tailSill := 0
       keelClearance := 0, headFlood := 0, tailFlood := 0, tolerance := ⟨0, 0, 0, 0⟩ }, rfl⟩⟩

/-- An OUTLETS load by each of R146's tests, and by none of them. -/
theorem witness_outlet_busy :
    let r : Record := ⟨301, .tally ⟨17, false, true, false, Counters.zero⟩⟩
    let u := inService.outlets
    let b := { u with outlets := { u.outlets with b := ⟨true, 1, [r], .offered⟩ } }
    (false ≠ b.outlets.b.enabled ∧ b.outlets.b.queue ≠ []) ∧ (2 ≠ b.outlets.b.depth ∧ b.outlets.b.queue ≠ [])
      ∧ ({ u with tally := .outstanding 3 } : OutletUnit).tally = .outstanding 3
      ∧ (let c := { u with counters := { u.counters with lockageRecords := 2 } }
         2 ≠ 0 ∧ 2 ≤ c.counters.lockageRecords ∧ ¬ 3 ≤ c.counters.lockageRecords)
      ∧ u.outlets.a.queue = [] ∧ u.outlets.b.queue = [] ∧ u.outlets.c.queue = [] ∧ u.tally = .none
      ∧ ¬ 1 ≤ u.counters.lockageRecords := by decide

/-- A part, and field inputs, without E-STOP and without a double limit. -/
theorem witness_resets :
    inService.eStop = false ∧ inService.outlets.tally = .none ∧ inService.complete = true
      ∧ (∀ g, ¬ ((inService.gates.get g).atClosed = true ∧ (inService.gates.get g).atOpen = true))
      ∧ (∀ g, ¬ ((⟨true, false, false, false⟩ : Four Bool).get g = true
          ∧ (⟨false, true, false, false⟩ : Four Bool).get g = true)) :=
  ⟨rfl, rfl, by decide, fun g => by cases g <;> decide, fun g => by cases g <;> decide⟩

/-- A restart that loses a lockage on which a FORCE_TALLY waited, with every slot free and with a full outlet. -/
theorem witness_restart_tally :
    (let p := { halted ⟨.close .g3, .entry⟩ ⟨.commit, .commit⟩ .travel with
        outlets := { inService.outlets with tally := .waiting } }
     p.lockage.isSome = true ∧ p.outlets.tally = .waiting ∧ p.outlets.Room ∧ p.eStop = false ∧ p.complete = true)
      ∧ (let r : Record := ⟨301, .tally ⟨17, false, true, false, Counters.zero⟩⟩
         ¬ ({ inService.outlets with
           outlets := { inService.outlets.outlets with b := ⟨true, 1, [r], .offered⟩ } } : OutletUnit).Room)
      ∧ inService.outlets.tally = .none ∧ shut.atClosed = true ∧ closingGate.atClosed = false
      ∧ closingGate.atOpen = false :=
  ⟨⟨rfl, rfl, fun x => by cases x <;> decide, rfl, by decide⟩, fun h => absurd (h .b) (by decide), rfl, rfl, rfl, rfl⟩

/-- A condition record with a critical entry of each kind, and one with none; in SURVEY and in WORKING, with a
lockage and without one. -/
theorem witness_queries :
    ({ Conditions.empty with restarted := some .keep } : Conditions).restarted ≠ none
      ∧ 0 < ({ Conditions.empty with badMessage := 1 } : Conditions).badMessage
      ∧ inService.link.conditions.restarted = none ∧ inService.link.conditions.badMessage = 0
      ∧ inService.link.conditions.linkLost = false ∧ inService.link.conditions.fault = none
      ∧ ({ inService with mode := .survey } : Part).mode = .survey ∧ busy.mode ≠ .survey
      ∧ busy.lockage.isSome = true ∧ inService.lockage = none := by decide

/-- A receiver hunting, at its LEN, inside a frame, at its last byte with a failed check, and past its gap. -/
theorem witness_receiver :
    inService.link.receivers.get .b = .hunting ∧ (0xA5#8).toNat ≠ 0 ∧ (50 : Nat) ≤ 50 ∧ (50 : Nat) < 51
      ∧ (0x10#8 : Byte) ≠ 0xA5#8
      ∧ ([0x10#8, 7#8] : List Byte).length + 1 < 2 + 2 ∧ ([0x10#8, 7#8, 0#8] : List Byte).length + 1 = 2 + 2
      ∧ frameOk 2 ([0x10#8, 7#8, 0#8] ++ [0#8]) = false := by decide +kernel

/-- A frame of KIND 0x10 and TAG 7 without a body, its check CRC-16 of 02 10 07, a byte before its end. -/
theorem witness_valid_frame :
    let check := bytesOf 2 (crc16 [2#8, 0x10#8, 7#8]).toNat
    let bytes := [0x10#8, 7#8] ++ check.take 1
    let b := check.getD 1 0
    inService.link.lost = false ∧ ({ inService.link with lost := true } : Link).lost = true
      ∧ inService.mode = .rest ∧ inService.navInhibit = true ∧ (bytes ++ [b]).length = ([] : List Byte).length + 4
      ∧ (bytes ++ [b]).take (([] : List Byte).length + 2) = 0x10#8 :: 7#8 :: []
      ∧ frameOk (([] : List Byte).length + 2) (bytes ++ [b]) = true
      ∧ ({ inService.link with receivers := ⟨.inFrame (some 2) bytes 50, .hunting, .hunting⟩ } : Link).receivers.get .a
        = .inFrame (some (([] : List Byte).length + 2)) bytes 50 := by decide +kernel

/-- A request without fields, and hull marks of no character and of eight. -/
theorem witness_request :
    requestOf .a 7 .start [] = some (.start 7) ∧ ([] : List Byte).length ≤ 8 ∧ ([] : List Byte).getLast? ≠ some 0
      ∧ ([0x41, 0x42, 0x43, 0x44, 0x45, 0x46, 0x47, 0x48] : List Byte).length ≤ 8
      ∧ ([0x41, 0x42, 0x43, 0x44, 0x45, 0x46, 0x47, 0x48] : List Byte).getLast? ≠ some 0 := by decide

/-- R184: a link restored at a ready flight brings a TURN event, which the reset of its own RESTART overtakes. -/
theorem test_restart_overtakes :
    let p := justReady turnsGroup (settled 1000)
    let lost := { p with link := { p.link with lost := true } }
    let q := (lost.feedWatchdog.overtaken lost).takeRestart 7 .keep
    2 ≤ lost.feedWatchdog.sent.a.length ∧ lost.feedWatchdog.mode = .working
      ∧ q.sent.a = [.accepted 7 (some true) (.restart .keep)] ∧ q.mode = .survey ∧ q.outlets.counters.lostToReset = 1 := by
  decide

/-- A frame with the code of an EVENT, which no frame names as a request, whatever byte that code is. -/
theorem witness_echoed_event :
    let kind := Config.kindCode .event
    let check := bytesOf 2 (crc16 [2#8, kind, 7#8]).toNat
    requestKind kind [] = none ∧ (∃ m, kind = Config.kindCode m)
      ∧ frameOk 2 ([kind, 7#8] ++ check) = true ∧ ([kind, 7#8] ++ check).take 2 = [kind, 7#8]
      ∧ ([kind, 7#8] ++ check).length = 4 := by
  have all : ∀ n : Fin 256, frameOk 2 ([BitVec.ofFin n, 7#8] ++ bytesOf 2 (crc16 [2#8, BitVec.ofFin n, 7#8]).toNat)
      = true := by decide +kernel
  refine ⟨by simp [requestKind, sentCode], ⟨.event, rfl⟩, all (Config.kindCode .event).toFin, rfl, rfl⟩

/-- The longest body a frame holds; the greatest numbers that fit fields of one, two and four bytes; the longest hull
mark; and a record with a line. -/
theorem witness_frames_sent :
    (List.replicate 238 (0#8 : Byte)).length ≤ 238 ∧ 255 < 256 ^ 1 ∧ 65535 < 256 ^ 2 ∧ 4294967295 < 256 ^ 4
      ∧ (List.replicate 8 (0x41#8 : Byte)).length ≤ 8
      ∧ (let r := tariffGroup.record (lockage142 [] 1 .travel) .completed ⟨412, 58980⟩
         (r.lines[0]?.map (·.ticket)) = some 611) := by
  refine ⟨Nat.le_of_eq List.length_replicate, ?_⟩
  decide

end Sys2Proof.Tests
end

section
/-! PROOFS. The level monitor's samples and levels (spec/01): what SAMPLE_ARRIVAL leaves in the record of its reach
(R3, R6), and the arithmetic of a level (R9, R10). -/

namespace Sys2Proof.Machine

/-! ### The record a sample leaves -/

/-- A run of four after an append: its newest three and the value (R2, R3). -/
theorem pushFour_eq (xs : List Nat) (x : Nat) : pushFour xs x = xs.drop (xs.length - 3) ++ [x] := by
  unfold pushFour
  split
  · have nothingDropped : xs.length - 3 = 0 := by omega
    rw [nothingDropped, List.drop_zero]
  · rfl

/-- The twentieth sample in SETTLING is classified and stored as R3 states (R2). -/
theorem settled_twentieth (x : ReachRec) (g : ReachGroup) (raw : Nat) (h : x.settleCount = 19) :
    x.settled g raw = { x.accepted g raw with settleCount := 20 } := by
  simp [ReachRec.settled, ReachRec.accepted, h]

/-- With the jump test off, or a jump within the threshold, a sample in an ordered class is accepted (R4). -/
theorem tested_within (x : ReachRec) (g : ReachGroup) (raw : Nat)
    (h : g.jump = 0 ∨ ∃ v, x.previousRaw = some v ∧ rawDiff raw v ≤ g.jump) :
    x.tested g raw = x.accepted g raw := by
  unfold ReachRec.tested
  split
  · next v hv =>
    refine if_pos (h.imp_right ?_)
    rintro ⟨w, hw, within⟩
    obtain rfl : v = w := Option.some.inj (hv.symm.trans hw)
    exact within
  · rfl

/-- An ordered class takes its samples through the jump test (R4). -/
theorem sampled_ordered (x : ReachRec) (g : ReachGroup) (raw : Nat) (h : x.cls.ordered = true) :
    x.sampled g raw = x.tested g raw := by
  unfold ReachRec.sampled
  cases c : x.cls with
  | valid | limitedLow | limitedHigh => rfl
  | settling | stale | broken => rw [c] at h; cases h

/-- The samples that R2, R4 and R6 take: each is accepted as R3 states, and beside that only the settle count may
change. -/
theorem sampled_accepted (x : ReachRec) (g : ReachGroup) (raw : Nat)
    (h : x.cls = .stale ∨ (x.cls = .settling ∧ x.settleCount = 19)
      ∨ (x.cls.ordered = true ∧ (g.jump = 0 ∨ ∃ v, x.previousRaw = some v ∧ rawDiff raw v ≤ g.jump))) :
    ∃ n, x.sampled g raw = { x.accepted g raw with settleCount := n } := by
  obtain stale | ⟨settling, count⟩ | ⟨ordered, within⟩ := h
  · exact ⟨x.settleCount, by simp only [ReachRec.sampled, stale]; rfl⟩
  · exact ⟨20, by simp only [ReachRec.sampled, settling, settled_twentieth x g raw count]⟩
  · exact ⟨x.settleCount, by rw [sampled_ordered x g raw ordered, tested_within x g raw within]; rfl⟩

/-- Under a group in force the arrival is the sample by its class, and the sample timer runs anew (R2 to R7). -/
theorem arrival_some (x : ReachRec) (g : ReachGroup) (raw : Nat) :
    x.arrival (some g) raw = { x.sampled g raw with sampleTimer := Config.samplePeriod } := rfl

/-! ### What follows a sample leaves the reading alone -/

/-- What follows the first change of an event changes no reading. -/
theorem Moved.reading {p q : Part} (h : Moved p q) (r : Reach) :
    (q.reaches.get r).reading = (p.reaches.get r).reading := by
  have readings : q.reaches.map ReachRec.reading = p.reaches.map ReachRec.reading := congrArg Part.reaches h.base
  rw [← Five.get_map ReachRec.reading, readings, Five.get_map]

/-- SAMPLE_ARRIVAL leaves the reading its rules give the record: the note, the isolation, the drift test, the
announcement and the turn change nothing of it (R8). -/
theorem sampleArrival_reading (r : Reach) (raw : Fin 4096) (s : State) :
    ∃ q, exec (.sampleArrival r raw) s = .next { s with part := q }
      ∧ (q.reaches.get r).reading
        = ((s.part.reaches.get r).arrival (s.part.settings.reach.get r) raw.val).reading := by
  refine ⟨_, rfl, ?_⟩
  have follows : ∀ (p : Part) (was : ReadingClass) (b : Bool),
      Onward p (((((p.noteClass r was).examineReach r).driftOf r).announce r).settle b) := fun p was b =>
    (((noteClass_worked p r was).trans (examineReach_worked _ r)).trans (driftOf_worked _ r)).onward.trans
      ((announce_onward _ r).trans (settle_onward _ b _))
  rw [(follows _ _ _).toMoved.reading r, Five.get_set_self]

/-- Settles O14: the sample is accepted as R3 states, and what follows it leaves the reading. -/
theorem sampleClassifiedAndStored : Obligations.SampleClassifiedAndStored := by
  intro r raw s g hg x taken
  obtain ⟨q, run, reading⟩ := sampleArrival_reading r raw s
  obtain ⟨n, accepted⟩ := sampled_accepted x g raw.val taken
  have left : (q.reaches.get r).reading
      = { x.accepted g raw.val with settleCount := n, sampleTimer := Config.samplePeriod }.reading := by
    rw [reading, hg, arrival_some, accepted]
  refine ⟨q, run, congrArg ReachRec.cls left, ?_, congrArg ReachRec.previousRaw left,
    congrArg ReachRec.missed left, congrArg ReachRec.sampleTimer left⟩
  calc (q.reaches.get r).window = pushFour x.window (clampRaw g raw.val) := congrArg ReachRec.window left
    _ = _ := pushFour_eq _ _

/-! ### The arithmetic of a level -/

/-- Rounding half away from zero treats both signs alike. -/
theorem RoundsAway.neg {x y n : Int} (h : RoundsAway x y n) : RoundsAway (-x) y (-n) := by
  have mirrored : -(y * n) - -x = -(y * n - x) := by omega
  unfold RoundsAway
  rw [Int.mul_neg, mirrored, Int.natAbs_neg, Int.natAbs_neg, Int.natAbs_neg]
  exact h

/-- A quotient that is not negative: adding half the divisor and taking the floor rounds half up, which is away from
zero. -/
theorem roundsAway_nonneg {x y : Int} (hx : 0 ≤ x) (hy : 0 < y) : RoundsAway x y ((2 * x + y) / (2 * y)) := by
  have floor := Int.mul_ediv_add_emod (2 * x + y) (2 * y)
  have low := Int.emod_nonneg (2 * x + y) (b := 2 * y) (by omega)
  have high := Int.emod_lt_of_pos (2 * x + y) (b := 2 * y) (by omega)
  rw [Int.mul_assoc] at floor
  unfold RoundsAway
  generalize y * ((2 * x + y) / (2 * y)) = m at floor ⊢
  omega

/-- The model's rounding is half away from zero (spec/00_scope.md, "Rounding"). -/
theorem roundAway_roundsAway (x : Int) {y : Int} (hy : 0 < y) : RoundsAway x y (roundAway x y) := by
  unfold roundAway
  split
  · next hx => exact roundsAway_nonneg hx hy
  · next hx =>
    have mirrored := (roundsAway_nonneg (x := -x) (by omega) hy).neg
    rw [Int.neg_neg] at mirrored
    exact mirrored

/-- A level stands off its datum by the rounded quotient (R9). -/
theorem rawLevel_roundsAway (g : ReachGroup) (raw : Nat) :
    RoundsAway (((raw : Int) - g.zero) * g.span) 4096 (rawLevel g raw - g.datum) := by
  have offset : rawLevel g raw - g.datum = roundAway (((raw : Int) - g.zero) * g.span) 4096 := by
    unfold rawLevel; omega
  rw [offset]
  exact roundAway_roundsAway _ (by decide)

/-- The product of R9, for settings within their ranges. -/
theorem product_bounds {raw zero span : Int} (hraw : 0 ≤ raw ∧ raw ≤ 4095) (hzero : 0 ≤ zero ∧ zero ≤ 4095)
    (hspan : 0 ≤ span ∧ span ≤ 20000) :
    -81900000 ≤ (raw - zero) * span ∧ (raw - zero) * span ≤ 81900000 := by
  have offset : (raw - zero).natAbs ≤ 4095 := by omega
  have slope : span.natAbs ≤ 20000 := by omega
  have size : ((raw - zero) * span).natAbs ≤ 4095 * 20000 := by
    rw [Int.natAbs_mul]
    exact Nat.mul_le_mul offset slope
  omega

/-- The quotient of a product within R9's bounds stays below 20,000 in size. -/
theorem quotient_bounds {x n : Int} (h : RoundsAway x 4096 n) (hx : -81900000 ≤ x ∧ x ≤ 81900000) :
    -20000 ≤ n ∧ n ≤ 20000 := by
  obtain ⟨near, -⟩ := h
  omega

/-- Only an ordered class has a level (R10). -/
theorem level_unordered (p : Part) (r : Reach) (h : (p.reaches.get r).cls.ordered = false) : p.level r = none := by
  simp [Part.level, h]

/-- An ordered class has the mean level of its window under the group in force (R10). -/
theorem level_ordered (p : Part) (r : Reach) (g : ReachGroup) (hg : p.settings.reach.get r = some g)
    (h : (p.reaches.get r).cls.ordered = true) : p.level r = some (meanLevel g (p.reaches.get r).window) := by
  simp [Part.level, h, hg]

/-- The mean over a window of four (R10). -/
theorem meanLevel_roundsAway (g : ReachGroup) (a b c d : Nat) :
    RoundsAway (rawLevel g a + rawLevel g b + rawLevel g c + rawLevel g d) 4 (meanLevel g [a, b, c, d]) := by
  have sum : ([a, b, c, d].map (rawLevel g)).foldl (· + ·) 0
      = rawLevel g a + rawLevel g b + rawLevel g c + rawLevel g d := by simp
  rw [meanLevel, sum]
  exact roundAway_roundsAway _ (by decide)

/-- Settles O17: the model's rounding is R9's, and the product's bounds give the level's. -/
theorem levelIsRoundedAwayFromZero : Obligations.LevelIsRoundedAwayFromZero := by
  refine ⟨fun g raw => ⟨rawLevel_roundsAway g raw, ?_⟩, level_unordered, ?_⟩
  · intro hraw hzero hzero' hspan hspan' hdatum hdatum'
    have product := product_bounds (raw := raw) ⟨by omega, by omega⟩ ⟨hzero, hzero'⟩ ⟨by omega, hspan'⟩
    have quotient := quotient_bounds (rawLevel_roundsAway g raw) product
    exact ⟨product.1, product.2, by omega, by omega⟩
  · intro p r g a b c d hg ordered window
    refine ⟨_, level_ordered p r g hg ordered, ?_⟩
    rw [window]
    exact meanLevel_roundsAway g a b c d

end Sys2Proof.Machine
end

section
/-! PROOFS. The toll calculator (spec/08): rounding, the ranks by which the units left over are given (R137), the
lines (R133 to R140) and the record's sums (R138, R141). -/

namespace Sys2Proof.Machine

/-! ### Rounding (R132) -/

/-- The nearest whole number to `x / y`, a half upwards: the statement's form of R132's rounding. -/
def nearestUp (x y : Nat) : Nat := (2 * x + y) / (2 * y)

/-- The model's rounding is to the nearest, and says so when it went up. -/
theorem halfUp_eq (x : Nat) {y : Nat} (hy : 0 < y) :
    halfUp x y = (nearestUp x y, decide (x < y * nearestUp x y)) := by
  have division := Nat.div_add_mod x y
  have below := Nat.mod_lt x hy
  have scaled (n : Nat) : n * (2 * y) = 2 * (y * n) := by
    rw [Nat.mul_left_comm, Nat.mul_comm n y]
  unfold halfUp
  split
  · next up =>
    have nearest : nearestUp x y = x / y + 1 := by
      apply Nat.div_eq_of_lt_le <;> simp only [scaled, Nat.mul_succ] <;> omega
    have added : x < y * (x / y + 1) := by rw [Nat.mul_succ]; omega
    rw [nearest, decide_eq_true added]
  · next down =>
    have nearest : nearestUp x y = x / y := by
      apply Nat.div_eq_of_lt_le <;> simp only [scaled, Nat.mul_succ] <;> omega
    have kept : ¬ x < y * (x / y) := by omega
    rw [nearest, decide_eq_false kept]

/-! ### Ranks in a strict order -/

/-- A weaker test that one member passes besides counts more. -/
theorem countP_lt_countP {α : Type} {p q : α → Bool} (weaker : ∀ y, p y = true → q y = true) {x : α} {l : List α}
    (mem : x ∈ l) (fails : p x = false) (passes : q x = true) : l.countP p < l.countP q := by
  induction l with
  | nil => exact absurd mem List.not_mem_nil
  | cons y ys ih =>
    have others : ys.countP p ≤ ys.countP q := List.countP_mono_left fun z _ => weaker z
    rcases List.mem_cons.mp mem with rfl | later
    · rw [List.countP_cons_of_neg (by rw [fails]; exact Bool.false_ne_true), List.countP_cons_of_pos passes]
      omega
    · have fewer := ih later
      have head := weaker y
      rw [List.countP_cons, List.countP_cons]
      cases first : p y with
      | false => simp only [Bool.false_eq_true, if_false]; omega
      | true => simp only [head first, if_true]; omega

section
variable {α : Type} (before : α → α → Bool)

/-- How many members of the list come before `x`. -/
def rankIn (l : List α) (x : α) : Nat := l.countP fun y => before y x

theorem rankIn_cons (a : α) (l : List α) (x : α) :
    rankIn before (a :: l) x = rankIn before l x + if before a x = true then 1 else 0 := List.countP_cons

variable (irrefl : ∀ a, before a a = false)
  (trans : ∀ a b c, before a b = true → before b c = true → before a c = true)
include irrefl trans

theorem rankIn_lt_rankIn {l : List α} {x a : α} (mem : x ∈ l) (h : before x a = true) :
    rankIn before l x < rankIn before l a :=
  countP_lt_countP (fun y hy => trans y x a hy h) mem (irrefl x) h

/-- A new member of rank `r` takes the place `r`: whoever came after it moves up by one. -/
theorem rankIn_cons_lt_iff (k : Nat) {l : List α} {x a : α} (mem : x ∈ l)
    (order : before a x = true ∨ before x a = true) :
    rankIn before (a :: l) x < k ↔ rankIn before l x < if rankIn before l a < k then k - 1 else k := by
  rw [rankIn_cons]
  rcases order with after | ahead
  · have up : rankIn before l a ≤ rankIn before l x :=
      List.countP_mono_left fun y _ hy => trans y a x hy after
    rw [if_pos after]
    split <;> omega
  · have down := rankIn_lt_rankIn before irrefl trans mem ahead
    have not_after : ¬ before a x = true := fun after => by
      have loop := trans a x a after ahead
      rw [irrefl a] at loop
      exact Bool.false_ne_true loop
    rw [if_neg not_after]
    split <;> omega

/-- In a strict order that compares every two members, every rank is taken once: as many members have a rank below
`k` as there are such ranks. -/
theorem countP_rankIn_lt {l : List α} (total : l.Pairwise fun a x => before a x = true ∨ before x a = true) (k : Nat) :
    l.countP (fun x => decide (rankIn before l x < k)) = min k l.length := by
  induction l generalizing k with
  | nil => rw [List.countP_nil, List.length_nil, Nat.min_zero]
  | cons a l ih =>
    obtain ⟨compared, rest⟩ := List.pairwise_cons.mp total
    have own : rankIn before (a :: l) a = rankIn before l a := by
      rw [rankIn_cons, if_neg (by rw [irrefl a]; exact Bool.false_ne_true), Nat.add_zero]
    have others : l.countP (fun x => decide (rankIn before (a :: l) x < k))
        = min (if rankIn before l a < k then k - 1 else k) l.length := by
      rw [← ih rest]
      refine List.countP_congr fun x mem => ?_
      rw [decide_eq_true_iff, decide_eq_true_iff]
      exact rankIn_cons_lt_iff before irrefl trans k mem (compared x mem)
    have bound : rankIn before l a ≤ l.length := List.countP_le_length
    rw [List.countP_cons, others, own, List.length_cons]
    simp only [decide_eq_true_iff]
    split <;> omega

end

/-! ### The units the floors leave over (R137) -/

/-- The vessel `y` takes a unit left over before `x` does: a larger remainder, or an equal one earlier in the
convoy. -/
def unitBefore (d total : Nat) (y x : Option Nat × Nat) : Bool :=
  decide (shareRemainder d total x.1 < shareRemainder d total y.1)
    || (decide (shareRemainder d total y.1 = shareRemainder d total x.1) && decide (y.2 < x.2))

theorem unitBefore_iff (d total : Nat) (y x : Option Nat × Nat) :
    unitBefore d total y x = true ↔ shareRemainder d total x.1 < shareRemainder d total y.1
      ∨ (shareRemainder d total y.1 = shareRemainder d total x.1 ∧ y.2 < x.2) := by
  rw [unitBefore, Bool.or_eq_true, Bool.and_eq_true, decide_eq_true_iff, decide_eq_true_iff, decide_eq_true_iff]

theorem unitBefore_irrefl (d total : Nat) (x : Option Nat × Nat) : unitBefore d total x x = false := by
  rw [← Bool.not_eq_true, unitBefore_iff]
  omega

theorem unitBefore_trans (d total : Nat) (x y z : Option Nat × Nat) (h : unitBefore d total x y = true)
    (k : unitBefore d total y z = true) : unitBefore d total x z = true := by
  rw [unitBefore_iff] at h k ⊢
  omega

/-- The vessels to charge, each with its place in the convoy. -/
def chargedPlaces (ws : List (Option Nat)) : List (Option Nat × Nat) := ws.zipIdx.filter (·.1.isSome)

/-- Any two vessels to charge are compared, for their places differ. -/
theorem chargedPlaces_compared (d total : Nat) (ws : List (Option Nat)) :
    (chargedPlaces ws).Pairwise fun a x => unitBefore d total a x = true ∨ unitBefore d total x a = true := by
  have rising : ws.zipIdx.Pairwise fun a x => a.2 < x.2 := by
    rw [← List.pairwise_map (f := Prod.snd) (R := (· < ·)), List.zipIdx_map_snd]
    exact List.pairwise_lt_range'
  refine (rising.filter _).imp fun {a x} places => ?_
  rw [unitBefore_iff, unitBefore_iff]
  omega

theorem chargedPlaces_length (ws : List (Option Nat)) : (chargedPlaces ws).length = ws.countP Option.isSome := by
  have values : ws.countP Option.isSome = (ws.zipIdx.map Prod.fst).countP Option.isSome := by rw [List.zipIdx_map_fst]
  rw [chargedPlaces, values, List.countP_map, List.countP_eq_length_filter]
  rfl

theorem unitRank_eq (d total : Nat) (ws : List (Option Nat)) (i : Nat) (w : Option Nat) :
    unitRank d total ws i w = rankIn (unitBefore d total) (chargedPlaces ws) (w, i) := by
  rw [unitRank, rankIn, chargedPlaces, List.countP_filter, List.countP_eq_length_filter]
  congr 2
  funext x
  exact Bool.and_comm ..

/-- As many vessels to charge have a rank below `k` as `k` says, or all of them. -/
theorem countP_unitRank_lt (d total k : Nat) (ws : List (Option Nat)) :
    ws.zipIdx.countP (fun x => x.1.isSome && decide (unitRank d total ws x.2 x.1 < k))
      = min k (ws.countP Option.isSome) := by
  have ranks := countP_rankIn_lt (unitBefore d total) (unitBefore_irrefl d total) (unitBefore_trans d total)
    (chargedPlaces_compared d total ws) k
  rw [chargedPlaces_length] at ranks
  rw [← ranks]
  conv => rhs; rw [chargedPlaces, List.countP_filter, ← chargedPlaces]
  congr 1
  funext x
  rw [unitRank_eq]
  exact Bool.and_comm ..

/-- The floors by length fall short of the water by no more than one unit for each vessel to charge. -/
theorem floors_bounds (d total : Nat) (h : 0 < total) (ws : List (Option Nat)) :
    total * (ws.map (floorShare d total)).sum ≤ d * (ws.map (·.getD 0)).sum
      ∧ d * (ws.map (·.getD 0)).sum ≤ total * ((ws.map (floorShare d total)).sum + ws.countP Option.isSome) := by
  induction ws with
  | nil => exact ⟨Nat.le_refl _, Nat.le_refl _⟩
  | cons w ws ih =>
    obtain ⟨low, high⟩ := ih
    cases w with
    | none => simpa [floorShare] using ⟨low, high⟩
    | some w =>
      have division := Nat.div_add_mod (d * w) total
      have below := Nat.mod_lt (d * w) h
      simp only [List.map_cons, List.sum_cons, Option.getD_some, floorShare, List.countP_cons, Option.isSome_some,
        if_true, Nat.mul_add, Nat.mul_one] at low high ⊢
      omega

theorem divisible_eq (ws : List (Option Nat)) : divisible ws = (ws.map (·.getD 0)).sum := by
  rw [divisible, List.sum_eq_foldl, List.foldl_map]

theorem shortfall_eq (d total : Nat) (ws : List (Option Nat)) :
    shortfall d total ws = d - (ws.map (floorShare d total)).sum := by
  rw [shortfall, List.sum_eq_foldl]

/-- With something to divide by, the floors and the units left over make up the water, and there are vessels enough to
take those units. -/
theorem floors_add_shortfall (d : Nat) (ws : List (Option Nat)) (h : divisible ws ≠ 0) :
    (ws.map (floorShare d (divisible ws))).sum + shortfall d (divisible ws) ws = d
      ∧ shortfall d (divisible ws) ws ≤ ws.countP Option.isSome := by
  have positive : 0 < divisible ws := by omega
  obtain ⟨low, high⟩ := floors_bounds d (divisible ws) positive ws
  rw [← divisible_eq, Nat.mul_comm d] at low high
  have floors := Nat.le_of_mul_le_mul_left low positive
  have enough := Nat.le_of_mul_le_mul_left high positive
  rw [shortfall_eq]
  omega

/-! ### The water shares (R136 to R138) -/

/-- The share of the vessel at place `i` (R137). -/
def shareOf (d : Nat) (ws : List (Option Nat)) (i : Nat) : Option Nat → Nat
  | none => 0
  | some w =>
    if divisible ws = 0 then 0
    else d * w / divisible ws
      + if unitRank d (divisible ws) ws i (some w) < shortfall d (divisible ws) ws then 1 else 0

theorem waterShares_eq (d : Nat) (ws : List (Option Nat)) :
    waterShares d ws = ws.zipIdx.map fun x => shareOf d ws x.2 x.1 := by
  have none_due (total : Nat) : shortfall 0 total ws = 0 := Nat.zero_sub _
  simp only [waterShares]
  split
  · next h =>
    have nothing (x : Option Nat × Nat) : shareOf d ws x.2 x.1 = 0 := by
      obtain ⟨_ | w, i⟩ := x
      · rfl
      · rcases h with h | rfl
        · exact if_pos h
        · simp only [shareOf, none_due, Nat.not_lt_zero, if_false, Nat.zero_mul, Nat.zero_div, Nat.add_zero,
            ite_self]
    rw [List.map_congr_left fun x _ => nothing x, List.map_const', List.map_const', List.length_zipIdx]
  · next h =>
    refine List.map_congr_left fun x _ => ?_
    obtain ⟨_ | w, i⟩ := x
    · rfl
    · obtain ⟨h, -⟩ := not_or.mp h
      simp only [shareOf, if_neg h]
      split <;> rfl

/-- A share is a floor and, for the first ranks, a unit. -/
theorem shareOf_eq (d : Nat) (ws : List (Option Nat)) (h : divisible ws ≠ 0) (i : Nat) (w : Option Nat) :
    shareOf d ws i w = floorShare d (divisible ws) w
      + if (w.isSome && decide (unitRank d (divisible ws) ws i w < shortfall d (divisible ws) ws)) = true
        then 1 else 0 := by
  cases w with
  | none => rfl
  | some w => simp only [shareOf, floorShare, if_neg h, Option.isSome_some, Bool.true_and, decide_eq_true_iff]

theorem sum_map_zero {α : Type} (l : List α) : (l.map fun _ => 0).sum = 0 := by
  rw [List.map_const', List.sum_replicate_nat, Nat.mul_zero]

theorem sum_add_units {α : Type} (f : α → Nat) (p : α → Bool) (l : List α) :
    (l.map fun x => f x + if p x = true then 1 else 0).sum = (l.map f).sum + l.countP p := by
  induction l with
  | nil => rfl
  | cons a l ih =>
    rw [List.map_cons, List.sum_cons, ih, List.map_cons, List.sum_cons, List.countP_cons]
    omega

/-- R138: the shares sum to the water, or to nothing where no length is to be charged. -/
theorem waterShares_sum (d : Nat) (ws : List (Option Nat)) :
    (waterShares d ws).sum = if divisible ws = 0 then 0 else d := by
  split
  · next h =>
    have nothing : waterShares d ws = ws.map fun _ => 0 := if_pos (.inl h)
    rw [nothing, sum_map_zero]
  · next h =>
    obtain ⟨whole, enough⟩ := floors_add_shortfall d ws h
    have floors : (ws.zipIdx.map fun x => floorShare d (divisible ws) x.1).sum
        = (ws.map (floorShare d (divisible ws))).sum := by
      rw [← Function.comp_def (floorShare d (divisible ws)), ← List.map_map, List.zipIdx_map_fst]
    rw [waterShares_eq, List.map_congr_left fun x _ => shareOf_eq d ws h x.2 x.1, sum_add_units, floors,
      countP_unitRank_lt, Nat.min_eq_left enough, whole]

/-! ### The vessels to charge (R136) -/

/-- The length by which a vessel shares the water, none for an exempt one (R136). -/
def Tariff.weight (t : Tariff) (v : Vessel) : Option Nat := if t.exempts v then none else some v.length

theorem weight_exempt {t : Tariff} {v : Vessel} (h : t.exempts v = true) : t.weight v = none := if_pos h

theorem weight_payer {t : Tariff} {v : Vessel} (h : t.exempts v = false) : t.weight v = some v.length :=
  if_neg (Bool.not_eq_true _ ▸ h)

theorem weights_eq (t : Tariff) (vs : List Vessel) : t.weights vs = vs.map t.weight := rfl

/-- A sum over the weights is one over the vessels to charge. -/
theorem weights_sum (t : Tariff) (f : Option Nat → Nat) (h : f none = 0) (vs : List Vessel) :
    ((t.weights vs).map f).sum = ((vs.filter fun v => !t.exempts v).map fun v => f (some v.length)).sum := by
  induction vs with
  | nil => rfl
  | cons v vs ih =>
    simp only [weights_eq, List.map_map, List.map_cons, List.sum_cons] at ih ⊢
    cases exempt : t.exempts v with
    | true =>
      rw [List.filter_cons_of_neg (by rw [exempt]; exact Bool.false_ne_true), ← ih, weight_exempt exempt, h,
        Nat.zero_add]
    | false =>
      rw [List.filter_cons_of_pos (by rw [exempt]; rfl), List.map_cons, List.sum_cons, ← ih, weight_payer exempt]

theorem divisible_weights (t : Tariff) (vs : List Vessel) :
    divisible (t.weights vs) = ((vs.filter fun v => !t.exempts v).map (·.length)).sum := by
  rw [divisible_eq, weights_sum t _ rfl]
  rfl

theorem shortfall_weights (d total : Nat) (t : Tariff) (vs : List Vessel) :
    shortfall d total (t.weights vs)
      = d - ((vs.filter fun v => !t.exempts v).map fun v => d * v.length / total).sum := by
  rw [shortfall_eq, weights_sum t _ rfl]
  rfl

/-- Vessels have lengths, so there is nothing to divide by just where all are exempt. -/
theorem divisible_eq_zero_iff (t : Tariff) (vs : List Vessel) (h : ∀ v ∈ vs, 0 < v.length) :
    divisible (t.weights vs) = 0 ↔ ¬ ∃ v ∈ vs, t.exempts v = false := by
  simp only [divisible_weights, List.sum_eq_zero_iff_forall_eq_nat, List.mem_map, List.mem_filter, Bool.not_eq_true',
    forall_exists_index, and_imp]
  constructor
  · rintro zero ⟨v, mem, payer⟩
    exact Nat.ne_of_gt (h v mem) (zero _ v mem payer rfl)
  · intro none_pays _ v mem payer _
    exact (none_pays ⟨v, mem, payer⟩).elim

/-- Who comes before the vessel at place `i` for a unit left over, read from the vessels (R137). -/
theorem unitRank_weights (d total : Nat) (t : Tariff) (vs : List Vessel) (i n : Nat) :
    unitRank d total (t.weights vs) i (some n)
      = vs.zipIdx.countP fun x => !t.exempts x.1
          && (decide (d * n % total < d * x.1.length % total)
            || (decide (d * x.1.length % total = d * n % total) && decide (x.2 < i))) := by
  rw [unitRank, ← List.countP_eq_length_filter, weights_eq, List.zipIdx_map, List.countP_map]
  congr 1
  funext x
  cases exempt : t.exempts x.1 with
  | true =>
    simp only [Function.comp_apply, Prod.map_fst, weight_exempt exempt, Option.isSome_none, Bool.not_true,
      Bool.false_and]
  | false =>
    simp only [Function.comp_apply, Prod.map_fst, Prod.map_snd, weight_payer exempt, Option.isSome_some,
      Bool.not_false, Bool.true_and, shareRemainder, id]

/-! ### The lines (R133 to R135, R139, R140) -/

/-- The share of the vessel at place `i` of the convoy. -/
def Tariff.share (t : Tariff) (due : Nat) (vs : List Vessel) (i : Nat) (v : Vessel) : Nat :=
  shareOf due (t.weights vs) i (t.weight v)

theorem waterShares_weights (t : Tariff) (due : Nat) (vs : List Vessel) :
    waterShares due (t.weights vs) = vs.zipIdx.map fun x => t.share due vs x.2 x.1 := by
  rw [waterShares_eq]
  conv => lhs; arg 2; rw [weights_eq, List.zipIdx_map]
  rw [List.map_map]
  rfl

theorem share_exempt (t : Tariff) (due : Nat) (vs : List Vessel) (i : Nat) (v : Vessel) (h : t.exempts v = true) :
    t.share due vs i v = 0 := by
  rw [Tariff.share, weight_exempt h, shareOf]

/-- The lines of a lockage that ran its plan: one passage line for each place of the convoy. -/
theorem passage_lines (t : Tariff) (l : Lockage) (o : LockageOutcome) (due : Nat)
    (ran : o = .completed ∨ o = .completedLate) :
    t.lines l o due = l.convoy.zipIdx.map fun x =>
      t.passageLine (t.bandPercentAt l.turnTime) l.late x.1 (t.share due l.convoy x.2 x.1) := by
  have paired : l.convoy.zip (waterShares due (t.weights l.convoy))
      = l.convoy.zipIdx.map fun x => (x.1, t.share due l.convoy x.2 x.1) := by
    rw [waterShares_weights, ← List.zip_map', List.zipIdx_map_fst]
  have lines : t.lines l o due = (l.convoy.zip (waterShares due (t.weights l.convoy))).map fun x =>
      t.passageLine (t.bandPercentAt l.turnTime) l.late x.1 x.2 := by
    rcases ran with rfl | rfl <;> rfl
  rw [lines, paired, List.map_map]
  rfl

theorem passageLine_waterShare (t : Tariff) (band : Nat) (late : Bool) (v : Vessel) (share : Nat) :
    (t.passageLine band late v share).waterShare = if t.exempts v then 0 else share := by
  unfold Tariff.passageLine
  split <;> rfl

theorem returnedLine_waterShare (t : Tariff) (v : Vessel) : (t.returnedLine v).waterShare = 0 := by
  unfold Tariff.returnedLine
  split <;> rfl

theorem returnedLine_exempt (t : Tariff) (v : Vessel) (h : t.exempts v = true) :
    t.returnedLine v = v.blankLine true := if_pos h

theorem passageLine_exempt (t : Tariff) (band : Nat) (late : Bool) (v : Vessel) (share : Nat)
    (h : t.exempts v = true) : t.passageLine band late v share = v.blankLine true := if_pos h

/-- A returned line keeps the return percent of the base fee (R139). -/
theorem returnedLine_eq (t : Tariff) (v : Vessel) (h : t.exempts v = false) :
    t.returnedLine v =
      let kept := (t.classes.get v.cls).base * t.returnPercent
      { v.blankLine false with
        tariffFee := nearestUp kept 100, lineFee := nearestUp kept 100
        roundedUp := decide (kept < 100 * nearestUp kept 100) } := by
  simp only [Tariff.returnedLine, h, Bool.false_eq_true, if_false, halfUp_eq _ (show 0 < 100 by decide)]

/-- A return percent of at most 100 leaves a returned line below its base fee's bound. -/
theorem returnedLine_lineFee_le (t : Tariff) (v : Vessel) (percent : t.returnPercent ≤ 100)
    (base : (t.classes.get v.cls).base ≤ 65535) : (t.returnedLine v).lineFee ≤ 999999 := by
  cases exempt : t.exempts v with
  | true => rw [returnedLine_exempt t v exempt]; exact Nat.zero_le _
  | false =>
    have product := Nat.mul_le_mul base percent
    rw [returnedLine_eq t v exempt]
    dsimp only [nearestUp]
    omega

/-- The tariff fee by R133's four steps, flagged where one of its roundings added one (R132). -/
theorem fee_eq (t : Tariff) (band : Nat) (v : Vessel) :
    t.fee band v =
      let c := t.classes.get v.cls
      let charge := nearestUp (c.rate * (v.length - c.freeLength)) 10
      let s1 := c.base + charge
      let s2 := if v.laden = true then nearestUp (s1 * c.ladenPercent) 100 else s1
      let s3 := nearestUp (s2 * band) 100
      let s4 := if v.accountKind = .pass then nearestUp (s3 * t.passPercent) 100 else s3
      (s4, decide (c.rate * (v.length - c.freeLength) < 10 * charge)
        || (v.laden && decide (s1 * c.ladenPercent < 100 * s2)) || decide (s2 * band < 100 * s3)
        || (decide (v.accountKind = .pass) && decide (s3 * t.passPercent < 100 * s4))) := by
  have tenth (x : Nat) := halfUp_eq x (show 0 < 10 by decide)
  have hundredth (x : Nat) := halfUp_eq x (show 0 < 100 by decide)
  simp only [Tariff.fee, tenth, hundredth]
  by_cases pass : v.accountKind = .pass
  · cases laden : v.laden <;> simp only [pass, if_true, Bool.false_eq_true, if_false, decide_true, Bool.true_and,
      Bool.false_and]
  · cases laden : v.laden <;> simp only [pass, if_true, Bool.false_eq_true, if_false, decide_false, Bool.true_and,
      Bool.false_and]

/-- A passage line of a vessel to charge (R133 to R135). -/
theorem passageLine_eq (t : Tariff) (band : Nat) (late : Bool) (v : Vessel) (share : Nat)
    (h : t.exempts v = false) :
    t.passageLine band late v share =
      let s5 := (t.fee band v).1 + share
      let s6 := if late = true then s5 - t.delayCredit else s5
      { v.blankLine false with
        tariffFee := (t.fee band v).1, waterShare := share, lineFee := min 999999 s6
        roundedUp := (t.fee band v).2, capped := decide (999999 < s6)
        creditFloored := late && decide (s5 < t.delayCredit) } := by
  have capped (n : Nat) : (if lineCap < n then lineCap else n) = min 999999 n := by
    rw [lineCap]; split <;> omega
  simp only [Tariff.passageLine, h, capped]
  rfl

theorem passageLine_lineFee_le (t : Tariff) (band : Nat) (late : Bool) (v : Vessel) (share : Nat) :
    (t.passageLine band late v share).lineFee ≤ 999999 := by
  cases exempt : t.exempts v with
  | true => rw [passageLine_exempt t band late v share exempt]; exact Nat.zero_le _
  | false => rw [passageLine_eq t band late v share exempt]; exact Nat.min_le_left ..

/-- The share of a vessel to charge, read from the vessels (R136, R137). -/
theorem share_eq (t : Tariff) (due : Nat) (vs : List Vessel) (i : Nat) (v : Vessel) (h : t.exempts v = false) :
    t.share due vs i v =
      let payers := vs.filter fun w => !t.exempts w
      let length := (payers.map (·.length)).sum
      let left := due - (payers.map fun w => due * w.length / length).sum
      if length = 0 then 0
      else due * v.length / length
        + if vs.zipIdx.countP (fun x => !t.exempts x.1
            && (decide (due * v.length % length < due * x.1.length % length)
              || (decide (due * x.1.length % length = due * v.length % length) && decide (x.2 < i)))) < left
          then 1 else 0 := by
  simp only [Tariff.share, weight_payer h, shareOf, unitRank_weights, shortfall_weights, divisible_weights]

/-! ### The record (R138, R141, R142) -/

theorem totalOf_eq (ls : List Line) : totalOf ls = (ls.map (·.lineFee)).sum := by
  rw [totalOf, List.sum_eq_foldl, List.foldl_map]

theorem tollRecord_eq (p : Part) (t : Tariff) (l : Lockage) (o : LockageOutcome) (h : p.settings.tariff = some t) :
    p.tollRecord l o = t.record l o p.clockNow := by
  rw [Part.tollRecord, h]; rfl

/-- The outcomes that make a record (R131). -/
theorem recorded_cases (o : LockageOutcome) (h : o ≠ .withdrawn) :
    (o = .completed ∨ o = .completedLate) ∨ o = .returned ∨ o = .abandoned := by
  cases o <;> simp_all

theorem charged_ran (t : Tariff) (l : Lockage) (o : LockageOutcome) (due : Nat)
    (ran : o = .completed ∨ o = .completedLate) :
    t.charged l o due = if divisible (t.weights l.convoy) = 0 then 0 else due := by
  rcases ran with rfl | rfl <;> rfl

/-- A lockage that ran its plan is charged all the water if it has a vessel to charge (R138). -/
theorem charged_eq (t : Tariff) (l : Lockage) (o : LockageOutcome) (due : Nat) (h : ∀ v ∈ l.convoy, 0 < v.length)
    (recorded : o ≠ .withdrawn) :
    t.charged l o due = if (o = .completed ∨ o = .completedLate) ∧ ∃ v ∈ l.convoy, t.exempts v = false then due
      else 0 := by
  rcases recorded_cases o recorded with ran | rfl | rfl
  · simp only [charged_ran t l o due ran, ran, true_and, divisible_eq_zero_iff t l.convoy h, ite_not]
  · rfl
  · rfl

theorem charged_le (t : Tariff) (l : Lockage) (o : LockageOutcome) (due : Nat) : t.charged l o due ≤ due := by
  unfold Tariff.charged
  split
  · split <;> omega
  · split <;> omega
  · exact Nat.zero_le _

/-- R138: the lines' water shares sum to the water charged. -/
theorem lines_waterShare_sum (t : Tariff) (l : Lockage) (o : LockageOutcome) (due : Nat)
    (recorded : o ≠ .withdrawn) : ((t.lines l o due).map (·.waterShare)).sum = t.charged l o due := by
  rcases recorded_cases o recorded with ran | rfl | rfl
  · have shares : (t.lines l o due).map (·.waterShare) = waterShares due (t.weights l.convoy) := by
      rw [passage_lines t l o due ran, waterShares_weights, List.map_map]
      refine List.map_congr_left fun x _ => ?_
      refine (passageLine_waterShare ..).trans ?_
      split
      · next exempt => exact (share_exempt t due l.convoy x.2 x.1 exempt).symm
      · rfl
    rw [shares, waterShares_sum, charged_ran t l o due ran]
  · have nothing : (t.lines l .returned due).map (·.waterShare) = l.convoy.map fun _ => 0 := by
      rw [Tariff.lines, List.map_map]
      exact List.map_congr_left fun v _ => returnedLine_waterShare t v
    rw [nothing, sum_map_zero]
    rfl
  · have nothing : (t.lines l .abandoned due).map (·.waterShare) = l.convoy.map fun _ => 0 := by
      rw [Tariff.lines, List.map_map]
      rfl
    rw [nothing, sum_map_zero]
    rfl

theorem lines_length (t : Tariff) (l : Lockage) (o : LockageOutcome) (due : Nat) (recorded : o ≠ .withdrawn) :
    (t.lines l o due).length = l.convoy.length := by
  rcases recorded_cases o recorded with ran | rfl | rfl
  · rw [passage_lines t l o due ran, List.length_map, List.length_zipIdx]
  · rw [Tariff.lines, List.length_map]
  · rw [Tariff.lines, List.length_map]

/-- No line fee is above R135's cap; a returned line needs the ranges of its settings for it. -/
theorem lines_lineFee_le (t : Tariff) (l : Lockage) (o : LockageOutcome) (due : Nat) (recorded : o ≠ .withdrawn)
    (ranges : o = .returned → t.returnPercent ≤ 100 ∧ ∀ c, (t.classes.get c).base ≤ 65535) (x : Line)
    (h : x ∈ t.lines l o due) : x.lineFee ≤ 999999 := by
  rcases recorded_cases o recorded with ran | rfl | rfl
  · rw [passage_lines t l o due ran] at h
    obtain ⟨y, -, rfl⟩ := List.mem_map.mp h
    exact passageLine_lineFee_le ..
  · obtain ⟨v, -, rfl⟩ := List.mem_map.mp h
    obtain ⟨percent, base⟩ := ranges rfl
    exact returnedLine_lineFee_le t v percent (base v.cls)
  · obtain ⟨v, -, rfl⟩ := List.mem_map.mp h
    exact Nat.zero_le _

section
variable (t : Tariff) (l : Lockage) (due i : Nat) (v : Vessel) (x : Line) (hv : l.convoy[i]? = some v)
include hv

/-- The line of the vessel at place `i`, after a passage. -/
theorem passage_line_get (o : LockageOutcome) (ran : o = .completed ∨ o = .completedLate)
    (hx : (t.lines l o due)[i]? = some x) :
    x = t.passageLine (t.bandPercentAt l.turnTime) l.late v (t.share due l.convoy i v) := by
  simpa [passage_lines t l o due ran, hv] using hx.symm

/-- The line of the vessel at place `i`, after a return. -/
theorem returned_line_get (hx : (t.lines l .returned due)[i]? = some x) : x = t.returnedLine v := by
  simpa [Tariff.lines, hv] using hx.symm

/-- The line of the vessel at place `i`, after an abandonment. -/
theorem abandoned_line_get (hx : (t.lines l .abandoned due)[i]? = some x) : x = v.blankLine (t.exempts v) := by
  simpa [Tariff.lines, Tariff.abandonedLine, hv] using hx.symm

/-- An exempt vessel's line is 0 with the EXEMPT flag alone, whatever the ending (R134). -/
theorem exempt_line_get (o : LockageOutcome) (recorded : o ≠ .withdrawn) (h : t.exempts v = true)
    (hx : (t.lines l o due)[i]? = some x) : x = v.blankLine true := by
  rcases recorded_cases o recorded with ran | rfl | rfl
  · rw [passage_line_get t l due i v x hv o ran hx, passageLine_exempt _ _ _ _ _ h]
  · rw [returned_line_get t l due i v x hv hx, returnedLine_exempt t v h]
  · rw [abandoned_line_get t l due i v x hv hx, h]

end

/-- A draw that ends after its lockage is the outlet unit's alone (R35, R138). -/
theorem headDraw_late (p : Part) (n : Nat) (h : ∀ l, p.lockage = some l → l.number ≠ n) :
    p.headDraw n = { p with outlets := p.outlets.bump .headDraws 1 } := by
  have kept : p.lockage.map (fun l => if l.number = n then { l with headDraws := min 255 (l.headDraws + 1) } else l)
      = p.lockage := by
    cases current : p.lockage with
    | none => rfl
    | some l => exact congrArg some (if_neg (h l current))
  rw [Part.headDraw, kept]

/-- Settles O50: the shares are the floors and, by rank, the units the floors leave over; the lines are R133's to
R140's, place by place. -/
theorem waterSharesSumToTheCharge : Obligations.WaterSharesSumToTheCharge := by
  refine ⟨?_, ?_, headDraw_late⟩
  · intro p t l o tariff recorded lengths r
    have record : r = t.record l o p.clockNow := tollRecord_eq p t l o tariff
    have whole := Nat.add_sub_of_le (charged_le t l o (l.headDraws * t.waterRate))
    rw [record]
    exact ⟨lines_waterShare_sum t l o _ recorded, whole, rfl, charged_eq t l o _ lengths recorded⟩
  · intro p t l o tariff recorded r
    have record : r = t.record l o p.clockNow := tollRecord_eq p t l o tariff
    rw [record]
    refine ⟨totalOf_eq _, lines_length t l o _ recorded,
      fun ranges => lines_lineFee_le t l o _ recorded ranges, ?_⟩
    intro i v x hv hx c half band charge s1 s2 s3 s4 due payers length left ahead share s5 s6 back line
    refine ⟨?_, ?_, ?_⟩
    · rintro (exempt | rfl)
      · have blank := exempt_line_get t l due i v x hv o recorded exempt hx
        rw [← exempt] at blank
        exact blank
      · exact abandoned_line_get t l due i v x hv hx
    · rintro payer rfl
      have returned := returned_line_get t l due i v x hv hx
      rw [returnedLine_eq t v payer, ← payer] at returned
      exact returned
    · intro payer ran
      have passage := passage_line_get t l due i v x hv o ran hx
      rw [passageLine_eq t _ _ v _ payer, fee_eq, share_eq t due l.convoy i v payer, ← payer] at passage
      exact ⟨congrArg Line.waterShare passage, passage⟩

end Sys2Proof.Machine
end

section
/-! PROOFS. The clock: a second later (R167), SET_CLOCK (R168) and CLOCK_ADVANCE (R167). -/

namespace Sys2Proof.Machine

/-! ### A clock one second later (R167) -/

/-- Within the day only the second moves. -/
theorem Clock.next_within_day (c : Clock) (h : c.second < 86399) : c.next = ⟨c.day, c.second + 1⟩ :=
  if_pos h

/-- The last second of a day is followed by midnight of the next. -/
theorem Clock.next_midnight (c : Clock) (h : ¬ c.second < 86399) (hday : c.day < 65535) :
    c.next = ⟨c.day + 1, 0⟩ := by
  rw [Clock.next, if_neg h, if_pos hday]

/-- The last second of the last day is followed by midnight of day 0. -/
theorem Clock.next_last_day (c : Clock) (h : ¬ c.second < 86399) (hday : ¬ c.day < 65535) : c.next = ⟨0, 0⟩ := by
  rw [Clock.next, if_neg h, if_neg hday]

/-- R167's three cases of a second's advance. -/
theorem Clock.next_eq (c : Clock) :
    c.next = if c.second < 86399 then ⟨c.day, c.second + 1⟩
      else if c.day < 65535 then ⟨c.day + 1, 0⟩ else ⟨0, 0⟩ := by
  split
  · next within => exact c.next_within_day within
  · next midnight =>
    split
    · next hday => exact c.next_midnight midnight hday
    · next hday => exact c.next_last_day midnight hday

/-! ### SET_CLOCK and CLOCK_ADVANCE -/

section
variable (p : Part) (tag : Tag) (day second : Nat)

/-- A second of day that no day has is refused (R168). -/
theorem takeSetClock_refused (h : 86399 < second) : p.takeSetClock tag day second = p.refuse .a tag .badValue :=
  if_pos h

/-- A second of day within a day is accepted: the reply carries the clock before it, then the clock is set (R168). -/
theorem takeSetClock_accepted (h : second ≤ 86399) :
    p.takeSetClock tag day second = (p.accept .a tag (.clock p.clock)).setClock day second :=
  if_neg (Nat.not_lt.mpr h)

/-- An accepted SET_CLOCK changes the clock, its second count and the messages sent, and nothing else (R168). -/
theorem accept_setClock (d : ReplyData) :
    (p.accept .a tag d).setClock day second = { p with
      clock := some ⟨day, second⟩, secondCount := 1000
      sent := (p.send .a (.accepted tag (some p.link.conditions.any) d)).sent } := rfl

end

/-- CLOCK_ADVANCE changes the clock by R167's cases, restarts its second count, and changes nothing else. -/
theorem advanceClock_eq (p : Part) :
    p.advanceClock = { p with
      secondCount := 1000
      clock := p.clock.map fun c =>
        if c.second < 86399 then ⟨c.day, c.second + 1⟩
        else if c.day < 65535 then ⟨c.day + 1, 0⟩ else ⟨0, 0⟩ } := by
  rw [Part.advanceClock, funext Clock.next_eq]
  rfl

theorem exec_setClock (tag : Tag) (day second : Nat) (s : State) :
    exec (.setClock tag day second) s = .next { s with part := s.part.takeSetClock tag day second } := rfl

theorem exec_clockAdvance (s : State) : exec .clockAdvance s = .next { s with part := s.part.advanceClock } := rfl

/-- Settles O30: SET_CLOCK by its bound on the second, the advance by R167's three cases. -/
theorem clockIsSetAndAdvances : Obligations.ClockIsSetAndAdvances := by
  intro tag day second s
  refine ⟨fun late => ?_, fun within => ?_, ?_⟩
  · rw [exec_setClock, takeSetClock_refused _ _ _ _ late]
  · rw [exec_setClock, takeSetClock_accepted _ _ _ _ within, accept_setClock]
  · rw [exec_clockAdvance, advanceClock_eq]

end Sys2Proof.Machine
end

section
/-! PROOFS. What every command does to the flight's safety and to the state other commands own: `Safe` says what a
change keeps of the invariants, `Framed` what it leaves to the commands that own it, and each command is shown to be a
first change that is both, followed by operations that keep to `Onward`. -/

namespace Sys2Proof.Machine

variable {p q r : Part} {c : Instr}

/-! ### Safety of a change -/

/-- A change that keeps every invariant, and turns on an OPEN drive or issues an up-step only where the rules allow. -/
structure Safe (p q : Part) : Prop where
  drives : p.DrivesMatch → q.DrivesMatch
  ranges : p.SluicesInRange → q.SluicesInRange
  proceed : p.ProceedGuarded → q.ProceedGuarded
  hulls : p.HullsDistinct → q.HullsDistinct
  ordered : p.QueuesOrdered → q.QueuesOrdered
  numbers : p.NumbersInRange → q.NumbersInRange
  opens : OpensSafely p q
  steps : StepsUpSafely p q

theorem Onward.safe (h : Onward p q) : Safe p q :=
  ⟨h.drives, h.ranges, h.proceed, h.hulls, h.ordered, h.numbers, h.opens, h.steps⟩

/-- A safe change stays safe where what follows leaves every compare and interlock as it stands. -/
theorem Safe.trans (a : Safe p q) (b : Safe q r) (compare : ∀ g, r.compare g = q.compare g)
    (interlock : ∀ g, r.interlock g = q.interlock g) : Safe p r where
  drives h := b.drives (a.drives h)
  ranges h := b.ranges (a.ranges h)
  proceed h := b.proceed (a.proceed h)
  hulls h := b.hulls (a.hulls h)
  ordered h := b.ordered (a.ordered h)
  numbers h := b.numbers (a.numbers h)
  opens g h n := by
    by_cases m : (q.gates.get g).drive = .openDrive
    · rw [compare, interlock]; exact a.opens g m n
    · exact b.opens g h m
  steps k i h n := by
    by_cases m : (q.sluices.get k).step = some (.up, i)
    · rw [interlock]; exact a.steps k i m n
    · exact b.steps k i h m

theorem Safe.onward (a : Safe p q) (b : Onward q r) : Safe p r :=
  a.trans b.safe b.compare b.interlock

/-- A change that leaves the works, the faces, the lockage, the queues and the numbers alone. -/
theorem Safe.of_same (gates : q.gates = p.gates := by rfl) (sluices : q.sluices = p.sluices := by rfl)
    (faces : q.faces = p.faces := by rfl) (lockage : q.lockage = p.lockage := by rfl)
    (up : q.upQueue = p.upQueue := by rfl) (down : q.downQueue = p.downQueue := by rfl)
    (ticket : q.nextTicket = p.nextTicket := by rfl) (turn : q.turn = p.turn := by rfl)
    (sequence : q.outlets.nextSequence = p.outlets.nextSequence := by rfl)
    (tally : q.outlets.nextTally = p.outlets.nextTally := by rfl) : Safe p q where
  drives h g := by rw [gates]; exact h g
  ranges h k := by rw [sluices]; exact h k
  proceed h f e := by
    have cur : q.curStep = p.curStep := by unfold Part.curStep; rw [lockage]
    rw [faces] at e; rw [gates, cur]; exact h f e
  hulls h := by
    unfold Part.HullsDistinct Part.registered Part.convoy
    rw [up, down, lockage]; exact h
  ordered h := by unfold Part.QueuesOrdered; rw [up, down]; exact h
  numbers h := by unfold Part.NumbersInRange; rw [ticket, turn, sequence, tally]; exact h
  opens g h n := by rw [gates] at h; exact absurd h n
  steps k i h n := by rw [sluices] at h; exact absurd h n

theorem Safe.refl (p : Part) : Safe p p := .of_same

/-! ### The state a command leaves to others -/

/-- What a change leaves to the commands that own it, and what it only adds to. -/
structure Framed (c : Instr) (p q : Part) : Prop where
  settings : c.storesSettings = false → q.settings = p.settings := by exact fun _ => rfl
  clock : c.setsClock = false → q.clock = p.clock ∧ q.secondCount = p.secondCount := by exact fun _ => ⟨rfl, rfl⟩
  ticket : c.spendsTicket = false → q.nextTicket = p.nextTicket := by exact fun _ => rfl
  config : c.configuresOutlets = false → q.outlets.base = p.outlets.base := by exact fun _ => rfl
  link : c.actsOnLink = false → q.base.link = p.base.link := by exact fun _ => rfl
  eStop : (∀ v, c ≠ .powerOn v) → c ≠ .eStopAsserted → c ≠ .eStopNegated → q.eStop = p.eStop := by
    exact fun _ _ _ => rfl
  inhibit : (∀ v, c ≠ .powerOn v) → (∀ b, c ≠ .navInhibitChange b) → q.navInhibit = p.navInhibit := by
    exact fun _ _ => rfl
  straps : (∀ v, c ≠ .powerOn v) → q.straps = p.straps := by exact fun _ => rfl
  closed : (∀ v, c ≠ .powerOn v) → ∀ g, (∀ b, c ≠ .limitInputChange g .closedLimit b) →
    (q.gates.get g).atClosed = (p.gates.get g).atClosed := by exact fun _ _ _ => rfl
  opened : (∀ v, c ≠ .powerOn v) → ∀ g, (∀ b, c ≠ .limitInputChange g .openLimit b) →
    (q.gates.get g).atOpen = (p.gates.get g).atOpen := by exact fun _ _ _ => rfl
  position : (∀ v, c ≠ .powerOn v) → ∀ k, (∀ n, c ≠ .positionFeedbackChange k n) →
    (q.sluices.get k).position = (p.sluices.get k).position := by exact fun _ _ _ => rfl
  reading : ∀ x, c.readsReach x = false → (q.reaches.get x).reading = (p.reaches.get x).reading := by
    exact fun _ _ => rfl
  lamps : c.sensesLamps = false → q.lampTimer = p.lampTimer
    ∧ ∀ f k, (lampOf q.lamps f k).sense = (lampOf p.lamps f k).sense := by exact fun _ => ⟨rfl, fun _ _ => rfl⟩
  sent : (∀ v, c ≠ .powerOn v) → SentGrows p q := by exact fun _ _ => List.prefix_refl _
  records : c.takesRecord = false → RecordsGrow p q := by exact fun _ _ => List.prefix_refl _

theorem Framed.refl (c : Instr) (p : Part) : Framed c p p := {}

theorem Framed.trans (a : Framed c p q) (b : Framed c q r) : Framed c p r where
  settings h := (b.settings h).trans (a.settings h)
  clock h := ⟨(b.clock h).1.trans (a.clock h).1, (b.clock h).2.trans (a.clock h).2⟩
  ticket h := (b.ticket h).trans (a.ticket h)
  config h := (b.config h).trans (a.config h)
  link h := (b.link h).trans (a.link h)
  eStop h m n := (b.eStop h m n).trans (a.eStop h m n)
  inhibit h m := (b.inhibit h m).trans (a.inhibit h m)
  straps h := (b.straps h).trans (a.straps h)
  closed h g m := (b.closed h g m).trans (a.closed h g m)
  opened h g m := (b.opened h g m).trans (a.opened h g m)
  position h k m := (b.position h k m).trans (a.position h k m)
  reading x h := (b.reading x h).trans (a.reading x h)
  lamps h := ⟨(b.lamps h).1.trans (a.lamps h).1, fun f k => ((b.lamps h).2 f k).trans ((a.lamps h).2 f k)⟩
  sent h x := (a.sent h x).trans (b.sent h x)
  records h x := (a.records h x).trans (b.records h x)

/-- What follows the first change of an event writes nothing that another command owns. -/
theorem Moved.framed (c : Instr) (h : Moved p q) : Framed c p q where
  settings _ := (congrArg Part.settings h.base :)
  clock _ := ⟨(congrArg Part.clock h.base :), (congrArg Part.secondCount h.base :)⟩
  ticket _ := (congrArg Part.nextTicket h.base :)
  config _ := (congrArg Part.outlets h.base :)
  link _ := (congrArg Part.link h.base :)
  eStop _ _ _ := (congrArg Part.eStop h.base :)
  inhibit _ _ := (congrArg Part.navInhibit h.base :)
  straps _ := (congrArg Part.straps h.base :)
  closed _ g _ := by
    have e := congrArg (fun v : Part => (v.gates.get g).atClosed) h.base
    simpa [Part.base, Part.still, GateRec.inputs] using e
  opened _ g _ := by
    have e := congrArg (fun v : Part => (v.gates.get g).atOpen) h.base
    simpa [Part.base, Part.still, GateRec.inputs] using e
  position _ k _ := by
    have e := congrArg (fun v : Part => (v.sluices.get k).position) h.base
    simpa [Part.base, Part.still, SluiceRec.feedback] using e
  reading x _ := h.reading x
  lamps _ := ⟨(congrArg Part.lampTimer h.base :), fun f k => by
    have e := congrArg (fun v : Part => lampOf v.lamps f k) h.base
    simpa [Part.base, Part.still] using e⟩
  sent _ := h.sent
  records _ := h.records

/-! ### Lawful changes -/

/-- A change that a command may make. -/
structure Lawful (c : Instr) (p q : Part) : Prop where
  safe : Safe p q
  framed : Framed c p q

theorem Onward.lawful (h : Onward p q) : Lawful c p q := ⟨h.safe, h.framed c⟩

theorem Worked.lawful (h : Worked p q) : Lawful c p q := h.onward.lawful

theorem Lawful.refl (c : Instr) (p : Part) : Lawful c p p := ⟨.refl p, .refl c p⟩

/-- A first change that a command may make, with what follows it. -/
theorem Lawful.onward (a : Lawful c p q) (b : Onward q r) : Lawful c p r :=
  ⟨a.safe.onward b, a.framed.trans (b.framed c)⟩

theorem Lawful.worked (a : Lawful c p q) (b : Worked q r) : Lawful c p r := a.onward b.onward

/-- A first change of an event may come after another that leaves gates and sluices as they stand. -/
theorem Safe.after (a : Safe p q) (gates : q.gates = p.gates) (sluices : q.sluices = p.sluices) (b : Safe q r) :
    Safe p r where
  drives h := b.drives (a.drives h)
  ranges h := b.ranges (a.ranges h)
  proceed h := b.proceed (a.proceed h)
  hulls h := b.hulls (a.hulls h)
  ordered h := b.ordered (a.ordered h)
  numbers h := b.numbers (a.numbers h)
  opens g h n := b.opens g h (by rw [gates]; exact n)
  steps k i h n := b.steps k i h (by rw [sluices]; exact n)

theorem Lawful.after (a : Lawful c p q) (gates : q.gates = p.gates) (sluices : q.sluices = p.sluices)
    (b : Lawful c q r) : Lawful c p r :=
  ⟨a.safe.after gates sluices b.safe, a.framed.trans b.framed⟩

end Sys2Proof.Machine
end

section
/-! PROOFS. Each command is lawful. -/

namespace Sys2Proof.Machine

variable {p q r : Part} {c : Instr}

/-! ### Messages -/

/-- What a port has been sent touches no invariant and no compare. -/
theorem sent_safe (p : Part) (v : Three (List Msg)) : Safe p { p with sent := v } := .of_same

/-- What a part has been sent may be replaced before and after a lawful change where the messages still grow. -/
theorem Lawful.resend {v w : Three (List Msg)} (a : Lawful c { p with sent := v } q)
    (grows : ∀ x, p.sent.get x <+: w.get x) : Lawful c p { q with sent := w } where
  safe := ⟨a.safe.drives, a.safe.ranges, a.safe.proceed, a.safe.hulls, a.safe.ordered, a.safe.numbers, a.safe.opens,
    a.safe.steps⟩
  framed :=
    { settings := a.framed.settings, clock := a.framed.clock, ticket := a.framed.ticket, config := a.framed.config
      link := a.framed.link, eStop := a.framed.eStop, inhibit := a.framed.inhibit, straps := a.framed.straps
      closed := a.framed.closed, opened := a.framed.opened, position := a.framed.position
      reading := a.framed.reading, lamps := a.framed.lamps, sent := fun _ => grows, records := a.framed.records }

/-- A reply that stands before the messages of its effect (R178). -/
theorem acceptFirst_lawful (p : Part) (tag : Tag) (effect : Part → Part) (d : Part → ReplyData)
    (notPower : ∀ v, c ≠ .powerOn v) (h : ∀ q, Lawful c q (effect q)) : Lawful c p (p.acceptFirst tag effect d) := by
  have a := h { p with sent := p.sent.set .a [] }
  refine a.resend fun x => ?_
  have grows := a.framed.sent notPower x
  rw [Three.get_set]
  split
  · next port => subst port; exact (List.prefix_append _ _).trans (List.prefix_append _ _)
  · next other => simpa [Three.get_set, other] using grows

theorem refuse_lawful (p : Part) (x : Port) (tag : Tag) (y : Reason) : Lawful c p (p.refuse x tag y) :=
  (refuse_worked p x tag y).lawful

theorem accept_lawful (p : Part) (x : Port) (tag : Tag) (d : ReplyData) : Lawful c p (p.accept x tag d) :=
  (accept_worked p x tag d).lawful

/-- A first change behind its reply. -/
theorem accept_then {x : Port} {tag : Tag} {d : ReplyData} (h : Lawful c (p.accept x tag d) q) : Lawful c p q :=
  (accept_lawful p x tag d).after rfl rfl h

/-! ### Loads (R165) -/

/-- A settings group stored by a command that may store one. -/
theorem store_lawful (p : Part) (f : Settings → Settings) (h : c.storesSettings = true) : Lawful c p (p.store f) where
  safe := .of_same
  framed := { settings := fun no => by rw [h] at no; cases no }

theorem ifLoads_lawful (p q : Part) (tag : Tag) (h : Lawful c p q) : Lawful c p (p.ifLoads tag q) := by
  unfold Part.ifLoads
  split
  · exact h
  · exact refuse_lawful _ _ _ _

theorem applyFlight_lawful (p : Part) (g : Flight) (h : c.storesSettings = true) : Lawful c p (p.applyFlight g) :=
  ((store_lawful p _ h).onward (deriveCalls_onward _)).onward (settle_onward _ _ _)

/-- A REACH load writes the reading of the reach it names (R18). -/
theorem applyReach_lawful (p : Part) (tag : Tag) (x : Reach) (v : ReachLoad) (g : ReachGroup) :
    Lawful (.loadReach tag x.index v) p (p.applyReach x g) := by
  refine (Lawful.onward (q := { (p.store fun s => { s with reach := s.reach.set x (some g) }) with
    reaches := p.reaches.set x (p.reaches.get x).restarted }) ?_ (announce_onward _ x)).onward (settle_onward _ _ _)
  refine ⟨.of_same, { settings := fun no => (nomatch no), reading := fun y other => ?_ }⟩
  have differs : y ≠ x := fun e => by rw [e] at other; simp [Instr.readsReach] at other
  rw [Five.get_set_ne _ _ _ _ differs]

theorem applyTurns_lawful (p : Part) (t : List TurnEntry) (h : c.storesSettings = true) :
    Lawful c p (p.applyTurns t) := by
  unfold Part.applyTurns
  simp only
  split
  · refine .onward ?_ (settle_onward _ _ _)
    exact (store_lawful p (fun s => { s with turns := some t }) h).onward (turn_onward _ _ id)
  · exact store_lawful p _ h

/-- The outlet unit takes a new configuration and keeps its queues (R146). -/
theorem applyOutlets_lawful (p : Part) (tag : Tag) (v : OutletsLoad) (g : OutletsGroup) :
    Lawful (.loadOutlets tag v) p (p.applyOutlets g) := by
  refine Lawful.onward (q := { (p.store fun s => { s with outlets := some g }) with
    outlets := p.outlets.configure g }) ⟨.of_same, ?_⟩ (settle_onward _ _ _)
  exact
    { settings := fun no => (nomatch no)
      config := fun no => (nomatch no)
      records := fun _ x => by cases x <;> exact List.prefix_refl _ }

theorem applyResponses_lawful (p : Part) (tag : Tag) (v : ResponsesLoad) (g : Responses) :
    Lawful (.loadResponses tag v) p (p.applyResponses g) := by
  unfold Part.applyResponses
  simp only
  split
  · exact ⟨.of_same, { settings := fun no => (nomatch no), link := fun no => (nomatch no) }⟩
  · exact store_lawful p _ rfl

/-! ### Clock, START, datum and lamps -/

theorem setClock_lawful (p : Part) (tag : Tag) (day second : Nat) :
    Lawful (.setClock tag day second) p (p.setClock day second) :=
  ⟨.of_same, { clock := fun no => (nomatch no) }⟩

theorem takeSetClock_lawful (p : Part) (tag : Tag) (day second : Nat) :
    Lawful (.setClock tag day second) p (p.takeSetClock tag day second) := by
  unfold Part.takeSetClock
  split
  · exact refuse_lawful _ _ _ _
  · exact accept_then (setClock_lawful _ _ _ _)

theorem startSurvey_onward (p : Part) : Onward p p.startSurvey :=
  (((enterMode_worked p _).trans (event_worked _ _)).trans (beginSurvey_worked _)).onward.trans (settle_onward _ _ _)

theorem takeStart_onward (p : Part) (tag : Tag) : Onward p (p.takeStart tag) := by
  unfold Part.takeStart
  split
  · exact (refuse_worked _ _ _ _).onward
  · split
    · exact (accept_worked _ _ _ _).onward.trans (startSurvey_onward _)
    · exact (refuse_worked _ _ _ _).onward

theorem applyZero_lawful (p : Part) (x : Reach) (g : ReachGroup) (h : c.storesSettings = true) :
    Lawful c p (p.applyZero x g) := by
  unfold Part.applyZero
  simp only
  refine Lawful.onward ?_ ((driftOf_worked _ x).onward.trans ((announce_onward _ x).trans (settle_onward _ _ _)))
  split
  · exact (store_lawful p _ h).worked (recapture_worked _ _)
  · exact store_lawful p _ h

theorem takeCaptureDatum_lawful (p : Part) (tag : Tag) (i : Nat) (level : Int) :
    Lawful (.captureDatum tag i level) p (p.takeCaptureDatum tag i level) := by
  unfold Part.takeCaptureDatum
  split
  · exact refuse_lawful _ _ _ _
  · split
    · exact refuse_lawful _ _ _ _
    · split
      · exact refuse_lawful _ _ _ _
      · exact accept_then (applyZero_lawful _ _ _ rfl)

theorem clearLamps_lawful (p : Part) (tag : Tag) : Lawful (.lampClear tag) p p.clearLamps :=
  ⟨.of_same, { lamps := fun no => (nomatch no) }⟩

theorem takeLampClear_lawful (p : Part) (tag : Tag) : Lawful (.lampClear tag) p (p.takeLampClear tag) := by
  unfold Part.takeLampClear
  split
  · exact refuse_lawful _ _ _ _
  · exact accept_then (clearLamps_lawful _ _)

/-! ### The vessel queues -/

theorem placeVessel_perm (v : Vessel) (q : List Vessel) : (placeVessel v q).Perm (v :: q) := by
  unfold placeVessel
  split
  · exact List.perm_middle.trans (.of_eq (by rw [List.takeWhile_append_dropWhile]))
  · exact List.perm_append_singleton v q

/-- A queue replaced by one that holds another vessel leaves the hull marks distinct if that one's is new (R48). -/
theorem setQueue_hulls (p : Part) (d : Direction) (v : Vessel) (q : List Vessel) (h : q.Perm (v :: p.queueOf d))
    (fresh : p.hullInUse v.hull = false) (o : p.HullsDistinct) : (p.setQueue d q).HullsDistinct := by
  have others : ((v :: p.registered).map (·.hull)).Nodup := by
    rw [List.map_cons, List.nodup_cons]
    refine ⟨fun m => ?_, o⟩
    obtain ⟨w, mem, same⟩ := List.mem_map.1 m
    simp only [Part.hullInUse, List.any_eq_false, decide_eq_true_eq] at fresh
    exact fresh w mem same
  refine HullsLe.of_perm ?_ others
  refine (registered_perm (p.setQueue d q) d).symm.trans (.trans ?_ ((registered_perm p d).cons v))
  rw [queueOf_setQueue, queueOf_setQueue, if_pos rfl, if_neg (opposite_ne d)]
  have convoy : (p.setQueue d q).convoy = p.convoy := by cases d <;> rfl
  rw [convoy]
  exact (h.append_right _).append_right _

theorem enrol_lawful (p : Part) (tag : Tag) (w : RegisterRequest) (v : Vessel) (fresh : p.hullInUse v.hull = false) :
    Lawful (.register tag w) p (p.enrol v) := by
  have a : Moved p (p.setQueue v.direction (placeVessel v (p.queueOf v.direction))) :=
    setQueue_moved p _ _ (placeVessel_ordered v _)
  refine Lawful.onward (q := { p.setQueue v.direction (placeVessel v (p.queueOf v.direction)) with
    nextTicket := nextNumber v.ticket }) ⟨?_, ?_⟩ (deriveCalls_onward _)
  · have faces : (p.setQueue v.direction (placeVessel v (p.queueOf v.direction))).ProceedGuarded ↔ p.ProceedGuarded := by
      cases v.direction <;> exact Iff.rfl
    exact ⟨a.drives, a.ranges, faces.2, setQueue_hulls p _ v _ (placeVessel_perm v _) fresh, a.ordered,
      fun h => ⟨nextNumber_assignable _, (a.numbers h).2⟩, a.opens, a.steps⟩
  · exact (a.framed _).trans { ticket := fun no => (nomatch no) }

theorem registerRefusal_fresh (p : Part) (v : RegisterRequest) (h : p.registerRefusal v = none) :
    p.hullInUse v.hull = false := by
  unfold Part.registerRefusal at h
  split at h
  · cases h
  · split at h
    · cases h
    · next fresh => simpa using fresh

theorem takeRegister_lawful (p : Part) (tag : Tag) (v : RegisterRequest) :
    Lawful (.register tag v) p (p.takeRegister tag v) := by
  unfold Part.takeRegister
  split
  · exact refuse_lawful _ _ _ _
  · next accepted =>
    split
    · refine accept_then (.onward (enrol_lawful _ _ _ _ ?_) (settle_onward _ _ _))
      exact registerRefusal_fresh p v accepted
    · exact refuse_lawful _ _ _ _

/-- Records that leave a queue leave the others in order and the hull marks distinct (R52). -/
theorem setQueue_sublist_onward (p : Part) (d : Direction) (q : List Vessel) (h : q.Sublist (p.queueOf d)) :
    Onward p (p.setQueue d q) where
  toMoved := setQueue_moved p d q (priorityFirst_sublist h)
  proceed := by cases d <;> exact id
  hulls := by
    refine hulls_of_le (HullsLe.trans (.of_perm (registered_perm (p.setQueue d q) d).symm)
      (HullsLe.trans (.of_sublist ?_) (.of_perm (registered_perm p d))))
    rw [queueOf_setQueue, queueOf_setQueue, if_pos rfl, if_neg (opposite_ne d)]
    have convoy : (p.setQueue d q).convoy = p.convoy := by cases d <;> rfl
    rw [convoy]
    exact (h.append_right _).append_right _

theorem takeCancel_onward (p : Part) (tag : Tag) (ticket : Nat) : Onward p (p.takeCancel tag ticket) := by
  unfold Part.takeCancel
  split
  · exact (refuse_worked _ _ _ _).onward
  · split
    · exact (refuse_worked _ _ _ _).onward
    · exact ((accept_worked p .a tag _).onward.trans
        (setQueue_sublist_onward _ _ _ (List.eraseIdx_sublist _ _))).trans
          ((deriveCalls_onward _).trans (settle_onward _ _ _))

/-! ### The clearances -/

/-- The current lockage's record replaced with its convoy, plan and place kept, and the reply (R103). -/
theorem storeClearance_onward (p : Part) (tag : Tag) (l m : Lockage) (a b : Bool) (h : p.lockage = some l)
    (convoy : m.convoy = l.convoy) (plan : m.plan = l.plan) (current : m.current = l.current) :
    Onward p (p.storeClearance tag m a b) := by
  refine .trans ?_ (accept_worked _ _ _ _).onward
  refine (lockage_moved p (some m)).onward_same rfl rfl ?_ rfl rfl ?_
  · simp only [Part.curStep, h, plan, current]
  · rw [convoy_of p h]; exact convoy

theorem releaseEntry_onward (p : Part) : Onward p p.releaseEntry := by
  unfold Part.releaseEntry
  split
  · exact (moveUnderWay_worked _ _ _).onward
  · exact .refl _

theorem entryClear_onward (p : Part) (tag : Tag) (l : Lockage) (h : p.lockage = some l) :
    Onward p (p.entryClear tag l) := by
  unfold Part.entryClear
  split
  · exact (refuse_worked _ _ _ _).onward
  · split
    · exact (accept_worked _ _ _ _).onward
    · refine .trans ?_ (settle_onward _ _ _)
      refine .trans ?_ (releaseEntry_onward _)
      exact storeClearance_onward p tag l { l with entry := .given } false false h rfl rfl rfl

theorem entryRefuse_onward (p : Part) (tag : Tag) (l : Lockage) (h : p.lockage = some l) :
    Onward p (p.entryRefuse tag l) := by
  unfold Part.entryRefuse
  split
  · exact (refuse_worked _ _ _ _).onward
  · split
    · exact (refuse_worked _ _ _ _).onward
    · split
      · exact (accept_worked _ _ _ _).onward
      · split
        · refine .trans ?_ (settle_onward _ _ _)
          refine .trans ?_ (withdraw_onward _)
          exact storeClearance_onward p tag l { l with entry := .refused } true false h rfl rfl rfl
        · exact storeClearance_onward p tag l { l with entry := .refused } false false h rfl rfl rfl

theorem exitClear_onward (p : Part) (tag : Tag) (l : Lockage) (h : p.lockage = some l) :
    Onward p (p.exitClear tag l) := by
  unfold Part.exitClear
  split
  · exact (refuse_worked _ _ _ _).onward
  · split
    · exact (refuse_worked _ _ _ _).onward
    · split
      · exact (accept_worked _ _ _ _).onward
      · refine .trans ?_ (settle_onward _ _ _)
        have a := storeClearance_onward p tag l { l with exit := .given } false false h rfl rfl rfl
        split
        · exact a.trans (advance_onward _)
        · exact a.trans (reevaluateOpen_onward _)

theorem commitInHand_step (p : Part) (h : p.commitInHand = true) : ∃ s, p.curStep = some s ∧ s.work = .commit := by
  unfold Part.commitInHand at h
  split at h
  · next s e =>
    simp only [Bool.and_eq_true, decide_eq_true_eq] at h
    exact ⟨s, e, h.1⟩
  · cases h

theorem exitRefuse_onward (p : Part) (tag : Tag) (l : Lockage) (h : p.lockage = some l) :
    Onward p (p.exitRefuse tag l) := by
  unfold Part.exitRefuse
  split
  · exact (refuse_worked _ _ _ _).onward
  · split
    · exact (accept_worked _ _ _ _).onward
    · split
      · exact (refuse_worked _ _ _ _).onward
      · split
        · exact (accept_worked _ _ _ _).onward
        · split
          · refine .trans ?_ (settle_onward _ _ _)
            refine .trans ?_ (reevaluateOpen_onward _)
            exact storeClearance_onward p tag l { l with exit := .refused, late := true } false false h rfl rfl rfl
          · split
            · next commit =>
              obtain ⟨s, cur, work⟩ := commitInHand_step p commit
              have a := storeClearance_onward p tag l { l with exit := .refused } false true h rfl rfl rfl
              have cur' : (p.storeClearance tag { l with exit := .refused } false true).curStep = some s := by
                rw [← cur]; simp only [Part.curStep, Part.storeClearance, accept_lockage, h]
              refine .trans ?_ (settle_onward _ _ _)
              exact (a.trans (turnedBack_onward _ cur' work)).trans (advance_onward _)
            · refine .trans ?_ (settle_onward _ _ _)
              refine .trans ?_ (reevaluateOpen_onward _)
              exact storeClearance_onward p tag l { l with exit := .refused } false false h rfl rfl rfl

theorem ifCurrent_onward (p : Part) (tag : Tag) (n : Nat) (f : Lockage → Part)
    (h : ∀ l, p.lockage = some l → Onward p (f l)) : Onward p (p.ifCurrent tag n f) := by
  unfold Part.ifCurrent
  split
  · next l e =>
    split
    · exact h l e
    · exact (refuse_worked _ _ _ _).onward
  · exact (refuse_worked _ _ _ _).onward

/-! ### MOVE_DONE and TRIM -/

theorem endMove_onward (p : Part) (g : Gate) (d : Direction) : Onward p (p.endMove g d) := by
  refine .trans (Worked.onward ?_) (advance_onward _)
  exact (onLockage_worked p (fun l => { l with moveTimer := none }) fun _ => rfl).trans (requestAspect_worked _ _ _)

theorem confirmMove_onward (p : Part) (g : Gate) (d : Direction) : Onward p (p.confirmMove g d) := by
  unfold Part.confirmMove
  split
  · exact (endMove_onward p g d).trans (settle_onward _ _ _)
  · exact onLockage_plain p _ (fun _ => rfl) (fun _ => rfl) fun _ => rfl

theorem moveDone_onward (p : Part) (tag : Tag) (i : Nat) (l : Lockage) : Onward p (p.moveDone tag i l) := by
  unfold Part.moveDone
  split
  · split
    · exact (accept_worked p .a tag .nothing).onward.trans (confirmMove_onward _ _ _)
    · exact (refuse_worked _ _ _ _).onward
  · exact (refuse_worked _ _ _ _).onward

theorem trimmed_range (trim a : Int) : -15 ≤ trimmed trim a ∧ trimmed trim a ≤ 15 := by
  unfold trimmed clampInt
  split
  · omega
  · split <;> omega

theorem takeTrim_onward (p : Part) (tag : Tag) (i : Nat) (a : Int) : Onward p (p.takeTrim tag i a) := by
  unfold Part.takeTrim
  split
  · split
    · unfold Part.trimSluice
      simp only
      split
      · exact (refuse_worked _ _ _ _).onward
      · next k _ _ _ =>
        have w : Worked p (p.putSluice k { p.sluices.get k with trim := trimmed (p.sluices.get k).trim a }) :=
          putSluice_worked p k _ rfl (fun _ => trimmed_range _ _) (fun _ x y => absurd x y)
        exact ((w.trans (accept_worked _ _ _ _)).trans (retestRamp_worked _ _)).onward
    · exact (refuse_worked _ _ _ _).onward
  · exact (refuse_worked _ _ _ _).onward

/-! ### HALT, RESUME, ABANDON -/

theorem takeHalt_lawful (p : Part) (tag : Tag) : Lawful (.halt tag) p (p.takeHalt tag) := by
  unfold Part.takeHalt
  split
  · exact accept_lawful _ _ _ _
  · exact acceptFirst_lawful p tag _ _ (fun _ => nofun) fun q =>
      ((report_worked q _ _).onward.trans (settle_onward _ _ _)).lawful

theorem leaveHalt_worked (p : Part) (m : Mode) : Worked p (p.leaveHalt m) :=
  ((faults_worked p _).trans (enterMode_worked _ _)).trans (event_worked _ _)

theorem restartRelevel_onward (p : Part) (g : Gate) (n : Nat) : Onward p (p.restartRelevel g n) := by
  unfold Part.restartRelevel
  simp only
  have a := (setStage_worked p .levelling).onward.trans (beginTransfer_onward (p.setStage .levelling) g n)
  split
  · exact a.trans (transferReported_onward _ _ _)
  · exact a

theorem restartStep_onward (p : Part) (l : Lockage) (s : PlanStep) : Onward p (p.restartStep l s) := by
  unfold Part.restartStep
  split
  · simp only
    split
    · exact (makeCurrent_onward p l.current).trans (restartRelevel_onward _ _ _)
    · exact (makeCurrent_onward _ _).trans (work_onward _)
  · split
    · exact (makeCurrent_onward _ _).trans (endMove_onward _ _ _)
    · split
      · exact (makeCurrent_onward _ _).trans (work_onward _)
      · exact (makeCurrent_onward _ _).trans (work_onward _)
  · exact (makeCurrent_onward _ _).trans (work_onward _)

theorem resumeLockage_onward (p : Part) : Onward p p.resumeLockage := by
  unfold Part.resumeLockage
  split
  · split
    · exact withdraw_onward p
    · simp only
      split
      · exact restartStep_onward _ _ _
      · exact (requestAspect_worked p _ _).onward.trans (restartStep_onward _ _ _)
  · exact .refl p

/-- A survey taken up again after a halt (R126). -/
theorem surveyAgain_onward (p : Part) : Onward p ((p.leaveHalt .survey).beginSurvey.settle) :=
  ((leaveHalt_worked p _).trans (beginSurvey_worked _)).onward.trans (settle_onward _ _ _)

theorem resumeFlight_onward (p : Part) : Onward p p.resumeFlight := by
  unfold Part.resumeFlight
  split
  · exact ((leaveHalt_worked p _).onward.trans (resumeLockage_onward _)).trans (settle_onward _ _ _)
  · exact surveyAgain_onward p

theorem takeResume_lawful (p : Part) (tag : Tag) : Lawful (.resume tag) p (p.takeResume tag) := by
  unfold Part.takeResume
  split
  · exact refuse_lawful _ _ _ _
  · split
    · exact refuse_lawful _ _ _ _
    · exact acceptFirst_lawful p tag _ _ (fun _ => nofun) fun q => (resumeFlight_onward q).lawful

theorem abandonFlight_onward (p : Part) : Onward p p.abandonFlight := by
  unfold Part.abandonFlight
  split
  · simp only
    have a := faults_worked p { p.faults with halt := none }
    refine .trans (.trans ?_ (event_worked _ _).onward) (settle_onward _ _ _)
    refine .trans ?_ (endLockage_onward _ _)
    split
    · exact a.onward
    · exact (a.trans (closeEntry_worked _ _ _)).onward
  · exact surveyAgain_onward p

theorem takeAbandon_onward (p : Part) (tag : Tag) : Onward p (p.takeAbandon tag) := by
  unfold Part.takeAbandon
  split
  · exact (refuse_worked _ _ _ _).onward
  · exact (accept_worked _ _ _ _).onward.trans (abandonFlight_onward _)

/-! ### The outlet unit's requests -/

/-- The tally's state alone changes. -/
theorem setTally_onward (p : Part) (t : TallyState) : Onward p { p with outlets := { p.outlets with tally := t } } :=
  (Recorded.of_unit (p := p) { p.outlets with tally := t } rfl rfl id id).onward

theorem forceTally_onward (p : Part) : Onward p p.forceTally := by
  unfold Part.forceTally
  split
  · split
    · exact (setTally_onward p _).trans (settle_onward _ _ _)
    · exact ((setTally_onward p _).trans (tryTally_recorded _).onward).trans (settle_onward _ _ _)
  · exact .refl p

theorem takeForceTally_lawful (p : Part) (tag : Tag) : Lawful (.forceTally tag) p (p.takeForceTally tag) :=
  acceptFirst_lawful (c := .forceTally tag) p tag Part.forceTally _ (fun _ => nofun)
    fun q => (forceTally_onward q).lawful

/-- A record taken off the head of an outlet's queue (R150). -/
theorem removeHead_lawful (p : Part) (x : Port) (tag : Tag) (n : Nat) : Lawful (.taken x tag n) p (p.removeHead x) where
  safe := .of_same
  framed :=
    { config := fun _ => by
        unfold OutletUnit.base Part.removeHead Part.putOutlet
        cases x <;> rfl
      records := fun no => (nomatch no) }

theorem takeTaken_lawful (p : Part) (x : Port) (tag : Tag) (n : Nat) :
    Lawful (.taken x tag n) p (p.takeTaken x tag n) := by
  unfold Part.takeTaken
  split
  · split
    · unfold Part.takeHead
      refine (removeHead_lawful p x tag n).onward (.trans ?_ (settle_onward _ _ _))
      exact (((send_recorded _ _ _).trans (offerHead_recorded _ _)).trans
        ((settleTally_recorded _).trans (tryTally_recorded _))).onward
    · exact refuse_lawful _ _ _ _
  · exact refuse_lawful _ _ _ _

/-! ### Queries -/

theorem showConditions_worked (p : Part) (tag : Tag) : Worked p (p.showConditions tag) :=
  (send_worked _ _ _).trans (note_worked _ _)

theorem query_worked (p : Part) (tag : Tag) (d : ReplyData) : Worked p (p.query tag d) := by
  unfold Part.query
  split
  · exact showConditions_worked p tag
  · exact accept_worked _ _ _ _

theorem takePeek_worked (p : Part) (x : Port) (tag : Tag) : Worked p (p.takePeek x tag) := by
  unfold Part.takePeek
  split
  · exact query_worked _ _ _
  · exact accept_worked _ _ _ _

end Sys2Proof.Machine
end

section
/-! PROOFS. Every command is lawful: requests, resets, the field's inputs and the bytes of the link. -/

namespace Sys2Proof.Machine

variable {p q r : Part} {c : Instr}

theorem Lawful.trans (a : Lawful c p q) (b : Lawful c q r) (compare : ∀ g, r.compare g = q.compare g)
    (interlock : ∀ g, r.interlock g = q.interlock g) : Lawful c p r :=
  ⟨a.safe.trans b.safe compare interlock, a.framed.trans b.framed⟩

/-! ### Resets (R172) -/

/-- Where no OPEN drive is on, what follows may change the compares. -/
theorem Safe.from_idle (a : Safe p q) (idle : ∀ g, (q.gates.get g).drive ≠ .openDrive) (b : Safe q r)
    (interlock : ∀ g, r.interlock g = q.interlock g) : Safe p r where
  drives h := b.drives (a.drives h)
  ranges h := b.ranges (a.ranges h)
  proceed h := b.proceed (a.proceed h)
  hulls h := b.hulls (a.hulls h)
  ordered h := b.ordered (a.ordered h)
  numbers h := b.numbers (a.numbers h)
  opens g h _ := b.opens g h (idle g)
  steps k i h n := by
    by_cases m : (q.sluices.get k).step = some (.up, i)
    · rw [interlock]; exact a.steps k i m n
    · exact b.steps k i h m

theorem closeSluice_gates (p : Part) (k : Sluice) : (p.closeSluice k).gates = p.gates := by
  unfold Part.closeSluice
  simp only
  split
  · rfl
  · split <;> rfl

/-- The works as a reset begins them, before the close commands (R23, R29). -/
def Part.worksReset (p : Part) : Part :=
  { p with gates := p.gates.map GateRec.reset, sluices := p.sluices.map SluiceRec.reset }

theorem closeAll_worked (p : Part) : Worked p (Gate.all.foldl Part.closeSluice p) :=
  foldl_worked p _ closeSluice_worked _

/-- The reset of the works: the records, the close commands, then faces and lamps (R172, step 3). -/
theorem resetWorks_form (p : Part) : ∃ q, Worked p.worksReset q ∧ q.gates = p.gates.map GateRec.reset
    ∧ p.resetWorks = { q with
      faces := faceMap FaceRec.reset, lamps := lampMap LampRec.reset, lampTimer := Config.lampPeriod } := by
  refine ⟨_, closeAll_worked p.worksReset, ?_, rfl⟩
  simp only [Gate.all, List.foldl_cons, List.foldl_nil, closeSluice_gates]
  rfl

@[simp] theorem resetWorks_gates (p : Part) : p.resetWorks.gates = p.gates.map GateRec.reset := by
  obtain ⟨q, _, gates, e⟩ := resetWorks_form p
  rw [e, ← gates]

theorem reset_drive (r : GateRec) : r.reset.state.drive = .off := by
  unfold GateRec.reset limitState
  dsimp only
  split
  · rfl
  · split <;> rfl

theorem resetWorks_idle (p : Part) (g : Gate) : (p.resetWorks.gates.get g).drive ≠ .openDrive := by
  rw [resetWorks_gates, Four.get_map]
  exact fun h => nomatch h

/-- No face shows PROCEED after a reset (R39). -/
theorem resetWorks_guarded (p : Part) : p.resetWorks.ProceedGuarded := by
  obtain ⟨q, _, _, e⟩ := resetWorks_form p
  intro f h
  rw [e] at h
  simp only [faceOf_faceMap, FaceRec.reset] at h
  split at h <;> cases h

/-- The reset of the works makes a part sound whose queues and numbers were, with no OPEN drive and no up-step. -/
theorem resetWorks_safe (position : p.SluicesInRange → ∀ k, (q.sluices.get k).position ≤ 15)
    (hulls : p.HullsDistinct → q.HullsDistinct) (ordered : p.QueuesOrdered → q.QueuesOrdered)
    (numbers : p.NumbersInRange → q.NumbersInRange) : Safe p q.resetWorks := by
  have drives : q.resetWorks.DrivesMatch := fun g => by
    rw [resetWorks_gates, Four.get_map, reset_drive]; rfl
  have idle := resetWorks_idle q
  have guarded := resetWorks_guarded q
  obtain ⟨x, w, _, e⟩ := resetWorks_form q
  rw [e] at drives idle guarded ⊢
  have begun : p.SluicesInRange → q.worksReset.SluicesInRange := fun h k => by
    simp only [Part.worksReset, Four.get_map, SluiceRec.reset, SluiceRec.initial]
    exact ⟨position h k, by omega⟩
  have still : ∀ k n, (q.worksReset.sluices.get k).step ≠ some (.up, n) := fun k n => by
    simp [Part.worksReset, SluiceRec.reset, SluiceRec.initial]
  exact ⟨fun _ => drives, fun h => w.ranges (begun h), fun _ => guarded, fun h => w.onward.hulls (hulls h),
    fun h => w.onward.ordered (ordered h), fun h => w.onward.numbers (numbers h), fun g h => absurd h (idle g),
    fun k n h _ => w.steps k n h (still k n)⟩

/-- What the reset of the works leaves to others. -/
theorem resetWorks_framed (p : Part) (h : c.sensesLamps = true) : Framed c p p.resetWorks := by
  have begun : Framed c p p.worksReset :=
    { closed := fun _ g _ => by rw [Part.worksReset, Four.get_map]; rfl
      opened := fun _ g _ => by rw [Part.worksReset, Four.get_map]; rfl
      position := fun _ k _ => by rw [Part.worksReset, Four.get_map]; rfl }
  obtain ⟨x, w, _, e⟩ := resetWorks_form p
  rw [e]
  exact (begun.trans (w.moved.framed c)).trans { lamps := fun no => by rw [h] at no; cases no }

theorem discardLockage_form (p : Part) : ∃ n b t, p.discardLockage = { p with
    lockage := none, outlets := { p.outlets with counters := n, saturated := b, tally := t } } := by
  unfold Part.discardLockage
  split
  · next none => exact ⟨_, _, _, by rw [← none]⟩
  · obtain ⟨n, b, e⟩ := bump_same p.outlets .lostToReset 1
    exact ⟨n, b, _, by rw [e]⟩

/-- A restart's first steps make the works sound and drop the lockage (R172, steps 1 to 3). -/
theorem discarded_lawful (p : Part) (h : c.sensesLamps = true) :
    Lawful c p p.discardLockage.clearFaults.resetWorks := by
  obtain ⟨n, b, t, e⟩ := discardLockage_form p
  rw [e]
  refine ⟨resetWorks_safe (fun h k => (h k).1) (fun h => ?_) id id, Framed.trans {} (resetWorks_framed _ h)⟩
  refine HullsLe.of_sublist ?_ h
  exact List.Sublist.append_left (List.nil_sublist _) _

/-- A change after which no OPEN drive is on, with another that leaves the interlocks. -/
theorem Lawful.from_idle (a : Lawful c p q) (idle : ∀ g, (q.gates.get g).drive ≠ .openDrive) (b : Lawful c q r)
    (interlock : ∀ g, r.interlock g = q.interlock g) : Lawful c p r :=
  ⟨a.safe.from_idle idle b.safe interlock, a.framed.trans b.framed⟩

theorem Lawful.resetReaches (a : Lawful c p q) (idle : ∀ g, (q.gates.get g).drive ≠ .openDrive)
    (h : ∀ r, c.readsReach r = true) : Lawful c p q.resetReaches :=
  a.from_idle idle ⟨.of_same, { reading := fun x no => by rw [h x] at no; cases no }⟩ fun _ => rfl

theorem clearSettings_lawful (p : Part) (h : c.storesSettings = true) : Lawful c p p.clearSettings where
  safe :=
    { drives := id, ranges := id, proceed := id
      hulls := HullsLe.of_sublist (List.sublist_append_right _ _)
      ordered := fun _ => ⟨nofun, nofun⟩
      numbers := id
      opens := fun _ h n => absurd h n
      steps := fun _ _ h n => absurd h n }
  framed := { settings := fun no => by rw [h] at no; cases no }

theorem Lawful.clearSettings (a : Lawful c p q) (idle : ∀ g, (q.gates.get g).drive ≠ .openDrive)
    (h : c.storesSettings = true) : Lawful c p q.clearSettings :=
  a.from_idle idle (clearSettings_lawful q h) fun _ => rfl

theorem resetTurn_onward (p : Part) (kind : RestartKind) : Onward p (p.resetTurn kind) :=
  (deriveCalls_onward p).trans (turn_onward p.deriveCalls _ id)

theorem resetMode_worked (p : Part) (kind : RestartKind) : Worked p (p.resetMode kind) := by
  unfold Part.resetMode
  split
  · exact (mode_worked p .survey).trans (surveyWork_worked _)
  · exact mode_worked p .startup

theorem Lawful.resetLink (a : Lawful c p q) (x : RestartCause) (h : c.actsOnLink = true) :
    Lawful c p (q.resetLink x) :=
  a.trans ⟨.of_same, { link := fun no => by rw [h] at no; cases no }⟩ (fun _ => rfl) fun _ => rfl

theorem reportDouble_worked (p : Part) (g : Gate) : Worked p (p.reportDouble g) := by
  unfold Part.reportDouble
  simp only
  split
  · exact report_worked p _ _
  · exact .refl p

/-- What a restart has emptied once its queues and settings are settled (R172, steps 1 to 5). -/
def Part.emptied (p : Part) : RestartKind → Part
  | .keep => p.discardLockage.clearFaults.resetWorks.resetReaches
  | .clear => p.discardLockage.clearFaults.resetWorks.resetReaches.clearSettings

/-- The cause a restart leaves in the condition record. -/
def restartCause : RestartKind → RestartCause
  | .keep => .keep
  | .clear => .clear

theorem restart_eq (p : Part) (kind : RestartKind) : p.restart kind =
    (Gate.all.foldl Part.reportDouble ((((p.emptied kind).resetTurn kind).resetMode kind).resetLink
      (restartCause kind)).eStopStanding.reofferOutlets).settle := by
  cases kind <;> rfl

theorem emptied_lawful (p : Part) (kind : RestartKind) (lamps : c.sensesLamps = true)
    (reading : ∀ r, c.readsReach r = true) (settings : kind = .clear → c.storesSettings = true) :
    Lawful c p (p.emptied kind) := by
  have a := discarded_lawful (c := c) p lamps
  have idle := resetWorks_idle p.discardLockage.clearFaults
  unfold Part.emptied
  generalize p.discardLockage.clearFaults.resetWorks = q at a idle ⊢
  cases kind with
  | keep => exact a.resetReaches idle reading
  | clear => exact (a.resetReaches idle reading).clearSettings idle (settings rfl)

theorem restart_lawful (p : Part) (kind : RestartKind) (lamps : c.sensesLamps = true) (link : c.actsOnLink = true)
    (reading : ∀ r, c.readsReach r = true) (settings : kind = .clear → c.storesSettings = true) :
    Lawful c p (p.restart kind) := by
  rw [restart_eq]
  refine .onward ?_ (settle_onward _ _ _)
  refine .worked ?_ (foldl_worked _ _ reportDouble_worked _)
  refine .onward ?_ (reofferOutlets_recorded _).onward
  refine .worked ?_ (eStopStanding_worked _)
  refine .resetLink ?_ _ link
  refine .worked ?_ (resetMode_worked _ _)
  exact (emptied_lawful p kind lamps reading settings).onward (resetTurn_onward _ _)

theorem takeRestart_lawful (p : Part) (tag : Tag) (kind : RestartKind) (lamps : c.sensesLamps = true)
    (link : c.actsOnLink = true) (reading : ∀ r, c.readsReach r = true)
    (settings : kind = .clear → c.storesSettings = true) : Lawful c p (p.takeRestart tag kind) :=
  accept_then (restart_lawful _ kind lamps link reading settings)

/-- Power-on writes everything. -/
theorem powerOn_framed (v : FieldInputs) (p q : Part) : Framed (.powerOn v) p q where
  settings no := nomatch no
  clock no := nomatch no
  ticket no := nomatch no
  config no := nomatch no
  link no := nomatch no
  eStop no := absurd rfl (no v)
  inhibit no := absurd rfl (no v)
  straps no := absurd rfl (no v)
  closed no := absurd rfl (no v)
  opened no := absurd rfl (no v)
  position no := absurd rfl (no v)
  reading _ no := nomatch no
  lamps no := nomatch no
  sent no := absurd rfl (no v)
  records no := nomatch no

/-- The part that power-on resets: empty, with the field as it stands. -/
theorem powered_safe (p : Part) (v : FieldInputs) : Safe p (Part.initial.withInputs v).resetWorks := by
  have field : ∀ k, ((Part.initial.withInputs v).sluices.get k).position ≤ 15 := by
    intro k
    cases k <;> exact Nat.le_of_lt_succ (Fin.isLt _)
  have first : assignable 1 := ⟨Nat.le_refl 1, by omega⟩
  exact resetWorks_safe (fun _ => field) (fun _ => List.nodup_nil) (fun _ => ⟨nofun, nofun⟩)
    fun _ => ⟨first, first, first, first⟩

theorem powerOn_lawful (p : Part) (v : FieldInputs) : Lawful (.powerOn v) p (Part.powerOn v) := by
  have a : Lawful (.powerOn v) p (Part.initial.withInputs v).resetWorks := ⟨powered_safe p v, powerOn_framed v _ _⟩
  exact ((a.resetLink .power rfl).worked (foldl_worked _ _ reportDouble_worked _)).onward (settle_onward _ _ _)

/-! ### Requests -/

/-- A request, as its block takes it, makes only the changes its command may make. -/
theorem request_lawful (i : Instr) (p : Part) : Lawful i p (p.request i) := by
  cases i with
  | loadFlight tag v =>
    exact ifLoads_lawful _ _ _ (acceptFirst_lawful _ _ _ _ (fun _ => nofun) fun _ => applyFlight_lawful _ _ rfl)
  | loadReach tag i v =>
    refine ifLoads_lawful _ _ _ ?_
    split
    · next x e =>
      obtain rfl : i = x.index := by
        unfold Reach.ofIndex at e
        split at e <;> cases e <;> rfl
      exact acceptFirst_lawful _ _ _ _ (fun _ => nofun) fun _ => applyReach_lawful _ _ _ _ _
    · exact refuse_lawful _ _ _ _
  | loadWorks tag v =>
    exact ifLoads_lawful _ _ _ (acceptFirst_lawful _ _ _ _ (fun _ => nofun) fun _ => store_lawful _ _ rfl)
  | loadTariff tag v =>
    exact ifLoads_lawful _ _ _ (acceptFirst_lawful _ _ _ _ (fun _ => nofun) fun _ => store_lawful _ _ rfl)
  | loadTurns tag v =>
    exact ifLoads_lawful _ _ _ (acceptFirst_lawful _ _ _ _ (fun _ => nofun) fun _ => applyTurns_lawful _ _ rfl)
  | loadOutlets tag v =>
    refine ifLoads_lawful _ _ _ ?_
    split
    · exact refuse_lawful _ _ _ _
    · exact acceptFirst_lawful _ _ _ _ (fun _ => nofun) fun _ => applyOutlets_lawful _ _ _ _
  | loadResponses tag v =>
    exact ifLoads_lawful _ _ _ (acceptFirst_lawful _ _ _ _ (fun _ => nofun) fun _ => applyResponses_lawful _ _ _ _)
  | setClock tag day second => exact takeSetClock_lawful _ _ _ _
  | start tag => exact (takeStart_onward _ _).lawful
  | register tag v => exact takeRegister_lawful _ _ _
  | cancel tag ticket => exact (takeCancel_onward _ _ _).lawful
  | entryClear tag n => exact (ifCurrent_onward _ _ _ _ (entryClear_onward p tag)).lawful
  | entryRefuse tag n => exact (ifCurrent_onward _ _ _ _ (entryRefuse_onward p tag)).lawful
  | exitClear tag n => exact (ifCurrent_onward _ _ _ _ (exitClear_onward p tag)).lawful
  | exitRefuse tag n => exact (ifCurrent_onward _ _ _ _ (exitRefuse_onward p tag)).lawful
  | moveDone tag n i => exact (ifCurrent_onward _ _ _ _ fun l _ => moveDone_onward p tag i l).lawful
  | trim tag k a => exact (takeTrim_onward _ _ _ _).lawful
  | halt tag => exact takeHalt_lawful _ _
  | resume tag => exact takeResume_lawful _ _
  | abandon tag => exact (takeAbandon_onward _ _).lawful
  | forceTally tag => exact takeForceTally_lawful _ _
  | captureDatum tag r level => exact takeCaptureDatum_lawful _ _ _ _
  | lampClear tag => exact takeLampClear_lawful _ _
  | restartKeep tag => exact takeRestart_lawful p tag .keep rfl rfl (fun _ => rfl) nofun
  | restartClear tag => exact takeRestart_lawful p tag .clear rfl rfl (fun _ => rfl) fun _ => rfl
  | conditionRead tag => exact (showConditions_worked _ _).lawful
  | queryFlight tag => exact (query_worked _ _ _).lawful
  | queryQueues tag => exact (query_worked _ _ _).lawful
  | queryLockage tag => exact (query_worked _ _ _).lawful
  | queryOutlets tag => exact (query_worked _ _ _).lawful
  | queryLink tag => exact (query_worked _ _ _).lawful
  | taken x tag n => exact takeTaken_lawful _ _ _ _
  | peek x tag => exact (takePeek_worked _ _ _).lawful
  | _ => exact .refl _ _

end Sys2Proof.Machine
end

section
/-! PROOFS. The field's commands and the bytes of the link. -/

namespace Sys2Proof.Machine

variable {p q r : Part} {c : Instr}

/-! ### The field's commands -/

/-- The reading of one reach is written by a command of that reach. -/
theorem setReach_lawful (p : Part) (x : Reach) (v : ReachRec) (h : ∀ y, c.readsReach y = false → y ≠ x) :
    Lawful c p { p with reaches := p.reaches.set x v } :=
  ⟨.of_same, { reading := fun y no => by rw [Five.get_set_ne _ _ _ _ (h y no)] }⟩

theorem sampleArrival_lawful (x : Reach) (raw : Fin 4096) (p : Part) (v : ReachRec) (was : ReadingClass) (b : Bool) :
    Lawful (.sampleArrival x raw) p ((((({ p with reaches := p.reaches.set x v } : Part).noteClass x
      was).examineReach x).driftOf x).announce x |>.settle b) := by
  refine .onward ?_ (settle_onward _ _ _)
  refine .onward ?_ (announce_onward _ _)
  refine .worked ?_ (driftOf_worked _ _)
  refine .worked ?_ (examineReach_worked _ _)
  refine .worked ?_ (noteClass_worked _ _ _)
  exact setReach_lawful p x v fun y no e => by simp [Instr.readsReach, e] at no

/-- A limit input's change of the record turns on no OPEN drive (R26). -/
theorem limitChanged_opens (r : GateRec) (l : Limit) (b : Bool) (h : (r.limitChanged l b).drive = .openDrive) :
    r.drive = .openDrive := by
  unfold GateRec.limitChanged at h
  split at h
  · cases h
  · split at h <;> cases l <;> simp only [GateRec.asserted, GateRec.negated, GateRec.rest] at h <;> grind

theorem limitChanged_drive (r : GateRec) (l : Limit) (b : Bool) (h : r.drive = r.state.drive) :
    (r.limitChanged l b).drive = (r.limitChanged l b).state.drive := by
  unfold GateRec.limitChanged
  split
  · rfl
  · split <;> cases l <;> simp only [GateRec.asserted, GateRec.negated, GateRec.rest] <;> grind [GateState.drive]

/-- A gate record written with another input: no OPEN drive is turned on, and the faces are derived again. -/
theorem putGate_lawful (p : Part) (g : Gate) (r : GateRec)
    (drive : (p.gates.get g).drive = (p.gates.get g).state.drive → r.drive = r.state.drive)
    (opens : r.drive = .openDrive → (p.gates.get g).drive = .openDrive)
    (closed : ∀ x, (∀ b, c ≠ .limitInputChange x .closedLimit b) → x = g → r.atClosed = (p.gates.get g).atClosed)
    (opened : ∀ x, (∀ b, c ≠ .limitInputChange x .openLimit b) → x = g → r.atOpen = (p.gates.get g).atOpen) :
    Lawful c p (p.putGate g r) := by
  have examined : Worked { p with gates := p.gates.set g r } ({ p with gates := p.gates.set g r } : Part).examineIsolation :=
    .of_same (examineIsolation_still _) (fun _ => List.prefix_refl _) rfl rfl fun _ => rfl
  have w := examined.trans (refreshFaces_worked _)
  refine ⟨⟨fun h k => ?_, fun h k => ?_, fun _ => refreshFaces_guarded _, fun h => w.onward.hulls h,
    fun h => w.onward.ordered h, fun h => w.onward.numbers h, fun k h n => ?_, fun k i h n => ?_⟩, ?_⟩
  · rw [putGate_gates, Four.get_set]
    split
    · exact drive (h g)
    · exact h k
  · rw [putGate_sluices]; exact h k
  · rw [putGate_gates, Four.get_set] at h
    split at h
    · next e => subst e; exact absurd (opens h) n
    · exact absurd h n
  · rw [putGate_sluices] at h; exact absurd h n
  · refine Framed.trans ?_ (w.moved.framed c)
    refine { closed := fun _ x no => ?_, opened := fun _ x no => ?_ }
    · rw [Four.get_set]; split
      · next e => rw [e]; exact closed x no e
      · rfl
    · rw [Four.get_set]; split
      · next e => rw [e]; exact opened x no e
      · rfl

/-- A limit input's change leaves the other input of the record. -/
theorem limitChanged_inputs (r : GateRec) (l : Limit) (b : Bool) :
    (r.limitChanged l b).atClosed = r.atClosed ∧ (r.limitChanged l b).atOpen = r.atOpen := by
  unfold GateRec.limitChanged
  split
  · exact ⟨rfl, rfl⟩
  · split <;> cases l <;> simp only [GateRec.asserted, GateRec.negated, GateRec.rest] <;> grind

theorem limitInput_lawful (p : Part) (g : Gate) (l : Limit) (b : Bool) :
    Lawful (.limitInputChange g l b) p (p.putGate g (((p.gates.get g).withInput l b).limitChanged l b)) := by
  obtain ⟨atClosed, atOpen⟩ := limitChanged_inputs ((p.gates.get g).withInput l b) l b
  refine putGate_lawful p g _ (fun h => limitChanged_drive _ _ _ ?_) (fun h => ?_) (fun x no e => ?_)
    fun x no e => ?_
  · cases l <;> exact h
  · have := limitChanged_opens _ _ _ h
    cases l <;> exact this
  · rw [atClosed]; subst e
    cases l with
    | closedLimit => exact absurd rfl (no b)
    | openLimit => rfl
  · rw [atOpen]; subst e
    cases l with
    | closedLimit => rfl
    | openLimit => exact absurd rfl (no b)

/-- A sluice at a new position of its feedback, with no step begun. -/
theorem feedback_lawful (p : Part) (k : Sluice) (n : Fin 16) (r : SluiceRec) (position : r.position = n.val)
    (trim : r.trim = (p.sluices.get k).trim) (step : r.step = (p.sluices.get k).step ∨ r.step = none) :
    Lawful (.positionFeedbackChange k n) p (p.putSluice k r) := by
  have examined : Worked { p with sluices := p.sluices.set k r } (p.putSluice k r) :=
    .of_same (examineIsolation_still _) (fun _ => List.prefix_refl _) rfl rfl fun _ => rfl
  refine .worked (q := { p with sluices := p.sluices.set k r })
    ⟨⟨id, fun h j => ?_, id, id, id, id, fun _ h n => absurd h n, fun j i h n => ?_⟩, ?_⟩ examined
  · rw [Four.get_set]; split
    · rw [position, trim]; exact ⟨Nat.le_of_lt_succ n.isLt, (h k).2⟩
    · exact h j
  · rw [Four.get_set] at h
    split at h
    · next e =>
      subst e
      rcases step with e | e
      · rw [e] at h; exact absurd h n
      · rw [e] at h; cases h
    · exact absurd h n
  · refine { position := fun _ j no => ?_ }
    rw [Four.get_set]; split
    · next e => rw [e] at no; exact absurd rfl (no n)
    · rfl

theorem moved_step (r : SluiceRec) (n : Nat) : (r.moved n).step = r.step ∨ (r.moved n).step = none := by
  unfold SluiceRec.moved
  split
  · exact .inr rfl
  · exact .inl rfl

theorem moved_position (r : SluiceRec) (n : Nat) : (r.moved n).position = n ∧ (r.moved n).trim = r.trim := by
  unfold SluiceRec.moved
  split <;> exact ⟨rfl, rfl⟩

theorem shifted_same (r : SluiceRec) :
    r.shifted.position = r.position ∧ r.shifted.trim = r.trim ∧ r.shifted.step = r.step := by
  unfold SluiceRec.shifted
  split
  · split <;> exact ⟨rfl, rfl, rfl⟩
  · split <;> exact ⟨rfl, rfl, rfl⟩
  · exact ⟨rfl, rfl, rfl⟩

theorem takePosition_lawful (p : Part) (k : Sluice) (n : Fin 16) :
    Lawful (.positionFeedbackChange k n) p (p.takePosition k n.val) := by
  obtain ⟨position, trim⟩ := moved_position (p.sluices.get k) n.val
  have step := moved_step (p.sluices.get k) n.val
  unfold Part.takePosition
  simp only
  split
  · refine .worked ?_ (rampNext_worked _ _)
    split <;> exact feedback_lawful p k n _ position trim step
  · split
    · exact feedback_lawful p k n _ position trim step
    · split
      · unfold Part.closeOn
        split
        · exact feedback_lawful p k n _ position trim step
        · refine .worked ?_ (stepDown_worked _ _)
          exact feedback_lawful p k n _ position trim step
      · obtain ⟨shiftedPosition, shiftedTrim, shiftedStep⟩ := shifted_same ((p.sluices.get k).moved n.val)
        exact feedback_lawful p k n _ (shiftedPosition.trans position) (shiftedTrim.trans trim)
          (by rw [shiftedStep]; exact step)

/-- A step that is not confirmed in time is dropped (R30). -/
theorem stalled_worked (p : Part) (k : Sluice) : Worked p (p.putSluice k (p.sluices.get k).stalled) :=
  putSluice_worked p k _ rfl id fun _ h => nomatch h

theorem refreshLamps_lawful (p : Part) (current : LampMap Bool) :
    Lawful (.lampRefresh current) p (p.refreshLamps current) :=
  ⟨.of_same, { lamps := fun no => (nomatch no) }⟩

theorem setEStop_lawful (p : Part) (b : Bool) (h : c = .eStopAsserted ∨ c = .eStopNegated) :
    Lawful c p { p with eStop := b } :=
  ⟨.of_same, { eStop := fun _ m n => h.elim (fun e => absurd e m) fun e => absurd e n }⟩

theorem setInhibit_lawful (p : Part) (b : Bool) : Lawful (.navInhibitChange b) p { p with navInhibit := b } :=
  ⟨.of_same, { inhibit := fun _ no => absurd rfl (no b) }⟩

theorem advanceClock_lawful (p : Part) : Lawful .clockAdvance p p.advanceClock :=
  ⟨.of_same, { clock := fun no => (nomatch no) }⟩

/-- What the link interface holds is written by its own commands. -/
theorem setLink_lawful (p : Part) (l : Link) (h : c.actsOnLink = true) : Lawful c p { p with link := l } :=
  ⟨.of_same, { link := fun no => by rw [h] at no; cases no }⟩

/-- The link is lost or restored (R183). -/
theorem Lawful.setLost (a : Lawful c p q) (b : Bool) (h : c.actsOnLink = true) : Lawful c p (q.setLost b) :=
  (a.trans (setLink_lawful q { q.link with lost := b } h) (fun _ => rfl) fun _ => rfl).worked (refreshFaces_worked _)

theorem withdrawAwaiting_onward (p : Part) : Onward p p.withdrawAwaiting := by
  unfold Part.withdrawAwaiting
  split
  · exact withdraw_onward p
  · exact .refl p

/-- The part of the next state a command answers. -/
theorem part_of_next {s t : State} (e : exec c s = .next { s with part := q }) (run : exec c s = .next t) :
    t.part = q := by
  have same := e.symm.trans run
  injection same with same
  rw [← same]

/-- The commands that are requests of the host (R177). -/
def isRequest : Instr → Bool
  | .sampleArrival _ _ => false
  | .sampleTimerExpiry _ => false
  | .limitInputChange _ _ _ => false
  | .travelTimerExpiry _ => false
  | .positionFeedbackChange _ _ => false
  | .stepTimerExpiry _ => false
  | .rampIntervalExpiry _ => false
  | .dueUpStepIssue _ => false
  | .gateTravelResume _ => false
  | .transferTimerExpiry _ => false
  | .lampRefresh _ => false
  | .eStopAsserted => false
  | .eStopNegated => false
  | .navInhibitChange _ => false
  | .moveTimerExpiry => false
  | .windowTimerExpiry => false
  | .watchdogExpiry => false
  | .clockAdvance => false
  | .byteReceived _ _ => false
  | .gapTimeout _ => false
  | .powerOn _ => false
  | .turnEvaluate => false
  | .tallyAppend => false
  | .surveyEnd => false
  | .openStepEvaluate => false
  | _ => true

/-- A request row is the request as its block takes it (R177). -/
theorem exec_request (s : State) (h : isRequest c = true) : exec c s = .next { s with part := s.part.request c } := by
  cases c <;> first | exact absurd h Bool.false_ne_true | rfl

/-- What is no request no block takes. -/
theorem request_other (p : Part) (h : isRequest c = false) : p.request c = p := by
  cases c <;> first | exact absurd h.symm Bool.false_ne_true | rfl

/-- Every command but a byte makes only lawful changes. -/
theorem exec_lawful (c : Instr) (s t : State) (run : exec c s = .next t) (notByte : ∀ x b, c ≠ .byteReceived x b) :
    Lawful c s.part t.part := by
  by_cases request : isRequest c = true
  · rw [part_of_next (exec_request s request) run]
    exact request_lawful c s.part
  cases c with
  | sampleArrival x raw =>
    cases run
    exact sampleArrival_lawful x raw s.part _ _ _
  | sampleTimerExpiry x =>
    have first := setReach_lawful (c := .sampleTimerExpiry x) s.part x (s.part.reaches.get x).missedPeriod
      fun y no e => by simp [Instr.readsReach, e] at no
    simp only [exec, execSampleTimerExpiry] at run
    split at run <;> cases run
    · exact first
    · refine .onward ?_ (settle_onward _ _ _)
      exact (first.worked (noteClass_worked _ _ _)).onward (announce_onward _ _)
  | limitInputChange g l b =>
    simp only [exec, execLimitInputChange] at run
    split at run <;> cases run
    · exact .refl _ _
    · refine .onward ?_ (settle_onward _ _ _)
      refine .worked ?_ (surveyStopped_worked _ _ _)
      refine .onward ?_ (reevaluateOpen_onward _)
      refine .worked ?_ (retestBeside_worked _ _)
      exact (limitInput_lawful s.part g l b).onward (limitReport_onward _ _ _)
  | travelTimerExpiry g =>
    simp only [exec, execTravelTimerExpiry] at run
    split at run <;> cases run
    · exact .refl _ _
    · refine .onward ?_ (settle_onward _ _ _)
      refine .worked ?_ (surveyStopped_worked _ _ _)
      refine .onward ?_ (reevaluateOpen_onward _)
      refine .worked (Worked.lawful ?_) (report_worked _ _ _)
      exact putGate_worked s.part g _ rfl (fun _ => rfl) (fun h => nomatch h)
  | positionFeedbackChange k n =>
    simp only [exec, execPositionFeedbackChange] at run
    split at run <;> cases run
    · exact .refl _ _
    · refine .onward ?_ (settle_onward _ _ _)
      refine .worked ?_ (surveyRise_worked _ _ _)
      refine .onward ?_ (reevaluateOpen_onward _)
      refine .worked ?_ (retestBeside_worked _ _)
      exact (takePosition_lawful s.part k n).onward (finishTransfer_onward _ _)
  | stepTimerExpiry k =>
    simp only [exec, execStepTimerExpiry] at run
    split at run <;> cases run
    · exact .refl _ _
    · refine .onward ?_ (settle_onward _ _ _)
      refine .onward ?_ (finishTransfer_onward _ _)
      exact ((stalled_worked s.part k).trans (report_worked _ _ _)).lawful
  | rampIntervalExpiry k =>
    simp only [exec, execRampIntervalExpiry] at run
    split at run <;> cases run
    · exact .refl _ _
    · refine .worked (Worked.lawful ?_) (retestRamp_worked _ _)
      exact putSluice_plain s.part k _ rfl rfl rfl
  | dueUpStepIssue k => cases run; exact (retestRamp_worked _ _).lawful
  | gateTravelResume g =>
    cases run
    exact ((resumeTravel_onward _ _).trans (settle_onward _ _ _)).lawful
  | transferTimerExpiry k =>
    simp only [exec, execTransferTimerExpiry] at run
    split at run <;> cases run
    · exact .refl _ _
    · refine .onward ?_ (settle_onward _ _ _)
      refine .worked (Worked.lawful ?_) (report_worked _ _ _)
      exact putSluice_plain s.part k _ rfl rfl rfl
  | lampRefresh current =>
    cases run
    refine .onward ?_ (settle_onward _ _ _)
    exact (refreshLamps_lawful s.part current).worked (foldl_worked _ _ lampLost_worked _)
  | eStopAsserted =>
    simp only [exec, execEStopAsserted] at run
    split at run <;> cases run
    · exact .refl _ _
    · refine .onward ?_ (settle_onward _ _ _)
      exact (setEStop_lawful s.part true (.inl rfl)).worked (report_worked _ _ _)
  | eStopNegated => cases run; exact setEStop_lawful s.part false (.inr rfl)
  | navInhibitChange b =>
    cases run
    exact (setInhibit_lawful s.part b).onward (settle_onward _ _ _)
  | moveTimerExpiry =>
    simp only [exec, execMoveTimerExpiry] at run
    split at run <;> cases run
    · exact .refl _ _
    · refine .onward ?_ (settle_onward _ _ _)
      refine .worked (Worked.lawful ?_) (report_worked _ _ _)
      exact onLockage_worked s.part _ fun _ => rfl
  | windowTimerExpiry =>
    simp only [exec, execWindowTimerExpiry] at run
    split at run <;> cases run
    · exact .refl _ _
    · refine .onward ?_ (settle_onward _ _ _)
      have w := onLockage_worked s.part (fun l => { l with windowTimer := none }) fun _ => rfl
      split
      · exact (w.onward.trans (advance_onward _)).lawful
      · exact w.lawful
  | watchdogExpiry =>
    simp only [exec, execWatchdogExpiry] at run
    split at run <;> cases run
    · exact .refl _ _
    · refine .onward ?_ (settle_onward _ _ _)
      refine .onward ?_ (withdrawAwaiting_onward _)
      refine .setLost ?_ true rfl
      exact (setLink_lawful s.part _ rfl).worked (note_worked _ _)
  | clockAdvance => cases run; exact advanceClock_lawful _
  | byteReceived x b => exact absurd rfl (notByte x b)
  | gapTimeout x =>
    simp only [exec, execGapTimeout] at run
    split at run <;> cases run
    · exact .refl _ _
    · exact setLink_lawful _ _ rfl
  | powerOn v =>
    rw [part_of_next (q := Part.powerOn v) rfl run]
    exact powerOn_lawful _ _
  | turnEvaluate => cases run; exact (turnArrival_onward _ _ _).lawful
  | tallyAppend => cases run; exact ((tryTally_recorded _).onward.trans (turnArrival_onward _ _ _)).lawful
  | surveyEnd => cases run; exact (settle_onward _ _ _).lawful
  | openStepEvaluate => cases run; exact ((reevaluateOpen_onward _).trans (settle_onward _ _ _)).lawful
  | _ => exact absurd rfl request

end Sys2Proof.Machine
end

section
/-! PROOFS. What a byte and an idle millisecond may do, and the statements about every step. -/

namespace Sys2Proof.Machine

variable {p q r : Part} {c : Instr}

/-! ### A byte of the link (R176, R177) -/

/-- A safe change, but for the compare of a gate that opens. -/
structure ClosedSafe (p q : Part) : Prop where
  drives : p.DrivesMatch → q.DrivesMatch
  ranges : p.SluicesInRange → q.SluicesInRange
  proceed : p.ProceedGuarded → q.ProceedGuarded
  hulls : p.HullsDistinct → q.HullsDistinct
  ordered : p.QueuesOrdered → q.QueuesOrdered
  numbers : p.NumbersInRange → q.NumbersInRange
  opens : OpensClosed p q
  steps : StepsUpSafely p q

theorem Safe.closed (h : Safe p q) : ClosedSafe p q :=
  ⟨h.drives, h.ranges, h.proceed, h.hulls, h.ordered, h.numbers, fun g m n => (h.opens g m n).2, h.steps⟩

theorem ClosedSafe.trans (a : ClosedSafe p q) (b : ClosedSafe q r) (interlock : ∀ g, r.interlock g = q.interlock g) :
    ClosedSafe p r where
  drives h := b.drives (a.drives h)
  ranges h := b.ranges (a.ranges h)
  proceed h := b.proceed (a.proceed h)
  hulls h := b.hulls (a.hulls h)
  ordered h := b.ordered (a.ordered h)
  numbers h := b.numbers (a.numbers h)
  opens g h n := by
    by_cases m : (q.gates.get g).drive = .openDrive
    · rw [interlock]; exact a.opens g m n
    · exact b.opens g h m
  steps k i h n := by
    by_cases m : (q.sluices.get k).step = some (.up, i)
    · rw [interlock]; exact a.steps k i m n
    · exact b.steps k i h m

/-- The interlocks are judged from the field's inputs alone (R22). -/
theorem interlock_of_inputs (closed : ∀ g, (q.gates.get g).atClosed = (p.gates.get g).atClosed)
    (position : ∀ k, (q.sluices.get k).position = (p.sluices.get k).position) (g : Gate) :
    q.interlock g = p.interlock g := by
  have passage : q.passageClosed = p.passageClosed := by
    funext x; simp only [Part.passageClosed, closed, position]
  have far : q.farClosed = p.farClosed := by
    funext x; cases x <;> simp only [Part.farClosed, passage]
  simp only [Part.interlock, far]

/-- What a byte may do. -/
structure Received (p q : Part) : Prop where
  safe : ClosedSafe p q
  framed : ∀ x b, Framed (.byteReceived x b) p q

theorem Received.trans (a : Received p q) (b : Received q r) : Received p r where
  safe := a.safe.trans b.safe fun g => by
    have f := b.framed .a 0
    exact interlock_of_inputs (fun g => f.closed nofun g nofun) (fun k => f.position nofun k nofun) g
  framed x y := (a.framed x y).trans (b.framed x y)

theorem Received.of_lawful (h : ∀ x b, Lawful (.byteReceived x b) p q) : Received p q :=
  ⟨(h .a 0).safe.closed, fun x b => (h x b).framed⟩

theorem Onward.received (h : Onward p q) : Received p q := .of_lawful fun _ _ => h.lawful

theorem setLink_received (p : Part) (l : Link) : Received p { p with link := l } :=
  .of_lawful fun _ _ => setLink_lawful p l rfl

/-- A request that a frame carries does what its command may do, of what a byte may do. -/
theorem request_received (p : Part) (i : Instr) : Received p (p.request i) := by
  by_cases h : isRequest i = true
  · have a := request_lawful i p
    have other : ∀ {j}, isRequest j = false → i ≠ j := fun no e => by rw [e, no] at h; cases h
    refine ⟨a.safe.closed, fun x b => ?_⟩
    exact
      { settings := fun no => (nomatch no), clock := fun no => (nomatch no), ticket := fun no => (nomatch no)
        config := fun no => (nomatch no), link := fun no => (nomatch no)
        eStop := fun _ _ _ => a.framed.eStop (fun _ => other rfl) (other rfl) (other rfl)
        inhibit := fun _ _ => a.framed.inhibit (fun _ => other rfl) fun _ => other rfl
        straps := fun _ => a.framed.straps fun _ => other rfl
        closed := fun _ g _ => a.framed.closed (fun _ => other rfl) g fun _ => other rfl
        opened := fun _ g _ => a.framed.opened (fun _ => other rfl) g fun _ => other rfl
        position := fun _ k _ => a.framed.position (fun _ => other rfl) k fun _ => other rfl
        reading := fun _ no => (nomatch no), lamps := fun no => (nomatch no)
        sent := fun _ => a.framed.sent fun _ => other rfl, records := fun no => (nomatch no) }
  · rw [request_other p (by simpa using h)]
    exact (Onward.refl p).received

theorem judge_received (p : Part) (x : Port) (kind : Byte) (tag : Tag) (body : List Byte) :
    Received p (p.judge x kind tag body) := by
  have bad : Received p (p.badMessage x tag) := ((note_worked p _).trans (refuse_worked _ _ _ _)).onward.received
  unfold Part.judge
  split
  · split
    · unfold Part.route
      split
      · exact request_received p _
      · exact (refuse_worked p _ _ _).onward.received
    · exact bad
  · exact bad

/-- A lost link restored, and the watchdog fed (R182, R183). -/
theorem feedWatchdog_lawful (p : Part) (h : c.actsOnLink = true) : Lawful c p p.feedWatchdog := by
  unfold Part.feedWatchdog
  simp only
  refine .trans ?_ (setLink_lawful _ _ h) (fun _ => rfl) fun _ => rfl
  unfold Part.restoreLink
  split
  · refine .onward ?_ (settle_onward _ _ _)
    exact ((Lawful.refl c p).setLost false h).worked (note_worked _ _)
  · exact .refl c p

/-- Messages replaced by others that still begin with what had been sent. -/
theorem Received.resend {w : Three (List Msg)} (a : Received p q) (grows : ∀ x, p.sent.get x <+: w.get x) :
    Received p { q with sent := w } where
  safe := ⟨a.safe.drives, a.safe.ranges, a.safe.proceed, a.safe.hulls, a.safe.ordered, a.safe.numbers, a.safe.opens,
    a.safe.steps⟩
  framed x b :=
    let f := a.framed x b
    { settings := f.settings, clock := f.clock, ticket := f.ticket, config := f.config
      link := f.link, eStop := f.eStop, inhibit := f.inhibit, straps := f.straps
      closed := f.closed, opened := f.opened, position := f.position
      reading := f.reading, lamps := f.lamps, sent := fun _ => grows, records := f.records }

theorem Received.sent (a : Received p q) : SentGrows p q := (a.framed .a 0).sent nofun

/-- A port's messages replaced on port A. -/
theorem grows_setA (a : SentGrows p q) {ms : List Msg} (h : p.sent.a <+: ms) (x : Port) :
    p.sent.get x <+: (q.sent.set .a ms).get x := by
  rw [Three.get_set]
  split
  · next port => subst port; exact h
  · exact a x

/-- What had been sent before the event still stands first once the reply has moved in front (R178). -/
theorem holdBack_received {before : Part} (a : Received before q) : Received before (q.holdBack p before) := by
  refine a.resend (grows_setA a.sent ?_)
  obtain ⟨rest, e⟩ := a.sent .a
  have first : q.sent.a.take before.sent.a.length = before.sent.a := by
    change before.sent.a ++ rest = q.sent.a at e
    rw [← e, List.take_left]
  have h := replyFirst_prefix before.sent.a.length (p.sent.a.length - before.sent.a.length) q.sent.a
  rwa [first] at h

theorem frameOnA_received (p : Part) (kind : Byte) (tag : Tag) (body : List Byte) :
    Received p (p.frameOnA kind tag body) := by
  have fed : Received p p.feedWatchdog := .of_lawful fun _ _ => feedWatchdog_lawful p rfl
  unfold Part.frameOnA
  simp only
  refine holdBack_received (.trans ?_ (judge_received _ _ _ _ _))
  split
  · exact fed.resend (grows_setA fed.sent (List.prefix_refl _))
  · exact fed

theorem validFrame_received (p : Part) (x : Port) (bytes : List Byte) : Received p (p.validFrame x bytes) := by
  unfold Part.validFrame
  split
  · split
    · exact frameOnA_received p _ _ _
    · exact judge_received p _ _ _ _
  · exact (Onward.refl p).received

theorem dropFrame_received (p : Part) (x : Port) : Received p (p.dropFrame x) := setLink_received p _

theorem hunt_received (p : Part) (x : Port) (b : Byte) : Received p (p.hunt x b) := by
  unfold Part.hunt
  split
  · exact setLink_received p _
  · exact (Onward.refl p).received

theorem receive_received (p : Part) (x : Port) (b : Byte) : Received p (p.receive x b) := by
  unfold Part.receive
  split
  · exact hunt_received p x b
  · split
    · exact (dropFrame_received p x).trans (hunt_received _ x b)
    · split
      · unfold Part.takeLen
        split
        · exact setLink_received p _
        · exact dropFrame_received p x
      · unfold Part.frameByte
        split
        · unfold Part.completeFrame
          simp only
          split
          · exact (setLink_received p _).trans (validFrame_received _ _ _)
          · exact (setLink_received p _).trans (setLink_received _ _)
        · exact setLink_received p _

/-! ### Every command and every step -/

theorem exec_framed (c : Instr) (s t : State) (run : exec c s = .next t) : Framed c s.part t.part := by
  by_cases byte : ∃ x b, c = .byteReceived x b
  · obtain ⟨x, b, rfl⟩ := byte
    rw [part_of_next (q := s.part.receive x b) rfl run]
    exact (receive_received s.part x b).framed x b
  · exact (exec_lawful c s t run fun x b e => byte ⟨x, b, e⟩).framed

theorem exec_closedSafe (c : Instr) (s t : State) (run : exec c s = .next t) : ClosedSafe s.part t.part := by
  by_cases byte : ∃ x b, c = .byteReceived x b
  · obtain ⟨x, b, rfl⟩ := byte
    rw [part_of_next (q := s.part.receive x b) rfl run]
    exact (receive_received s.part x b).safe
  · exact (exec_lawful c s t run fun x b e => byte ⟨x, b, e⟩).safe.closed

/-- A millisecond counts timers and gaps alone. -/
theorem tick_safe (p : Part) : Safe p p.tick where
  drives h g := by simpa [Part.tick, GateRec.tick] using h g
  ranges h k := by simpa [Part.tick, SluiceRec.tick] using h k
  proceed h f e := by
    have cur : p.tick.curStep = p.curStep := by
      unfold Part.curStep Part.tick
      cases p.lockage <;> rfl
    rw [cur]
    simpa [Part.tick, GateRec.tick] using h f e
  hulls h := by
    have convoy : p.tick.convoy = p.convoy := by
      unfold Part.convoy Part.tick
      cases p.lockage <;> rfl
    unfold Part.HullsDistinct Part.registered
    rw [convoy]
    exact h
  ordered := id
  numbers := id
  opens g h n := by simp [Part.tick, GateRec.tick] at h; exact absurd h n
  steps k i h n := by simp [Part.tick, SluiceRec.tick] at h; exact absurd h n

/-- A step is its front command, or an idle millisecond. -/
theorem step_cases {s t : State} (run : step s = .next t) :
    (∃ c rest, s.pending = c :: rest ∧ exec c { s with pending := rest } = .next t) ∨ t.part = s.part.tick := by
  unfold step at run
  split at run
  · cases run; exact .inr rfl
  · next c rest e => exact .inl ⟨c, rest, e, run⟩

theorem step_closedSafe {s t : State} (run : step s = .next t) : ClosedSafe s.part t.part := by
  rcases step_cases run with ⟨c, rest, _, run⟩ | idle
  · exact (exec_closedSafe c _ t run :)
  · rw [idle]; exact (tick_safe s.part).closed

/-- Settles O4: every change keeps PROCEED guarded. -/
theorem proceedNeedsAnOpenGate : Obligations.ProceedNeedsAnOpenGate := fun _ _ run => (step_closedSafe run).proceed

/-- Settles O6: vessels only change places, and a registered hull mark is new. -/
theorem queuesStaySound : Obligations.QueuesStaySound :=
  ⟨fun _ _ run => (step_closedSafe run).hulls, fun _ _ run => (step_closedSafe run).ordered⟩

/-- Settles O7: a gate's record is only written with the drive its state calls for. -/
theorem drivesFollowGateStates : Obligations.DrivesFollowGateStates := fun _ _ run => (step_closedSafe run).drives

/-- Settles O8: numbers come from `nextNumber`, positions from the feedback, trims from a clamp. -/
theorem countersStayInRange : Obligations.CountersStayInRange :=
  fun _ _ run => ⟨(step_closedSafe run).numbers, (step_closedSafe run).ranges⟩

/-- Settles O9: every OPEN drive and up-step of a step is begun under its interlock, which no later part of the step
changes. -/
theorem farSideStaysClosed : Obligations.FarSideStaysClosed :=
  fun _ _ run => ⟨(step_closedSafe run).opens, (step_closedSafe run).steps⟩

/-- Settles O10: of one command, the compare under which a gate opened is not changed after. -/
theorem gatesOpenOverLevelWater : Obligations.GatesOpenOverLevelWater :=
  fun c s t run notByte => (exec_lawful c s t run notByte).safe.opens

/-! ### What a command leaves to others -/

/-- The outlets' configuration, field by field. -/
theorem config_of_base {u v : OutletUnit} (h : v.base = u.base) : v.interval = u.interval
    ∧ ∀ x, (v.outlets.get x).enabled = (u.outlets.get x).enabled
      ∧ (v.outlets.get x).depth = (u.outlets.get x).depth := by
  have outlets := congrArg OutletUnit.outlets h
  refine ⟨(congrArg OutletUnit.interval h :), fun x => ?_⟩
  have one := congrArg (·.get x) outlets
  simp only [OutletUnit.base, Three.get_map, Outlet.mk.injEq] at one
  exact ⟨one.1, one.2.1⟩

/-- What a link keeps where only its condition record may differ. -/
theorem link_of_base (h : q.base.link = p.base.link) : q.link = { p.link with conditions := q.link.conditions } := by
  have e : { q.link with conditions := Conditions.empty } = { p.link with conditions := Conditions.empty } := h
  simp only [Link.mk.injEq] at e
  obtain ⟨receivers, errors, _, armed, watchdog, lost, rate⟩ := e
  dsimp only
  rw [← receivers, ← errors, ← armed, ← watchdog, ← lost, ← rate]

/-- Settles O11: each is framed by the commands that own it. -/
theorem commandsKeepToTheirState : Obligations.CommandsKeepToTheirState := by
  refine ⟨fun c s t run => ?_, fun c s t run notPower => ?_⟩
  · have f := exec_framed c s t run
    exact ⟨f.settings, f.clock, f.ticket, fun h => config_of_base (f.config h), fun h => link_of_base (f.link h)⟩
  · have f := exec_framed c s t run
    exact ⟨f.eStop notPower, f.inhibit notPower, f.straps notPower, f.closed notPower, f.opened notPower,
      f.position notPower⟩

/-- A record with another's reading differs from it in its isolation alone. -/
theorem eq_of_reading {x y : ReachRec} (h : y.reading = x.reading) :
    y = { x with isolationLevel := y.isolationLevel, driftReported := y.driftReported } := by
  simp only [ReachRec.reading, ReachRec.mk.injEq] at h
  obtain ⟨cls, window, raw, settle, missed, count, run, _, _, timer⟩ := h
  rw [← cls, ← window, ← raw, ← settle, ← missed, ← count, ← run, ← timer]

/-- A lamp with another's current sense differs from it in its command and output alone. -/
theorem eq_of_sense {x y : LampRec} (h : y.sense = x.sense) : y = { x with command := y.command, output := y.output } := by
  simp only [LampRec.sense, LampRec.mk.injEq] at h
  obtain ⟨_, _, lit, armed, failed⟩ := h
  rw [← lit, ← armed, ← failed]

/-- Settles O12. -/
theorem readingsFrame : Obligations.ReadingsFrame := by
  intro c s t run
  have f := exec_framed c s t run
  exact ⟨fun x h => eq_of_reading (f.reading x h),
    fun h => ⟨(f.lamps h).1, fun face k => eq_of_sense ((f.lamps h).2 face k)⟩⟩

/-- Settles O13: no operation takes a message back, and only TAKEN takes a record. -/
theorem messagesAndRecordsOnlyGrow : Obligations.MessagesAndRecordsOnlyGrow := by
  intro c s t run
  have f := exec_framed c s t run
  exact ⟨f.sent, f.records⟩

end Sys2Proof.Machine
end

section
/-! PROOFS. Every step keeps the halt record with the mode HALTED (R113). -/

namespace Sys2Proof.Machine

variable {p q r : Part} {c : Instr}

/-! ### Requests -/

theorem accept_keeps (p : Part) (x : Port) (tag : Tag) (d : ReplyData) : KeepsHalt p (p.accept x tag d) := id

theorem refuse_keeps (p : Part) (x : Port) (tag : Tag) (y : Reason) : KeepsHalt p (p.refuse x tag y) := id

theorem acceptFirst_keeps (p : Part) (tag : Tag) (effect : Part → Part) (d : Part → ReplyData)
    (h : ∀ q, KeepsHalt q (effect q)) : KeepsHalt p (p.acceptFirst tag effect d) := by
  intro m
  have a : (effect { p with sent := p.sent.set .a [] }).HaltMatches := h _ m
  exact a

theorem ifLoads_keeps (p q : Part) (tag : Tag) (h : KeepsHalt p q) : KeepsHalt p (p.ifLoads tag q) := by
  unfold Part.ifLoads
  split
  · exact h
  · exact refuse_keeps _ _ _ _

theorem store_keeps (p : Part) (f : Settings → Settings) : KeepsHalt p (p.store f) := id

theorem applyFlight_keeps (p : Part) (g : Flight) : KeepsHalt p (p.applyFlight g) := by
  unfold Part.applyFlight
  exact fun h => settle_keeps _ _ _ (by exact h)

theorem applyReach_keeps (p : Part) (x : Reach) (g : ReachGroup) : KeepsHalt p (p.applyReach x g) := by
  unfold Part.applyReach
  exact fun h => settle_keeps _ _ _ (announce_keeps _ x (by exact h))

theorem applyTurns_keeps (p : Part) (t : List TurnEntry) : KeepsHalt p (p.applyTurns t) := by
  unfold Part.applyTurns
  simp only
  split
  · exact fun h => settle_keeps _ _ _ (by exact h)
  · exact store_keeps _ _

theorem applyResponses_keeps (p : Part) (g : Responses) : KeepsHalt p (p.applyResponses g) := by
  unfold Part.applyResponses
  simp only
  split <;> exact id

theorem beginSurvey_keeps (p : Part) : KeepsHalt p p.beginSurvey :=
  (surveyWork_same p).keeps.trans (eStopStanding_keeps _)

/-- A mode other than HALTED entered with no halt record. -/
theorem enterMode_live (p : Part) (m : Mode) (none : p.faults.halt = none) (other : m ≠ .halted) :
    (p.enterMode m).Live := by
  obtain ⟨mode, halt⟩ := enterMode_halt p m
  exact ⟨halt.trans none, fun h => other (mode.symm.trans h)⟩

theorem takeStart_keeps (p : Part) (tag : Tag) : KeepsHalt p (p.takeStart tag) := by
  unfold Part.takeStart
  split
  · exact refuse_keeps _ _ _ _
  · next startup =>
    split
    · intro h
      have live := live_of h (by rw [Classical.not_not.1 startup]; exact nofun)
      have entered := enterMode_live (p.accept .a tag .nothing) .survey live.1 nofun
      exact settle_keeps _ _ _ (beginSurvey_keeps _ ((event_same _ _).matches entered.matches))
    · exact refuse_keeps _ _ _ _

theorem driftOf_keeps (p : Part) (x : Reach) : KeepsHalt p (p.driftOf x) := by
  unfold Part.driftOf
  split
  · unfold Part.driftTest
    simp only
    split
    · exact fun h => report_keeps _ _ _ (by exact h)
    · exact .refl p
  · exact .refl p

theorem recapture_keeps (p : Part) (x : Chamber) : KeepsHalt p (p.recapture x) := by
  unfold Part.recapture
  simp only
  split <;> exact id

theorem applyZero_keeps (p : Part) (x : Reach) (g : ReachGroup) : KeepsHalt p (p.applyZero x g) := by
  unfold Part.applyZero
  simp only
  refine .trans (.trans (.trans ?_ (driftOf_keeps _ x)) (announce_keeps _ x)) (settle_keeps _ _ _)
  split
  · exact (store_keeps p _).trans (recapture_keeps _ _)
  · exact store_keeps p _

theorem takeCaptureDatum_keeps (p : Part) (tag : Tag) (i : Nat) (level : Int) :
    KeepsHalt p (p.takeCaptureDatum tag i level) := by
  unfold Part.takeCaptureDatum
  split
  · exact refuse_keeps _ _ _ _
  · split
    · exact refuse_keeps _ _ _ _
    · split
      · exact refuse_keeps _ _ _ _
      · exact (accept_keeps p .a tag _).trans (applyZero_keeps _ _ _)

theorem setQueue_same (p : Part) (d : Direction) (q : List Vessel) : SameHalt p (p.setQueue d q) := by
  cases d <;> exact ⟨rfl, rfl⟩

theorem takeRegister_keeps (p : Part) (tag : Tag) (v : RegisterRequest) : KeepsHalt p (p.takeRegister tag v) := by
  unfold Part.takeRegister
  split
  · exact refuse_keeps _ _ _ _
  · split
    · unfold Part.acceptRegister
      simp only
      refine .trans (SameHalt.keeps ?_) (settle_keeps _ _ _)
      exact (setQueue_same _ _ _ : SameHalt (p.accept .a tag _) _)
    · exact refuse_keeps _ _ _ _

theorem takeCancel_keeps (p : Part) (tag : Tag) (ticket : Nat) : KeepsHalt p (p.takeCancel tag ticket) := by
  unfold Part.takeCancel
  split
  · exact refuse_keeps _ _ _ _
  · split
    · exact refuse_keeps _ _ _ _
    · refine .trans (SameHalt.keeps ?_) (settle_keeps _ _ _)
      exact (setQueue_same _ _ _ : SameHalt (p.accept .a tag _) _)

theorem storeClearance_same (p : Part) (tag : Tag) (l : Lockage) (a b : Bool) :
    SameHalt p (p.storeClearance tag l a b) := ⟨rfl, rfl⟩

theorem releaseEntry_keeps (p : Part) : KeepsHalt p p.releaseEntry := by
  unfold Part.releaseEntry
  split
  · exact moveUnderWay_keeps p _ _
  · exact .refl p

theorem entryClear_keeps (p : Part) (tag : Tag) (l : Lockage) : KeepsHalt p (p.entryClear tag l) := by
  unfold Part.entryClear
  split
  · exact refuse_keeps _ _ _ _
  · split
    · exact accept_keeps _ _ _ _
    · refine .trans ?_ (settle_keeps _ _ _)
      refine .trans ?_ (releaseEntry_keeps _)
      exact (storeClearance_same p tag { l with entry := .given } false false).keeps

theorem entryRefuse_keeps (p : Part) (tag : Tag) (l : Lockage) : KeepsHalt p (p.entryRefuse tag l) := by
  unfold Part.entryRefuse
  split
  · exact refuse_keeps _ _ _ _
  · split
    · exact refuse_keeps _ _ _ _
    · split
      · exact accept_keeps _ _ _ _
      · split
        · next working =>
          intro h
          refine settle_keeps _ _ _ (withdraw_live _ ?_).matches
          exact (storeClearance_same p tag _ _ _).live (live_working h working)
        · exact (storeClearance_same p tag _ _ _).keeps

theorem commitInHand_working (p : Part) (h : p.commitInHand = true) : p.mode = .working := by
  unfold Part.commitInHand at h
  split at h
  · simp only [Bool.and_eq_true, decide_eq_true_eq] at h
    exact h.2
  · cases h

theorem exitClear_keeps (p : Part) (tag : Tag) (l : Lockage) : KeepsHalt p (p.exitClear tag l) := by
  unfold Part.exitClear
  split
  · exact refuse_keeps _ _ _ _
  · split
    · exact refuse_keeps _ _ _ _
    · split
      · exact accept_keeps _ _ _ _
      · refine .trans ?_ (settle_keeps _ _ _)
        have stored := storeClearance_same p tag { l with exit := .given } false false
        split
        · next commit =>
          exact fun m => advance_matches _ (live_working (stored.matches m) (commitInHand_working _ commit))
        · exact stored.keeps.trans (reevaluateOpen_keeps _)

theorem exitRefuse_keeps (p : Part) (tag : Tag) (l : Lockage) : KeepsHalt p (p.exitRefuse tag l) := by
  unfold Part.exitRefuse
  split
  · exact refuse_keeps _ _ _ _
  · split
    · exact accept_keeps _ _ _ _
    · split
      · exact refuse_keeps _ _ _ _
      · split
        · exact accept_keeps _ _ _ _
        · split
          · refine .trans ?_ (settle_keeps _ _ _)
            exact (storeClearance_same p tag _ _ _).keeps.trans (reevaluateOpen_keeps _)
          · split
            · next commit =>
              refine .trans ?_ (settle_keeps _ _ _)
              intro m
              refine advance_matches _ (SameHalt.live (p := p) ⟨rfl, rfl⟩ ?_)
              exact live_working m (commitInHand_working p commit)
            · refine .trans ?_ (settle_keeps _ _ _)
              exact (storeClearance_same p tag _ _ _).keeps.trans (reevaluateOpen_keeps _)

theorem ifCurrent_keeps (p : Part) (tag : Tag) (n : Nat) (f : Lockage → Part) (h : ∀ l, KeepsHalt p (f l)) :
    KeepsHalt p (p.ifCurrent tag n f) := by
  unfold Part.ifCurrent
  split
  · split
    · exact h _
    · exact refuse_keeps _ _ _ _
  · exact refuse_keeps _ _ _ _

theorem endMove_matches (p : Part) (g : Gate) (d : Direction) (h : p.Live) : (p.endMove g d).HaltMatches := by
  unfold Part.endMove
  refine advance_matches _ ((requestAspect_same _ _ _).live ?_)
  exact h

theorem moveDone_keeps (p : Part) (tag : Tag) (i : Nat) (l : Lockage) : KeepsHalt p (p.moveDone tag i l) := by
  unfold Part.moveDone
  split
  · split
    · refine (accept_keeps p .a tag .nothing).trans ?_
      unfold Part.confirmMove
      split
      · next working => exact fun m => settle_keeps _ _ _ (endMove_matches _ _ _ (live_working m working))
      · exact id
    · exact refuse_keeps _ _ _ _
  · exact refuse_keeps _ _ _ _

theorem takeTrim_keeps (p : Part) (tag : Tag) (i : Nat) (a : Int) : KeepsHalt p (p.takeTrim tag i a) := by
  unfold Part.takeTrim
  split
  · split
    · unfold Part.trimSluice
      simp only
      split
      · exact refuse_keeps _ _ _ _
      · refine .trans (SameHalt.keeps ?_) (retestRamp_same _ _).keeps
        exact ⟨rfl, rfl⟩
    · exact refuse_keeps _ _ _ _
  · exact refuse_keeps _ _ _ _

theorem takeHalt_keeps (p : Part) (tag : Tag) : KeepsHalt p (p.takeHalt tag) := by
  unfold Part.takeHalt
  split
  · exact accept_keeps _ _ _ _
  · exact acceptFirst_keeps p tag _ _ fun q => (report_keeps q _ _).trans (settle_keeps _ _ _)

/-- A halt left for another mode: the flight runs. -/
theorem leaveHalt_live (p : Part) (m : Mode) (h : m ≠ .halted) : (p.leaveHalt m).Live :=
  (event_same _ _).live (enterMode_live _ m rfl h)

theorem beginTransfer_ends (p : Part) (k : Sluice) (n : Nat) : Ends p (p.beginTransfer k n) := by
  unfold Part.beginTransfer
  simp only
  split
  · next done =>
    rw [Bool.and_eq_true] at done
    exact ends_same ((startTransfer_done p k n done.2).trans (endTransfer_same _ k))
  · exact ends_keeps (startTransfer_keeps p k n)

theorem restartStep_matches (p : Part) (l : Lockage) (s : PlanStep) (h : p.Live) : (p.restartStep l s).HaltMatches := by
  have current (i : Nat) : (p.makeCurrent i).Live := (makeCurrent_same p i).live h
  unfold Part.restartStep
  split
  · simp only
    split
    · unfold Part.restartRelevel
      simp only
      have ends := beginTransfer_ends ((p.makeCurrent l.current).setStage .levelling)
      split
      · exact transferReported_keeps _ _ _ (ends _ _ (current _)).1
      · exact (ends _ _ (current _)).1
    · exact work_matches _ (current _)
  · split
    · exact endMove_matches _ _ _ (current _)
    · split <;> exact work_matches _ (current _)
  · exact work_matches _ (current _)

theorem resumeLockage_matches (p : Part) (h : p.Live) : p.resumeLockage.HaltMatches := by
  unfold Part.resumeLockage
  split
  · split
    · exact (withdraw_live p h).matches
    · simp only
      split
      · exact restartStep_matches _ _ _ h
      · exact restartStep_matches _ _ _ ((requestAspect_same p _ _).live h)
  · exact h.matches

theorem surveyAgain_matches (p : Part) : ((p.leaveHalt .survey).beginSurvey.settle).HaltMatches :=
  settle_keeps _ _ _ (beginSurvey_keeps _ (leaveHalt_live p .survey nofun).matches)

theorem resumeFlight_matches (p : Part) : p.resumeFlight.HaltMatches := by
  unfold Part.resumeFlight
  split
  · exact settle_keeps _ _ _ (resumeLockage_matches _ (leaveHalt_live p .working nofun))
  · exact surveyAgain_matches p

theorem takeResume_keeps (p : Part) (tag : Tag) : KeepsHalt p (p.takeResume tag) := by
  unfold Part.takeResume
  split
  · exact refuse_keeps _ _ _ _
  · split
    · exact refuse_keeps _ _ _ _
    · exact acceptFirst_keeps p tag _ _ fun q _ => resumeFlight_matches q

/-- A lockage ended leaves the flight at REST with the halt record as it stood. -/
theorem endLockage_rest (p : Part) (o : LockageOutcome) {l : Lockage} (h : p.lockage = some l) :
    (p.endLockage o).mode = .rest ∧ (p.endLockage o).faults.halt = p.faults.halt := by
  unfold Part.endLockage
  rw [h]
  simp only
  have a : SameHalt p (p.stopLockageTimers.onLockage fun x => { x with outcome := some o }).requestAllStop :=
    requestAllStop_same (p.stopLockageTimers.onLockage fun x => { x with outcome := some o })
  generalize (p.stopLockageTimers.onLockage fun x => { x with outcome := some o }).requestAllStop = p1 at a ⊢
  have b := (a.trans (dispose_same p1 l o)).trans (recorded_same (countEnding_recorded (p1.dispose l o) o
    (if o.returns l.entryPassed = true then none else some (p1.tollRecord l o))))
  generalize (p1.dispose l o).countEnding o
    (if o.returns l.entryPassed = true then none else some (p1.tollRecord l o)) = p2 at b ⊢
  obtain ⟨mode, halt⟩ := enterMode_halt ({ p2 with lockage := none } : Part).clearReported .rest
  simp only [event_mode, event_faults]
  exact ⟨mode, halt.trans b.2⟩

theorem closeEntry_lockage (p : Part) (d : Direction) (x : Commander) {l : Lockage} (h : p.lockage = some l) :
    ∃ m, (p.closeEntry d x).lockage = some m :=
  let ⟨m, e, _⟩ := (closeEntry_worked p d x).lockage_some h
  ⟨m, e⟩

theorem abandonFlight_matches (p : Part) : p.abandonFlight.HaltMatches := by
  unfold Part.abandonFlight
  split
  · next l e =>
    refine settle_keeps _ _ _ ((event_same _ _).matches (Part.Live.matches ?_))
    have ended : ∀ q : Part, q.faults.halt = none → (∃ m, q.lockage = some m) → (q.endLockage .abandoned).Live := by
      rintro q none ⟨m, h⟩
      obtain ⟨mode, halt⟩ := endLockage_rest q .abandoned h
      exact ⟨halt.trans none, by rw [mode]; exact nofun⟩
    split
    · exact ended _ rfl ⟨l, e⟩
    · exact ended _ (closeEntry_same _ _ _).2 (closeEntry_lockage _ _ _ e)
  · exact surveyAgain_matches p

theorem takeAbandon_keeps (p : Part) (tag : Tag) : KeepsHalt p (p.takeAbandon tag) := by
  unfold Part.takeAbandon
  split
  · exact refuse_keeps _ _ _ _
  · exact fun _ => abandonFlight_matches _

theorem forceTally_keeps (p : Part) : KeepsHalt p p.forceTally := by
  unfold Part.forceTally
  split
  · split
    · exact (SameHalt.keeps (setTally p _)).trans (settle_keeps _ _ _)
    · exact ((SameHalt.keeps (setTally p _)).trans (recorded_same (tryTally_recorded _)).keeps).trans
        (settle_keeps _ _ _)
  · exact .refl p
where
  setTally (p : Part) (t : TallyState) : SameHalt p { p with outlets := { p.outlets with tally := t } } := ⟨rfl, rfl⟩

theorem takeTaken_keeps (p : Part) (x : Port) (tag : Tag) (n : Nat) : KeepsHalt p (p.takeTaken x tag n) := by
  unfold Part.takeTaken
  split
  · split
    · unfold Part.takeHead
      refine .trans (SameHalt.keeps ?_) (settle_keeps _ _ _)
      refine SameHalt.trans (q := p.removeHead x) ⟨rfl, rfl⟩ (recorded_same ?_)
      exact ((send_recorded _ _ _).trans (offerHead_recorded _ _)).trans
        ((settleTally_recorded _).trans (tryTally_recorded _))
    · exact refuse_keeps _ _ _ _
  · exact refuse_keeps _ _ _ _

theorem query_keeps (p : Part) (tag : Tag) (d : ReplyData) : KeepsHalt p (p.query tag d) := by
  unfold Part.query
  split <;> exact id

/-! ### Resets -/

theorem resetWorks_same (p : Part) : SameHalt p p.resetWorks := by
  have a := foldl_same _ closeSluice_same Gate.all p.worksReset
  unfold Part.resetWorks
  exact a

theorem emptied_halt (p : Part) (kind : RestartKind) : (p.emptied kind).faults.halt = none := by
  have a := (resetWorks_same p.discardLockage.clearFaults).2
  unfold Part.emptied
  generalize p.discardLockage.clearFaults.resetWorks = q at a ⊢
  cases kind <;> exact a

theorem resetMode_live (p : Part) (kind : RestartKind) (h : p.faults.halt = none) : (p.resetMode kind).Live := by
  unfold Part.resetMode
  split
  · exact (surveyWork_same _).live ⟨h, nofun⟩
  · exact ⟨h, nofun⟩

theorem reportDouble_keeps (p : Part) (g : Gate) : KeepsHalt p (p.reportDouble g) := by
  unfold Part.reportDouble
  simp only
  split
  · exact report_keeps p _ _
  · exact .refl p

theorem restart_matches (p : Part) (kind : RestartKind) : (p.restart kind).HaltMatches := by
  rw [restart_eq]
  refine settle_keeps _ _ _ (foldl_keeps _ reportDouble_keeps _ _ ?_)
  refine (recorded_same (reofferOutlets_recorded _)).matches (eStopStanding_keeps _ ?_)
  have live := resetMode_live ((p.emptied kind).resetTurn kind) kind (emptied_halt p kind)
  generalize ((p.emptied kind).resetTurn kind).resetMode kind = q at live ⊢
  exact live.matches

theorem powerOn_matches (v : FieldInputs) : (Part.powerOn v).HaltMatches := by
  unfold Part.powerOn
  refine settle_keeps _ _ _ (foldl_keeps _ reportDouble_keeps _ _ ?_)
  have a := resetWorks_same (Part.initial.withInputs v)
  have live : (Part.initial.withInputs v).Live := ⟨rfl, nofun⟩
  generalize (Part.initial.withInputs v).resetWorks = q at a ⊢
  exact a.matches live.matches

/-! ### Every command -/

theorem request_keeps (i : Instr) (p : Part) : KeepsHalt p (p.request i) := by
  cases i with
  | loadFlight tag v => exact ifLoads_keeps _ _ _ (acceptFirst_keeps _ _ _ _ fun _ => applyFlight_keeps _ _)
  | loadReach tag i v =>
    refine ifLoads_keeps _ _ _ ?_
    split
    · exact acceptFirst_keeps _ _ _ _ fun _ => applyReach_keeps _ _ _
    · exact refuse_keeps _ _ _ _
  | loadWorks tag v => exact ifLoads_keeps _ _ _ (acceptFirst_keeps _ _ _ _ fun _ => store_keeps _ _)
  | loadTariff tag v => exact ifLoads_keeps _ _ _ (acceptFirst_keeps _ _ _ _ fun _ => store_keeps _ _)
  | loadTurns tag v => exact ifLoads_keeps _ _ _ (acceptFirst_keeps _ _ _ _ fun _ => applyTurns_keeps _ _)
  | loadOutlets tag v =>
    refine ifLoads_keeps _ _ _ ?_
    split
    · exact refuse_keeps _ _ _ _
    · exact acceptFirst_keeps _ _ _ _ fun q h => settle_keeps _ _ _ h
  | loadResponses tag v => exact ifLoads_keeps _ _ _ (acceptFirst_keeps _ _ _ _ fun _ => applyResponses_keeps _ _)
  | setClock tag day second =>
    show KeepsHalt p (p.takeSetClock tag day second)
    unfold Part.takeSetClock
    split <;> exact id
  | start tag => exact takeStart_keeps _ _
  | register tag v => exact takeRegister_keeps _ _ _
  | cancel tag ticket => exact takeCancel_keeps _ _ _
  | entryClear tag n => exact ifCurrent_keeps _ _ _ _ (entryClear_keeps p tag)
  | entryRefuse tag n => exact ifCurrent_keeps _ _ _ _ (entryRefuse_keeps p tag)
  | exitClear tag n => exact ifCurrent_keeps _ _ _ _ (exitClear_keeps p tag)
  | exitRefuse tag n => exact ifCurrent_keeps _ _ _ _ (exitRefuse_keeps p tag)
  | moveDone tag n i => exact ifCurrent_keeps _ _ _ _ (moveDone_keeps p tag i)
  | trim tag k a => exact takeTrim_keeps _ _ _ _
  | halt tag => exact takeHalt_keeps _ _
  | resume tag => exact takeResume_keeps _ _
  | abandon tag => exact takeAbandon_keeps _ _
  | forceTally tag => exact acceptFirst_keeps p tag Part.forceTally _ forceTally_keeps
  | captureDatum tag r level => exact takeCaptureDatum_keeps _ _ _ _
  | lampClear tag =>
    show KeepsHalt p (p.takeLampClear tag)
    unfold Part.takeLampClear
    split <;> exact id
  | restartKeep tag => exact fun _ => restart_matches (p.accept .a tag (.restart .keep)) .keep
  | restartClear tag => exact fun _ => restart_matches (p.accept .a tag (.restart .clear)) .clear
  | queryFlight tag => exact query_keeps _ _ _
  | queryQueues tag => exact query_keeps _ _ _
  | queryLockage tag => exact query_keeps _ _ _
  | queryOutlets tag => exact query_keeps _ _ _
  | queryLink tag => exact query_keeps _ _ _
  | taken x tag n => exact takeTaken_keeps _ _ _ _
  | peek x tag =>
    show KeepsHalt p (p.takePeek x tag)
    unfold Part.takePeek
    split
    · exact query_keeps _ _ _
    · exact accept_keeps _ _ _ _
  | _ => exact .refl p

theorem noteClass_keeps (p : Part) (x : Reach) (was : ReadingClass) : KeepsHalt p (p.noteClass x was) := by
  unfold Part.noteClass
  simp only
  split <;> exact id

/-- The reading of a reach written, noted and its isolation examined. -/
theorem sampled_keeps (p : Part) (v : Five ReachRec) (x : Reach) (was : ReadingClass) :
    KeepsHalt p ((({ p with reaches := v } : Part).noteClass x was).examineReach x) := by
  intro h
  have noted := noteClass_keeps { p with reaches := v } x was h
  unfold Part.examineReach
  split <;> exact noted

theorem lampLost_keeps (p : Part) (x : Face × Colour) : KeepsHalt p (p.lampLost x) := by
  unfold Part.lampLost
  simp only
  split
  · exact lampDecision_keeps (p.note _) _
  · exact id

theorem limitReport_keeps (p : Part) (g : Gate) (was : GateRec) : KeepsHalt p (p.limitReport g was) := by
  unfold Part.limitReport
  simp only
  split
  · exact report_keeps p _ _
  · split
    · exact .refl p
    · split
      · exact arrivedClosed_keeps p g
      · split
        · exact arrivedOpen_keeps p g
        · exact .refl p

theorem surveyStopped_same (p : Part) (g : Gate) (was : GateState) : SameHalt p (p.surveyStopped g was) := by
  unfold Part.surveyStopped
  split
  · exact closeGate_same p _ _
  · exact .refl p

theorem surveyRise_same (p : Part) (k : Sluice) (was : Nat) : SameHalt p (p.surveyRise k was) := by
  unfold Part.surveyRise
  split
  · unfold Part.surveySluice
    split
    · exact closeSluice_same p k
    · exact .refl p
  · exact .refl p

theorem takePosition_same (p : Part) (k : Sluice) (n : Nat) : SameHalt p (p.takePosition k n) := by
  unfold Part.takePosition
  simp only
  split
  · exact (putSluice_same p _ _).trans (rampNext_same _ _)
  · split
    · exact putSluice_same p _ _
    · split
      · unfold Part.closeOn
        split
        · exact putSluice_same p _ _
        · exact (putSluice_same p _ _).trans (stepSluice_same _ _ _)
      · exact putSluice_same p _ _

theorem withdrawAwaiting_keeps (p : Part) : KeepsHalt p p.withdrawAwaiting := by
  unfold Part.withdrawAwaiting
  split
  · next waiting =>
    intro h
    have working : p.mode = .working := by
      unfold Part.entryAwaiting at waiting
      split at waiting
      · split at waiting
        · next e => exact e.1
        · cases waiting
      · cases waiting
    exact (withdraw_live p (live_working h working)).matches
  · exact .refl p

theorem setLost_keeps (p : Part) (b : Bool) : KeepsHalt p (p.setLost b) :=
  (refreshFaces_same { p with link := { p.link with lost := b } }).keeps

theorem feedWatchdog_keeps (p : Part) : KeepsHalt p p.feedWatchdog := by
  have restored : KeepsHalt p p.restoreLink := by
    unfold Part.restoreLink
    split
    · exact fun h => settle_keeps _ _ _ (setLost_keeps p false h)
    · exact .refl p
  exact restored

theorem judge_keeps (p : Part) (x : Port) (kind : Byte) (tag : Tag) (body : List Byte) :
    KeepsHalt p (p.judge x kind tag body) := by
  unfold Part.judge
  split
  · split
    · unfold Part.route
      split
      · exact request_keeps _ p
      · exact refuse_keeps _ _ _ _
    · exact id
  · exact id

theorem frameOnA_keeps (p : Part) (kind : Byte) (tag : Tag) (body : List Byte) :
    KeepsHalt p (p.frameOnA kind tag body) := by
  unfold Part.frameOnA
  simp only
  intro h
  have fed := feedWatchdog_keeps p h
  split
  · have judged := judge_keeps (p.feedWatchdog.overtaken p) .a kind tag body fed
    exact judged
  · have judged := judge_keeps p.feedWatchdog .a kind tag body fed
    exact judged

theorem receive_keeps (p : Part) (x : Port) (b : Byte) : KeepsHalt p (p.receive x b) := by
  have hunted (q : Part) : KeepsHalt q (q.hunt x b) := by
    unfold Part.hunt
    split <;> exact id
  unfold Part.receive
  split
  · exact hunted p
  · split
    · exact hunted (p.dropFrame x)
    · split
      · unfold Part.takeLen
        split <;> exact id
      · unfold Part.frameByte
        split
        · unfold Part.completeFrame
          simp only
          split
          · unfold Part.validFrame
            split
            · split
              · exact frameOnA_keeps (p.setReceiver x .hunting) _ _ _
              · exact judge_keeps (p.setReceiver x .hunting) _ _ _ _
            · exact id
          · exact id
        · exact id

/-- Every command keeps the halt record with the mode HALTED. -/
theorem exec_keeps (c : Instr) (s t : State) (run : exec c s = .next t) : KeepsHalt s.part t.part := by
  by_cases request : isRequest c = true
  · rw [part_of_next (exec_request s request) run]
    exact request_keeps c s.part
  cases c with
  | sampleArrival x raw =>
    cases run
    refine .trans ?_ (settle_keeps _ _ _)
    refine .trans ?_ (announce_keeps _ _)
    refine .trans ?_ (driftOf_keeps _ _)
    exact sampled_keeps _ _ _ _
  | sampleTimerExpiry x =>
    simp only [exec, execSampleTimerExpiry] at run
    split at run <;> cases run
    · exact id
    · refine .trans ?_ (settle_keeps _ _ _)
      refine .trans ?_ (announce_keeps _ _)
      exact fun h => noteClass_keeps _ _ _ (by exact h)
  | limitInputChange g l b =>
    simp only [exec, execLimitInputChange] at run
    split at run <;> cases run
    · exact .refl _
    · refine .trans ?_ (settle_keeps _ _ _)
      refine .trans ?_ (surveyStopped_same _ _ _).keeps
      refine .trans ?_ (reevaluateOpen_keeps _)
      refine .trans ?_ (retestBeside_keeps _ _)
      exact (putGate_same s.part g _).keeps.trans (limitReport_keeps _ _ _)
  | travelTimerExpiry g =>
    simp only [exec, execTravelTimerExpiry] at run
    split at run <;> cases run
    · exact .refl _
    · refine .trans ?_ (settle_keeps _ _ _)
      refine .trans ?_ (surveyStopped_same _ _ _).keeps
      refine .trans ?_ (reevaluateOpen_keeps _)
      exact (putGate_same s.part g _).keeps.trans (report_keeps _ _ _)
  | positionFeedbackChange k n =>
    simp only [exec, execPositionFeedbackChange] at run
    split at run <;> cases run
    · exact .refl _
    · refine .trans ?_ (settle_keeps _ _ _)
      refine .trans ?_ (surveyRise_same _ _ _).keeps
      refine .trans ?_ (reevaluateOpen_keeps _)
      refine .trans ?_ (retestBeside_keeps _ _)
      exact (takePosition_same s.part k _).keeps.trans (finishTransfer_keeps _ _)
  | stepTimerExpiry k =>
    simp only [exec, execStepTimerExpiry] at run
    split at run <;> cases run
    · exact .refl _
    · refine .trans ?_ (settle_keeps _ _ _)
      refine .trans ?_ (finishTransfer_keeps _ _)
      exact (putSluice_same s.part k _).keeps.trans (report_keeps _ _ _)
  | rampIntervalExpiry k =>
    simp only [exec, execRampIntervalExpiry] at run
    split at run <;> cases run
    · exact .refl _
    · exact ((putSluice_same s.part k _).trans (retestRamp_same _ _)).keeps
  | dueUpStepIssue k => cases run; exact (retestRamp_same _ _).keeps
  | gateTravelResume g => cases run; exact (resumeTravel_keeps _ _).trans (settle_keeps _ _ _)
  | transferTimerExpiry k =>
    simp only [exec, execTransferTimerExpiry] at run
    split at run <;> cases run
    · exact .refl _
    · refine .trans ?_ (settle_keeps _ _ _)
      exact (putSluice_same s.part k _).keeps.trans (report_keeps _ _ _)
  | lampRefresh current =>
    cases run
    exact fun h => settle_keeps _ _ _ (foldl_keeps _ lampLost_keeps _ (s.part.refreshLamps current) h)
  | eStopAsserted =>
    simp only [exec, execEStopAsserted] at run
    split at run <;> cases run
    · exact .refl _
    · exact fun h => settle_keeps _ _ _ (report_keeps { s.part with eStop := true } _ _ h)
  | eStopNegated => cases run; exact id
  | navInhibitChange b => cases run; exact fun h => settle_keeps { s.part with navInhibit := b } _ _ h
  | moveTimerExpiry =>
    simp only [exec, execMoveTimerExpiry] at run
    split at run <;> cases run
    · exact .refl _
    · exact fun h => settle_keeps _ _ _ (report_keeps (s.part.onLockage _) _ _ h)
  | windowTimerExpiry =>
    simp only [exec, execWindowTimerExpiry] at run
    split at run <;> cases run
    · exact .refl _
    · refine fun h => settle_keeps _ _ _ ?_
      split
      · next commit => exact advance_matches _ (live_working h (commitInHand_working _ commit))
      · exact h
  | watchdogExpiry =>
    simp only [exec, execWatchdogExpiry] at run
    split at run <;> cases run
    · exact .refl _
    · exact fun h => settle_keeps _ _ _ (withdrawAwaiting_keeps _ (setLost_keeps _ true (by exact h)))
  | clockAdvance => cases run; exact id
  | byteReceived x b =>
    rw [part_of_next (q := s.part.receive x b) rfl run]
    exact receive_keeps s.part x b
  | gapTimeout x =>
    simp only [exec, execGapTimeout] at run
    split at run <;> cases run
    · exact .refl _
    · exact id
  | powerOn v =>
    rw [part_of_next (q := Part.powerOn v) rfl run]
    exact fun _ => powerOn_matches v
  | turnEvaluate => cases run; exact turnArrival_keeps _ _ _
  | tallyAppend =>
    cases run
    exact (recorded_same (tryTally_recorded _)).keeps.trans (turnArrival_keeps _ _ _)
  | surveyEnd => cases run; exact settle_keeps _ _ _
  | openStepEvaluate => cases run; exact (reevaluateOpen_keeps _).trans (settle_keeps _ _ _)
  | _ => exact absurd rfl request

/-- Settles O5: the mode HALTED is entered with the halt record, and left with it. -/
theorem haltRecordMarksHalted : Obligations.HaltRecordMarksHalted := by
  intro s t run h
  rcases step_cases run with ⟨c, rest, _, run⟩ | idle
  · exact exec_keeps c _ t run h
  · rw [idle]; exact h

end Sys2Proof.Machine
end

section
/-! PROOFS. The block itself: a step's command, its idle millisecond, and the values after reset. -/

namespace Sys2Proof.Machine

/-! ### The block -/

/-- Every command answers a next state that differs in its part alone. -/
theorem exec_next (c : Instr) (s : State) : ∃ q, exec c s = .next { s with part := q } := by
  by_cases request : isRequest c = true
  · exact ⟨_, exec_request s request⟩
  cases c with
  | sampleArrival x raw => exact ⟨_, rfl⟩
  | sampleTimerExpiry x => simp only [exec, execSampleTimerExpiry]; split <;> exact ⟨_, rfl⟩
  | limitInputChange g l b => simp only [exec, execLimitInputChange]; split <;> exact ⟨_, rfl⟩
  | travelTimerExpiry g => simp only [exec, execTravelTimerExpiry]; split <;> exact ⟨_, rfl⟩
  | positionFeedbackChange k n => simp only [exec, execPositionFeedbackChange]; split <;> exact ⟨_, rfl⟩
  | stepTimerExpiry k => simp only [exec, execStepTimerExpiry]; split <;> exact ⟨_, rfl⟩
  | rampIntervalExpiry k => simp only [exec, execRampIntervalExpiry]; split <;> exact ⟨_, rfl⟩
  | dueUpStepIssue k => exact ⟨_, rfl⟩
  | gateTravelResume g => exact ⟨_, rfl⟩
  | transferTimerExpiry k => simp only [exec, execTransferTimerExpiry]; split <;> exact ⟨_, rfl⟩
  | lampRefresh current => exact ⟨_, rfl⟩
  | eStopAsserted => simp only [exec, execEStopAsserted]; split <;> exact ⟨_, rfl⟩
  | eStopNegated => exact ⟨_, rfl⟩
  | navInhibitChange b => exact ⟨_, rfl⟩
  | moveTimerExpiry => simp only [exec, execMoveTimerExpiry]; split <;> exact ⟨_, rfl⟩
  | windowTimerExpiry => simp only [exec, execWindowTimerExpiry]; split <;> exact ⟨_, rfl⟩
  | watchdogExpiry => simp only [exec, execWatchdogExpiry]; split <;> exact ⟨_, rfl⟩
  | clockAdvance => exact ⟨_, rfl⟩
  | byteReceived x b => exact ⟨_, rfl⟩
  | gapTimeout x => simp only [exec, execGapTimeout]; split <;> exact ⟨_, rfl⟩
  | powerOn v => exact ⟨_, rfl⟩
  | turnEvaluate => exact ⟨_, rfl⟩
  | tallyAppend => exact ⟨_, rfl⟩
  | surveyEnd => exact ⟨_, rfl⟩
  | openStepEvaluate => exact ⟨_, rfl⟩
  | _ => exact absurd rfl request

/-- Settles O1: a step is its front command, and every command's arm answers a next state. -/
theorem stepRunsFrontCommand : Obligations.StepRunsFrontCommand :=
  ⟨fun c s rest front => by unfold step; rw [front], exec_next⟩

/-- Settles O2: the tick maps each record by its own millisecond. -/
theorem idleMillisecondRunsTimers : Obligations.IdleMillisecondRunsTimers := by
  intro s idle
  refine ⟨s.part.tick, by unfold step; rw [idle], rfl, fun r => ?_, fun g => ?_, fun k => ?_, rfl, fun x => ?_⟩
  · simp [Part.tick, ReachRec.tick]
  · simp [Part.tick, GateRec.tick, lessOne]
  · simp [Part.tick, SluiceRec.tick, lessOne]
  · simp only [Part.tick, Three.get_map]
    cases s.part.link.receivers.get x <;> rfl

/-! ### Reset -/

/-- Right after reset no gate travels, no face shows PROCEED and no vessel waits. -/
theorem initial_sound : (let p := Part.initial
    p.ProceedGuarded ∧ p.HaltMatches ∧ p.HullsDistinct ∧ p.QueuesOrdered ∧ p.DrivesMatch ∧ p.NumbersInRange
      ∧ p.SluicesInRange) := by
  refine ⟨fun f shown => ?_, ⟨nofun, nofun⟩, List.nodup_nil, ⟨nofun, nofun⟩, fun g => by cases g <;> rfl, ?_, fun k => ?_⟩
  · simp only [Part.initial, faceOf_faceMap, FaceRec.reset] at shown
    split at shown <;> cases shown
  · simp [Part.NumbersInRange, assignable, Part.initial, OutletUnit.initial]
  · cases k <;> decide

/-- Settles O3: each value read off the machine as reset leaves it. -/
theorem resetLeavesTheSpecsValues : Obligations.ResetLeavesTheSpecsValues := by
  refine ⟨⟨rfl, rfl, fun r => ?_, rfl, rfl, rfl, rfl, rfl, rfl, rfl, rfl, rfl, fun g => ?_, fun k => ?_, rfl, fun f => ?_,
    fun f c => ?_, rfl, fun x => ?_, rfl, rfl, rfl⟩, initial_sound⟩
  · cases r <;> decide
  · cases g <;> rfl
  · cases k <;> rfl
  · simp only [State.reset, Part.initial, faceOf_faceMap, FaceRec.reset]
  · simp only [State.reset, Part.initial, lampOf_lampMap]
    cases c <;> rfl
  · cases x <;> exact ⟨rfl, rfl⟩

end Sys2Proof.Machine
end

section
/-! PROOFS. The level monitor's judgements (chapter 1): settling and recovery, the compare, the chamber states,
passability and the flood judgement. -/

namespace Sys2Proof.Machine

variable {p q : Part}

/-! ### Settling and recovery (R2, R4, R5) -/

/-- A clamped raw, written out (R2). -/
theorem clampRaw_eq (g : ReachGroup) (raw : Nat) :
    clampRaw g raw = if raw < g.rmin then g.rmin else if g.rmax < raw then g.rmax else raw := rfl

/-- A sample before the twentieth is counted and stored, and the reach stays SETTLING (R2). -/
theorem settled_early (x : ReachRec) (g : ReachGroup) (raw : Nat) (few : x.settleCount < 19) :
    x.settled g raw = { x with settleCount := x.settleCount + 1, window := pushFour x.window (clampRaw g raw)
                               previousRaw := some raw, missed := 0 } := by
  have count : min 20 (x.settleCount + 1) = x.settleCount + 1 := by omega
  have early : x.settleCount + 1 ≠ 20 := by omega
  simp [ReachRec.settled, count, early]

/-- A jump above the threshold breaks the reach (R4). -/
theorem tested_jump (x : ReachRec) (g : ReachGroup) (raw v : Nat) (last : x.previousRaw = some v) (on : 0 < g.jump)
    (far : g.jump < rawDiff raw v) :
    x.tested g raw = { x with cls := .broken, runCount := 1, run := [raw], missed := 0 } := by
  have kept : ¬ (g.jump = 0 ∨ rawDiff raw v ≤ g.jump) := by omega
  simp [ReachRec.tested, last, kept]

/-- A sample within the threshold of the newest of the run extends it (R5). -/
theorem extended_near (x : ReachRec) (g : ReachGroup) (raw v : Nat) (last : x.run.getLast? = some v)
    (near : rawDiff raw v ≤ g.jump) :
    x.extended g raw = { x with run := pushFour x.run raw, runCount := x.runCount + 1, missed := 0 } := by
  simp [ReachRec.extended, last, near]

/-- Any other sample restarts the run (R5). -/
theorem extended_far (x : ReachRec) (g : ReachGroup) (raw : Nat)
    (far : ∀ v, x.run.getLast? = some v → g.jump < rawDiff raw v) :
    x.extended g raw = { x with run := [raw], runCount := 1, missed := 0 } := by
  unfold ReachRec.extended
  split
  · next v last => exact if_neg (by have := far v last; omega)
  · rfl

/-- A missed period, field by field (R7). -/
theorem missedPeriod_eq (x : ReachRec) : x.missedPeriod = { x with
    cls := if x.missed = 4 ∧ x.cls.ordered = true then .stale else x.cls
    missed := min 5 (x.missed + 1), sampleTimer := 200
    run := if x.missed = 4 ∧ x.cls = .broken then [] else x.run
    runCount := if x.missed = 4 ∧ x.cls = .broken then 0 else x.runCount } := by
  unfold ReachRec.missedPeriod
  split
  · next fifth => cases cls : x.cls <;> simp [ReachRec.silent, ReadingClass.ordered, fifth, Config.samplePeriod]
  · next fifth => simp [fifth, Config.samplePeriod]

/-- A missed period leaves the reading its rule gives the record, and without a change of class it changes nothing else
(R7). -/
theorem sampleTimer_leaves (r : Reach) (s : State) :
    ∃ q, exec (.sampleTimerExpiry r) s = .next { s with part := q }
      ∧ (q.reaches.get r).reading = (s.part.reaches.get r).missedPeriod.reading
      ∧ ((s.part.reaches.get r).missedPeriod.cls = (s.part.reaches.get r).cls →
          q = { s.part with reaches := s.part.reaches.set r (s.part.reaches.get r).missedPeriod }) := by
  simp only [exec, execSampleTimerExpiry, Five.get_set_self]
  split
  · exact ⟨_, rfl, congrArg ReachRec.reading (Five.get_set_self _ _ _), fun _ => rfl⟩
  · next other =>
    refine ⟨_, rfl, ?_, fun same => absurd same other⟩
    have follows : ∀ (p : Part) (was : ReadingClass) (b : Bool), Onward p (((p.noteClass r was).announce r).settle b) :=
      fun p was b => (noteClass_worked p r was).onward.trans ((announce_onward _ r).trans (settle_onward _ b _))
    rw [(follows _ _ _).toMoved.reading r, Five.get_set_self]

theorem sampled_settling {x : ReachRec} (h : x.cls = .settling) (g : ReachGroup) (raw : Nat) :
    x.sampled g raw = x.settled g raw := by simp [ReachRec.sampled, h]

theorem sampled_broken {x : ReachRec} (h : x.cls = .broken) (g : ReachGroup) (raw : Nat) :
    x.sampled g raw = x.recovering g raw := by simp [ReachRec.sampled, h]

/-- The record a sample leaves, up to its isolation, which is examined after it (R8). -/
theorem sampleArrival_leaves (r : Reach) (raw : Fin 4096) (s : State) (g : ReachGroup)
    (hg : s.part.settings.reach.get r = some g) :
    ∃ q, exec (.sampleArrival r raw) s = .next { s with part := q }
      ∧ (q.reaches.get r).reading
          = { (s.part.reaches.get r).sampled g raw.val with sampleTimer := Config.samplePeriod }.reading := by
  obtain ⟨q, run, reading⟩ := sampleArrival_reading r raw s
  exact ⟨q, run, by rw [reading, hg, arrival_some]⟩

/-- Settles O15: each sample by its class, read off the record it leaves. -/
theorem settlingAndRecoveryTakeTwenty : Obligations.SettlingAndRecoveryTakeTwenty := by
  refine ⟨fun r s settling => ⟨fun raw g hg few => ?_, ?_⟩, fun r raw s g hg => ?_⟩
  · obtain ⟨q, run, left⟩ := sampleArrival_leaves r raw s g hg
    rw [sampled_settling settling, settled_early _ g _ few] at left
    have cls : (q.reaches.get r).cls = .settling := (congrArg ReachRec.cls left).trans settling
    exact ⟨q, run, cls, (congrArg ReachRec.settleCount left :),
      (congrArg ReachRec.window left).trans (pushFour_eq _ _), (congrArg ReachRec.previousRaw left :),
      (congrArg ReachRec.missed left :), level_unordered q r (by rw [cls]; rfl)⟩
  · obtain ⟨q, run, left, -⟩ := sampleTimer_leaves r s
    rw [missedPeriod_eq] at left
    refine ⟨q, run, (congrArg ReachRec.cls left).trans ?_, (congrArg ReachRec.settleCount left :)⟩
    simp [ReachRec.reading, settling, ReadingClass.ordered]
  intro x clamp
  obtain ⟨q, run, left⟩ := sampleArrival_leaves r raw s g hg
  refine ⟨fun v ordered last on far => ?_, fun v broken last near => ?_, fun broken far => ?_⟩
  · rw [sampled_ordered _ g _ ordered, tested_jump _ g _ v last on far] at left
    have cls : (q.reaches.get r).cls = .broken := (congrArg ReachRec.cls left :)
    exact ⟨q, run, cls, (congrArg ReachRec.run left :), (congrArg ReachRec.runCount left :), (congrArg ReachRec.window left :),
      (congrArg ReachRec.previousRaw left :), (congrArg ReachRec.missed left :), level_unordered q r (by rw [cls]; rfl)⟩
  · rw [sampled_broken broken, ReachRec.recovering, extended_near _ g _ v last near] at left
    refine ⟨q, run, ?_⟩
    by_cases few : (s.part.reaches.get r).runCount < 19
    · have early : ¬ 20 ≤ (s.part.reaches.get r).runCount + 1 := by omega
      rw [if_neg early] at left
      rw [if_pos few]
      exact ⟨(congrArg ReachRec.missed left :), (congrArg ReachRec.cls left).trans broken, (congrArg ReachRec.runCount left :),
        (congrArg ReachRec.run left).trans (pushFour_eq _ _), (congrArg ReachRec.window left :),
        (congrArg ReachRec.previousRaw left :)⟩
    · have late : 20 ≤ (s.part.reaches.get r).runCount + 1 := by omega
      rw [if_pos late] at left
      rw [if_neg few]
      exact ⟨(congrArg ReachRec.missed left :), (congrArg ReachRec.cls left :), (congrArg ReachRec.runCount left :),
        (congrArg ReachRec.run left :),
        (congrArg ReachRec.window left).trans (congrArg (List.map (clampRaw g)) (pushFour_eq _ _)),
        (congrArg ReachRec.previousRaw left :)⟩
  · have one : ¬ 20 ≤ 1 := by decide
    rw [sampled_broken broken, ReachRec.recovering, extended_far _ g _ far, if_neg one] at left
    exact ⟨q, run, (congrArg ReachRec.cls left).trans broken, (congrArg ReachRec.run left :),
      (congrArg ReachRec.runCount left :), (congrArg ReachRec.window left :), (congrArg ReachRec.missed left :)⟩

/-! ### The compare (R11, R12) -/

/-- Two levels compare by the rows of R11, which exclude each other. -/
theorem compareLevels_rows (u w : ReadingClass) (lu lw t : Int) (ht : 0 ≤ t) :
    (compareLevels u w lu lw t = .above ↔ t < lu - lw ∧ u ≠ .limitedLow ∧ w ≠ .limitedHigh)
      ∧ (compareLevels u w lu lw t = .below ↔ lu - lw < -t ∧ u ≠ .limitedHigh ∧ w ≠ .limitedLow)
      ∧ (compareLevels u w lu lw t = .level ↔ -t ≤ lu - lw ∧ lu - lw ≤ t ∧ u.limited = false ∧ w.limited = false) := by
  unfold compareLevels
  split
  · grind
  · split
    · grind
    · split <;> grind

/-- Its UNORDERED answer carries R12's cause. -/
theorem compareLevels_cause {u w : ReadingClass} {lu lw t : Int} {c : UnorderedCause}
    (h : compareLevels u w lu lw t = .unordered c) : c = unorderedCause u w := by
  unfold compareLevels at h
  split at h
  · cases h
  · split at h
    · cases h
    · split at h <;> cases h
      rfl

/-- With both levels and the tolerance at hand the compare is that of the two levels. -/
theorem compare_levels {f : Flight} {g : Gate} {lu lw : Int} (hf : p.settings.flight = some f)
    (hu : p.level g.above = some lu) (hw : p.level g.below = some lw) :
    p.compare g = compareLevels (p.reaches.get g.above).cls (p.reaches.get g.below).cls lu lw (f.tolerance.get g) := by
  simp [Part.compare, hf, hu, hw]

theorem compare_cause {g : Gate} {c : UnorderedCause} (h : p.compare g = .unordered c) :
    c = unorderedCause (p.reaches.get g.above).cls (p.reaches.get g.below).cls := by
  unfold Part.compare at h
  split at h
  · exact compareLevels_cause h
  · cases h; rfl

/-- Without a level on either side nothing is proven. -/
theorem compare_unordered {g : Gate}
    (h : (p.reaches.get g.above).cls.ordered = false ∨ (p.reaches.get g.below).cls.ordered = false) :
    ∃ c, p.compare g = .unordered c := by
  refine ⟨unorderedCause (p.reaches.get g.above).cls (p.reaches.get g.below).cls, ?_⟩
  rcases h with no | no <;> simp [Part.compare, level_unordered p _ no]

/-! ### The chamber states (R13) -/

/-- A VALID reach with its group SET has a level. -/
theorem validLevel_some {r : Reach} (set : p.settings.reach.get r ≠ none) (h : (p.reaches.get r).cls = .valid) :
    ∃ l, p.level r = some l ∧ p.validLevel r = some l := by
  obtain ⟨g, hg⟩ := Option.ne_none_iff_exists'.mp set
  have l := level_ordered p r g hg (by rw [h]; rfl)
  exact ⟨_, l, by rw [Part.validLevel, if_pos h, l]⟩

theorem validLevel_none {r : Reach} (h : (p.reaches.get r).cls ≠ .valid) : p.validLevel r = none := if_neg h

theorem inBand_iff {l n t : Int} : inBand l n t = true ↔ n - t ≤ l ∧ l ≤ n + t := by simp [inBand]

/-! ### Passability (R14) -/

/-- The greatest draught of a convoy is that of a vessel none exceeds. -/
theorem maxDraught_greatest {vs : List Vessel} {v : Vessel} (mem : v ∈ vs) (most : ∀ w ∈ vs, w.draught ≤ v.draught) :
    maxDraught vs = v.draught := by
  have upper : ∀ (ws : List Vessel) (d : Nat), (∀ w ∈ ws, w.draught ≤ v.draught) → d ≤ v.draught →
      ws.foldl (fun d w => max d w.draught) d ≤ v.draught := by
    intro ws
    induction ws with
    | nil => exact fun d _ hd => hd
    | cons w ws ih =>
      exact fun d all hd => ih _ (fun x hx => all x (.tail _ hx)) (Nat.max_le.mpr ⟨hd, all w (.head _)⟩)
  have grows : ∀ (ws : List Vessel) (d : Nat), d ≤ ws.foldl (fun d w => max d w.draught) d := by
    intro ws
    induction ws with
    | nil => exact fun d => Nat.le_refl d
    | cons w ws ih => exact fun d => Nat.le_trans (Nat.le_max_left _ _) (ih _)
  have lower : ∀ (ws : List Vessel) (d : Nat), v ∈ ws → v.draught ≤ ws.foldl (fun d w => max d w.draught) d := by
    intro ws
    induction ws with
    | nil => exact fun d h => nomatch h
    | cons w ws ih =>
      intro d h
      cases h with
      | head => exact Nat.le_trans (Nat.le_max_right _ _) (grows ws _)
      | tail _ h => exact ih _ h
  exact Nat.le_antisymm (upper vs 0 most (Nat.zero_le _)) (lower vs 0 mem)

/-- An ordered class that is not LIMITED_LOW is VALID or LIMITED_HIGH. -/
theorem level_some_cls {r : Reach} {l : Int} (h : p.level r = some l) :
    (p.reaches.get r).cls = .valid ∨ (p.reaches.get r).cls = .limitedHigh ∨ (p.reaches.get r).cls = .limitedLow := by
  by_cases ordered : (p.reaches.get r).cls.ordered = true
  · revert ordered
    cases (p.reaches.get r).cls <;> simp [ReadingClass.ordered]
  · rw [level_unordered p r (by simpa using ordered)] at h
    cases h

/-- A depth over a sill is proven from a VALID or a LIMITED_HIGH level alone. -/
theorem depthProven_iff (r : Reach) (sill need : Int) : p.depthProven r sill need = true ↔
    ((p.reaches.get r).cls = .valid ∨ (p.reaches.get r).cls = .limitedHigh)
      ∧ ∃ l, p.level r = some l ∧ need ≤ l - sill := by
  unfold Part.depthProven
  split
  · next l h =>
    have cls := level_some_cls h
    simp only [Bool.and_eq_true, decide_eq_true_eq, h, Option.some.injEq, exists_eq_left']
    refine and_congr_left fun _ => ?_
    rcases cls with cls | cls | cls <;> simp [cls]
  · next h => simp [h]

/-- What a chamber state is judged to be from whether it is known, FULL and EMPTY. -/
def Judged (x : ChamberState) (known full empty : Prop) : Prop :=
  (x = .unknown ↔ ¬ known) ∧ (x = .full ↔ known ∧ full) ∧ (x = .empty ↔ known ∧ empty)
    ∧ (x = .part ↔ known ∧ ¬ full ∧ ¬ empty)

theorem judged_unknown {known full empty : Prop} (h : ¬ known) : Judged .unknown known full empty := by
  simp [Judged, h]

/-- A known chamber tested for FULL first. -/
theorem judged_fullFirst {known a b a' b' : Prop} [Decidable a] [Decidable b] (h : known) (ha : a' ↔ a) (hb : b' ↔ b) :
    Judged (if a then .full else if b then .empty else .part) known a' (¬ a' ∧ b') := by
  simp only [Judged, h, ha, hb]
  by_cases full : a
  · simp [full]
  · by_cases empty : b <;> simp [full, empty]

/-- A known chamber tested for EMPTY first. -/
theorem judged_emptyFirst {known a b a' b' : Prop} [Decidable a] [Decidable b] (h : known) (ha : a' ↔ a)
    (hb : b' ↔ b) : Judged (if a then .empty else if b then .full else .part) known (¬ a' ∧ b') a' := by
  simp only [Judged, h, ha, hb]
  by_cases empty : a
  · simp [empty]
  · by_cases full : b <;> simp [empty, full]

/-- A reach stands within a band of its level (R13). -/
def Part.Inside (p : Part) (r : Reach) (n t : Int) : Prop :=
  ∃ l, p.level r = some l ∧ n - t ≤ l ∧ l ≤ n + t

theorem inside_iff {r : Reach} {l n t : Int} (h : p.level r = some l) : p.Inside r n t ↔ inBand l n t = true := by
  simp [Part.Inside, h, inBand_iff]

/-- Without FLIGHT or a VALID level the chamber is UNKNOWN. -/
theorem chamberState_unknown {c : Chamber} (h : (p.reaches.get c.reach).cls ≠ .valid) :
    p.chamberState c = .unknown := by
  simp [Part.chamberState, validLevel_none h]

theorem validLevel_iff {r : Reach} (set : p.settings.reach.get r ≠ none) :
    p.validLevel r = none ↔ (p.reaches.get r).cls ≠ .valid := by
  by_cases valid : (p.reaches.get r).cls = .valid
  · obtain ⟨l, -, h⟩ := validLevel_some set valid
    simp [h, valid]
  · simp [validLevel_none valid, valid]

section
variable {f : Flight} (hf : p.settings.flight = some f) (set : ∀ r, p.settings.reach.get r ≠ none)
include hf set

theorem chamberState_c1 : Judged (p.chamberState .c1)
    ((p.reaches.get .c1).cls = .valid ∧ (p.reaches.get .head).cls = .valid) (p.compare .g0 = .level)
    (p.compare .g0 ≠ .level ∧ p.Inside .c1 f.n1 f.tolerance.g1) := by
  by_cases valid : (p.reaches.get .c1).cls = .valid
  · obtain ⟨l, level, h⟩ := validLevel_some (set .c1) valid
    have state : p.chamberState .c1 = if p.validLevel .head = none then .unknown
        else if p.compare .g0 = .level then .full
        else if inBand l f.n1 f.tolerance.g1 then .empty else .part := by
      simp [Part.chamberState, hf, Chamber.reach, h]
    rw [state]
    by_cases head : (p.reaches.get .head).cls = .valid
    · rw [if_neg (fun no => (validLevel_iff (set .head)).mp no head)]
      exact judged_fullFirst ⟨valid, head⟩ .rfl (inside_iff level)
    · rw [if_pos ((validLevel_iff (set .head)).mpr head)]
      exact judged_unknown fun known => head known.2
  · rw [chamberState_unknown valid]
    exact judged_unknown fun known => valid known.1

theorem chamberState_c2 : Judged (p.chamberState .c2) ((p.reaches.get .c2).cls = .valid)
    (p.Inside .c2 f.n1 f.tolerance.g1)
    (¬ p.Inside .c2 f.n1 f.tolerance.g1 ∧ p.Inside .c2 f.n2 f.tolerance.g2) := by
  by_cases valid : (p.reaches.get .c2).cls = .valid
  · obtain ⟨l, level, h⟩ := validLevel_some (set .c2) valid
    have state : p.chamberState .c2 = if inBand l f.n1 f.tolerance.g1 then .full
        else if inBand l f.n2 f.tolerance.g2 then .empty else .part := by
      simp [Part.chamberState, hf, Chamber.reach, h]
    rw [state]
    exact judged_fullFirst valid (inside_iff level) (inside_iff level)
  · rw [chamberState_unknown valid]
    exact judged_unknown valid

theorem chamberState_c3 : Judged (p.chamberState .c3)
    ((p.reaches.get .c3).cls = .valid ∧ (p.reaches.get .tail).cls = .valid)
    (p.compare .g3 ≠ .level ∧ p.Inside .c3 f.n2 f.tolerance.g2) (p.compare .g3 = .level) := by
  by_cases valid : (p.reaches.get .c3).cls = .valid
  · obtain ⟨l, level, h⟩ := validLevel_some (set .c3) valid
    have state : p.chamberState .c3 = if p.validLevel .tail = none then .unknown
        else if p.compare .g3 = .level then .empty
        else if inBand l f.n2 f.tolerance.g2 then .full else .part := by
      simp [Part.chamberState, hf, Chamber.reach, h]
    rw [state]
    by_cases tail : (p.reaches.get .tail).cls = .valid
    · rw [if_neg (fun no => (validLevel_iff (set .tail)).mp no tail)]
      exact judged_emptyFirst ⟨valid, tail⟩ .rfl (inside_iff level)
    · rw [if_pos ((validLevel_iff (set .tail)).mpr tail)]
      exact judged_unknown fun known => tail known.2
  · rw [chamberState_unknown valid]
    exact judged_unknown fun known => valid known.1

end

/-- Settles O18: the rows exclude each other, each chamber is judged by its tests in their order, and a convoy's
greatest draught is its deepest vessel's. -/
theorem compareTakesItsTable : Obligations.CompareTakesItsTable := by
  refine ⟨fun p g => ?_, fun p f hf set => ?_, fun p f vs v hf mem most => ?_⟩
  · refine ⟨compare_unordered, fun c h => compare_cause h, fun f lu lw hf hu hw ht => ?_⟩
    rw [compare_levels hf hu hw]
    exact compareLevels_rows _ _ lu lw _ ht
  · exact ⟨chamberState_c1 hf set, chamberState_c2 hf set, chamberState_c3 hf set⟩
  · rw [Part.passable, Bool.and_eq_true, Part.headProven, Part.tailProven, hf, maxDraught_greatest mem most]
    exact and_congr (depthProven_iff _ _ _) (depthProven_iff _ _ _)

/-! ### The flood judgement (R15) -/

/-- A pound is FLOODED when its level is proven above the limit, and NAVIGABLE when it is proven not to be. -/
theorem floodOf_iff (r : Reach) (m : Int) :
    (p.floodOf r (some m) = .flooded ↔ ((p.reaches.get r).cls = .valid ∨ (p.reaches.get r).cls = .limitedHigh)
        ∧ ∃ l, p.level r = some l ∧ m < l)
      ∧ (p.floodOf r (some m) = .navigable ↔ ((p.reaches.get r).cls = .valid ∨ (p.reaches.get r).cls = .limitedLow)
        ∧ ∃ l, p.level r = some l ∧ l ≤ m) := by
  unfold Part.floodOf
  cases h : p.level r with
  | none => simp
  | some l =>
    simp only [Option.some.injEq, exists_eq_left']
    by_cases above : m < l
    · have notUnder : ¬ l ≤ m := by omega
      rcases level_some_cls h with cls | cls | cls <;> simp [cls, poundFlood, above, notUnder]
    · have under : l ≤ m := by omega
      rcases level_some_cls h with cls | cls | cls <;> simp [cls, poundFlood, above, under]

theorem join_flooded (a b : Flood) : a.join b = .flooded ↔ a = .flooded ∨ b = .flooded := by
  cases a <;> cases b <;> simp [Flood.join]

theorem join_navigable (a b : Flood) : a.join b = .navigable ↔ a = .navigable ∧ b = .navigable := by
  cases a <;> cases b <;> simp [Flood.join]

/-- Settles O19: the flight's judgement joins the pounds', and readiness asks NAVIGABLE. -/
theorem floodIsProvenOrCounts : Obligations.FloodIsProvenOrCounts := by
  intro p f hf safe flooded
  have judged : p.flood = (p.floodOf .head (some f.headFlood)).join (p.floodOf .tail (some f.tailFlood)) := by
    rw [Part.flood, hf]; rfl
  have navigable : p.flood = .navigable ↔ safe .head f.headFlood ∧ safe .tail f.tailFlood := by
    rw [judged, join_navigable]
    exact and_congr (floodOf_iff .head _).2 (floodOf_iff .tail _).2
  refine ⟨?_, navigable, fun ready => navigable.mp ?_⟩
  · rw [judged, join_flooded]
    exact or_congr (floodOf_iff .head _).1 (floodOf_iff .tail _).1
  · have all : p.readyView.all = true := ready
    simp only [ReadyView.all, Part.readyView, Bool.and_eq_true, decide_eq_true_eq] at all
    exact all.1.1.1.1.1.2

end Sys2Proof.Machine
end

section
/-! PROOFS. The works in normal form: every operation on one sluice writes one record of it, and a change of gates
and sluices leaves the isolation as R16 says. -/

namespace Sys2Proof.Machine

variable {p q r : Part}

/-! ### Isolation after a change (R16) -/

/-- The reach of a chamber after its isolation is examined. -/
theorem examineIsolation_reach (p : Part) (c : Chamber) :
    p.examineIsolation.reaches.get c.reach = p.examined c := by
  cases c <;> rfl

/-- The pounds have no isolation. -/
theorem examineIsolation_pound (p : Part) (x : Reach) (h : x.chamber = none) :
    p.examineIsolation.reaches.get x = p.reaches.get x := by
  cases x <;> first | rfl | cases h

/-- A level is judged from the reading and the group alone. -/
theorem level_of_reading (x : Reach) (h : (q.reaches.get x).reading = (p.reaches.get x).reading)
    (s : q.settings = p.settings) : q.level x = p.level x := by
  have cls : (q.reaches.get x).cls = (p.reaches.get x).cls := (congrArg ReachRec.cls h :)
  have window : (q.reaches.get x).window = (p.reaches.get x).window := (congrArg ReachRec.window h :)
  rw [Part.level, Part.level, cls, window, s]

theorem examineIsolation_reading (p : Part) (x : Reach) :
    (p.examineIsolation.reaches.get x).reading = (p.reaches.get x).reading := by
  cases h : x.chamber with
  | none => rw [examineIsolation_pound p x h]
  | some c =>
    obtain rfl : x = c.reach := by cases x <;> cases h <;> rfl
    rw [examineIsolation_reach, examined_reading]

/-- What R16 leaves in the record of a chamber. -/
theorem examined_follows (p : Part) (c : Chamber) :
    (p.isolated c = false → (p.examined c).isolationLevel = none ∧ (p.examined c).driftReported = false)
      ∧ (p.isolated c = true → (p.examined c).driftReported = (p.reaches.get c.reach).driftReported
        ∧ (p.examined c).isolationLevel
          = if (p.reaches.get c.reach).isolationLevel = none ∧ (p.reaches.get c.reach).cls = .valid then
              p.level c.reach else (p.reaches.get c.reach).isolationLevel) := by
  unfold Part.examined
  refine ⟨fun h => ?_, fun h => ?_⟩
  · rw [if_neg (by rw [h]; exact Bool.false_ne_true)]; exact ⟨rfl, rfl⟩
  · rw [if_pos h]; split <;> exact ⟨rfl, rfl⟩

/-- Isolation follows a change of gates and sluices that ends with its examination. -/
theorem examineIsolation_follows (reaches : q.reaches = p.reaches) (settings : q.settings = p.settings) :
    IsolationFollows p q.examineIsolation := by
  intro c
  have levels : q.examineIsolation.level c.reach = p.level c.reach :=
    level_of_reading c.reach (by rw [examineIsolation_reading, reaches]) settings
  have before : q.level c.reach = p.level c.reach := level_of_reading c.reach (by rw [reaches]) settings
  have here := examined_follows q c
  rw [reaches, before] at here
  rw [examineIsolation_reach, levels]
  exact here

/-- Isolation stands where no reach and no chamber's isolation changed, and every chamber has been examined. -/
theorem IsolationFollows.same (a : IsolationFollows p q) (reaches : r.reaches = q.reaches)
    (isolated : ∀ c, r.isolated c = q.isolated c) (settings : r.settings = q.settings) : IsolationFollows p r := by
  intro c
  rw [isolated, reaches, level_of_reading c.reach (p := q) (by rw [reaches]) settings]
  exact a c

/-- A second change that leaves every chamber's isolation keeps what the first one left. -/
theorem IsolationFollows.trans (a : IsolationFollows p q) (b : IsolationFollows q r)
    (isolated : ∀ c, r.isolated c = q.isolated c) (readings : ∀ x, (r.reaches.get x).reading = (q.reaches.get x).reading)
    (before : ∀ x, (q.reaches.get x).reading = (p.reaches.get x).reading)
    (settings : r.settings = q.settings) : IsolationFollows p r := by
  intro c
  have levels : r.level c.reach = q.level c.reach := level_of_reading c.reach (readings _) settings
  have cls : (q.reaches.get c.reach).cls = (p.reaches.get c.reach).cls := (congrArg ReachRec.cls (before c.reach) :)
  refine ⟨(b c).1, fun h => ?_⟩
  obtain ⟨drift, level⟩ := (b c).2 h
  obtain ⟨drift', level'⟩ := (a c).2 ((isolated c).symm.trans h)
  refine ⟨drift.trans drift', ?_⟩
  rw [level, level', levels, cls]
  split
  · next both => rw [if_pos both] at *; split <;> rfl
  · rfl

/-! ### Two records of one sluice -/

theorem isolated_put (p : Part) (k : Sluice) (x y : SluiceRec) (h : y.position = x.position) (c : Chamber) :
    Part.isolated { p with sluices := p.sluices.set k y } c
      = Part.isolated { p with sluices := p.sluices.set k x } c := by
  have position : ∀ j, ((p.sluices.set k y).get j).position = ((p.sluices.set k x).get j).position := fun j => by
    simp only [Four.get_set]; split
    · exact h
    · rfl
  simp only [Part.isolated, position]

/-- Examination reads isolation, reaches and settings alone. -/
theorem examined_congr (c : Chamber) (isolated : q.isolated c = p.isolated c) (reaches : q.reaches = p.reaches)
    (settings : q.settings = p.settings) : q.examined c = p.examined c := by
  have levels : q.level c.reach = p.level c.reach := level_of_reading c.reach (by rw [reaches]) settings
  unfold Part.examined
  rw [isolated, reaches, levels]

/-- Examined again with the same isolation, a chamber's record stands. -/
theorem examined_again (p : Part) (c : Chamber) (isolated : q.isolated c = p.isolated c)
    (reaches : q.reaches = p.examineIsolation.reaches) (settings : q.settings = p.settings) :
    q.examined c = p.examined c := by
  have levels : q.level c.reach = p.level c.reach :=
    level_of_reading c.reach (by rw [reaches, examineIsolation_reading]) settings
  have here : q.reaches.get c.reach = p.examined c := by rw [reaches, examineIsolation_reach]
  unfold Part.examined at here ⊢
  rw [isolated, levels]
  split
  · next iso =>
    rw [if_pos iso] at here
    rw [here]
    split
    · next both => rw [if_pos both] at *; split <;> rfl
    · rfl
  · next iso => rw [if_neg iso] at here; rw [here]

/-- Of two records of one sluice at one position the second stands. -/
theorem putSluice_putSluice (p : Part) (k : Sluice) (x y : SluiceRec) (h : y.position = x.position) :
    (p.putSluice k x).putSluice k y = p.putSluice k y := by
  have sluices : (p.sluices.set k x).set k y = p.sluices.set k y := by cases k <;> rfl
  have isolated := isolated_put p k x y h
  have reaches : (p.putSluice k x).reaches = (p.putSluice k y).reaches := by
    have one : ∀ c, Part.examined { p with sluices := p.sluices.set k x } c
        = Part.examined { p with sluices := p.sluices.set k y } c :=
      fun c => examined_congr c (isolated c).symm rfl rfl
    simp only [Part.putSluice, Part.examineIsolation, one]
  have again : ∀ c, Part.examined { p.putSluice k x with sluices := p.sluices.set k y } c
      = Part.examined { p with sluices := p.sluices.set k y } c :=
    fun c => examined_again _ c rfl reaches rfl
  have twice : (p.putSluice k x).putSluice k y
      = Part.examineIsolation { p.putSluice k x with sluices := p.sluices.set k y } := by
    rw [← sluices]; rfl
  rw [twice]
  unfold Part.examineIsolation
  rw [again, again, again]
  rfl

theorem putSluice_follows (p : Part) (k : Sluice) (x : SluiceRec) : IsolationFollows p (p.putSluice k x) :=
  examineIsolation_follows rfl rfl

@[simp] theorem putSluice_get (p : Part) (k : Sluice) (x : SluiceRec) : (p.putSluice k x).sluices.get k = x := by simp

@[simp] theorem putSluice_stepLimit (p : Part) (k : Sluice) (x : SluiceRec) (j : Sluice) :
    (p.putSluice k x).stepLimit j = p.stepLimit j := rfl

/-- The far sides of a sluice's own passage do not see it. -/
theorem putSluice_interlock (p : Part) (k : Sluice) (x : SluiceRec) : (p.putSluice k x).interlock k = p.interlock k := by
  cases k <;> rfl

theorem putSluice_compare (p : Part) (k : Sluice) (x : SluiceRec) (g : Gate) :
    (p.putSluice k x).compare g = p.compare g := by
  have readings : ∀ y, ((p.putSluice k x).reaches.get y).reading = (p.reaches.get y).reading :=
    fun y => examineIsolation_reading _ y
  have cls : ∀ y, ((p.putSluice k x).reaches.get y).cls = (p.reaches.get y).cls :=
    fun y => (congrArg ReachRec.cls (readings y) :)
  simp only [Part.compare, cls, level_of_reading _ (readings _) rfl, putSluice_settings]

theorem putSluice_mayStepUp (p : Part) (k : Sluice) (x : SluiceRec) :
    (p.putSluice k x).mayStepUp k = p.mayStepUp k := by
  rw [Part.mayStepUp, Part.mayStepUp, putSluice_compare, putSluice_interlock]

theorem putSluice_effectiveCap (p : Part) (k : Sluice) (x : SluiceRec) (h : x.trim = (p.sluices.get k).trim) :
    (p.putSluice k x).effectiveCap k = p.effectiveCap k := by
  rw [Part.effectiveCap, Part.effectiveCap, putSluice_get, putSluice_settings, h]

/-! ### The record each operation writes -/

/-- A step begun (R30). -/
def SluiceRec.stepped (x : SluiceRec) (d : StepDir) (limit : Option Nat) : SluiceRec :=
  { x with step := some (d, match d with | .up => x.position + 1 | .down => x.position - 1), stepTimer := limit }

theorem stepSluice_put (p : Part) (k : Sluice) (x : SluiceRec) (d : StepDir) :
    (p.putSluice k x).stepSluice k d = p.putSluice k (x.stepped d (p.stepLimit k)) := by
  unfold Part.stepSluice
  rw [putSluice_get]
  exact putSluice_putSluice p k x _ rfl

/-- The close command (R31). -/
def SluiceRec.toClose (x : SluiceRec) (limit : Option Nat) : SluiceRec :=
  if x.position = 0 then { x with target := 0, state := .closed }
  else if x.step.isSome then { x with target := 0, state := .closing }
  else ({ x with target := 0, state := .closing } : SluiceRec).stepped .down limit

theorem closeSluice_eq (p : Part) (k : Sluice) :
    p.closeSluice k = p.putSluice k ((p.sluices.get k).toClose (p.stepLimit k)) := by
  unfold Part.closeSluice SluiceRec.toClose
  dsimp only
  split
  · rfl
  · split
    · rfl
    · exact stepSluice_put p k _ _

@[simp] theorem toClose_position (x : SluiceRec) (limit : Option Nat) : (x.toClose limit).position = x.position := by
  unfold SluiceRec.toClose; split
  · rfl
  · split <;> rfl

@[simp] theorem toClose_transfer (x : SluiceRec) (limit : Option Nat) : (x.toClose limit).transfer = x.transfer := by
  unfold SluiceRec.toClose; split
  · rfl
  · split <;> rfl

theorem closeSluice_put (p : Part) (k : Sluice) (x : SluiceRec) :
    (p.putSluice k x).closeSluice k = p.putSluice k (x.toClose (p.stepLimit k)) := by
  rw [closeSluice_eq, putSluice_get, putSluice_stepLimit]
  exact putSluice_putSluice p k x _ (toClose_position x _)

/-- The ramp taken as far as it can go now (R33), with the effective cap and whether a due up-step may be issued. -/
def SluiceRec.ramped (x : SluiceRec) (cap : Nat) (may : Bool) (limit : Option Nat) : SluiceRec :=
  if x.step.isSome then { x with target := cap, state := .stepping }
  else if cap < x.position then ({ x with target := cap, state := .stepping } : SluiceRec).stepped .down limit
  else if x.position = cap then { x with target := cap, state := .held }
  else if x.due = false then { x with target := cap, state := .stepping }
  else if may then ({ x with target := cap, state := .stepping, due := false } : SluiceRec).stepped .up limit
  else { x with target := cap, state := .held }

theorem rampNext_eq (p : Part) (k : Sluice) : p.rampNext k
    = p.putSluice k ((p.sluices.get k).ramped (p.effectiveCap k) (p.mayStepUp k) (p.stepLimit k)) := by
  unfold Part.rampNext SluiceRec.ramped
  dsimp only
  split
  · rfl
  · split
    · exact stepSluice_put p k _ _
    · split
      · rfl
      · split
        · rfl
        · split
          · exact stepSluice_put p k _ _
          · rfl

@[simp] theorem ramped_position (x : SluiceRec) (cap : Nat) (may : Bool) (limit : Option Nat) :
    (x.ramped cap may limit).position = x.position := by
  unfold SluiceRec.ramped; repeat' split
  all_goals rfl

@[simp] theorem ramped_transfer (x : SluiceRec) (cap : Nat) (may : Bool) (limit : Option Nat) :
    (x.ramped cap may limit).transfer = x.transfer := by
  unfold SluiceRec.ramped; repeat' split
  all_goals rfl

theorem rampNext_put (p : Part) (k : Sluice) (x : SluiceRec) (trim : x.trim = (p.sluices.get k).trim) :
    (p.putSluice k x).rampNext k = p.putSluice k (x.ramped (p.effectiveCap k) (p.mayStepUp k) (p.stepLimit k)) := by
  rw [rampNext_eq, putSluice_get, putSluice_stepLimit, putSluice_mayStepUp, putSluice_effectiveCap p k x trim]
  exact putSluice_putSluice p k x _ (ramped_position x _ _ _)

/-- A record whose transfer, if any, enters CLOSING (R34). -/
def SluiceRec.toClosing (x : SluiceRec) : SluiceRec :=
  { x with transfer := x.transfer.map fun t => { t with phase := .closing }, rampTimer := none, due := false }

theorem beginClosing_eq (p : Part) (k : Sluice) :
    p.beginClosing k = p.putSluice k ((p.sluices.get k).toClosing.toClose (p.stepLimit k)) :=
  closeSluice_put p k _

/-- A transfer stopped as a halt stops it (R38). -/
def SluiceRec.haltStopped (x : SluiceRec) (limit : Option Nat) : SluiceRec :=
  match x.transfer with
  | some t =>
    match t.phase with
    | .ramping =>
      ({ x with waiting := none, transfer := none, trim := 0, rampTimer := none, due := false } : SluiceRec).toClose limit
    | .closing => { x with waiting := none, transfer := some { t with timer := none } }
  | none => { x with waiting := none }

theorem stopTransfer_eq (p : Part) (k : Sluice) :
    p.stopTransfer k = p.putSluice k ((p.sluices.get k).haltStopped (p.stepLimit k)) := by
  unfold Part.stopTransfer SluiceRec.haltStopped
  generalize p.sluices.get k = x
  cases held : x.transfer with
  | none => simp only [held]
  | some t =>
    cases phase : t.phase with
    | ramping => simp only [held, phase]; exact closeSluice_put p k _
    | closing => simp only [held, phase]

/-- The record ramps (R33). -/
def SluiceRec.ramps (x : SluiceRec) : Bool :=
  match x.transfer with
  | some t => decide (t.phase = .ramping)
  | none => false

theorem ramping_eq (p : Part) (k : Sluice) : p.ramping k = (p.sluices.get k).ramps := rfl

/-- After a halt nothing ramps. -/
theorem haltStopped_ramps (x : SluiceRec) (limit : Option Nat) : (x.haltStopped limit).ramps = false := by
  unfold SluiceRec.haltStopped
  split
  · split
    · simp [SluiceRec.ramps]
    · next closing => simp [SluiceRec.ramps, closing]
  · next none => simp [SluiceRec.ramps, none]

/-- A sluice HELD above 0 without a ramp is closed at a change of mode (R31). -/
def SluiceRec.modeChanged (x : SluiceRec) (limit : Option Nat) : SluiceRec :=
  if x.state = .held ∧ 0 < x.position ∧ x.ramps = false then x.toClose limit else x

theorem closeHeld_eq (p : Part) (k : Sluice) : p.closeHeld k = p ∨
    p.closeHeld k = p.putSluice k ((p.sluices.get k).modeChanged (p.stepLimit k)) := by
  unfold Part.closeHeld SluiceRec.modeChanged
  rw [ramping_eq]
  split
  · exact .inr (closeSluice_eq p k)
  · exact .inl rfl

/-! ### Feedback (R30) -/

/-- A closing goes on from the position reached (R31). -/
def SluiceRec.closedOn (x : SluiceRec) (limit : Option Nat) : SluiceRec :=
  if x.position = 0 then { x with state := .closed }
  else ({ x with state := .closing } : SluiceRec).stepped .down limit

theorem closeOn_eq (p : Part) (k : Sluice) (x : SluiceRec) :
    p.closeOn k x = p.putSluice k (x.closedOn (p.stepLimit k)) := by
  unfold Part.closeOn SluiceRec.closedOn
  split
  · rfl
  · exact stepSluice_put p k _ _

theorem moved_trim (x : SluiceRec) (n : Nat) : (x.moved n).trim = x.trim := by
  unfold SluiceRec.moved; split <;> rfl

theorem rampOn_eq (p : Part) (k : Sluice) (x : SluiceRec) (up : Bool) (trim : x.trim = (p.sluices.get k).trim) :
    p.rampOn k x up = p.putSluice k
      ((if up && !x.due then { x with rampTimer := p.rampInterval k } else x).ramped (p.effectiveCap k) (p.mayStepUp k)
        (p.stepLimit k)) := by
  unfold Part.rampOn
  dsimp only
  split <;> exact rampNext_put p k _ trim

/-- The record that a feedback leaves (R30, R31, R33). -/
def Part.positioned (p : Part) (k : Sluice) (n : Nat) : SluiceRec :=
  let was := p.sluices.get k
  let x := was.moved n
  if was.ramps then
    (if was.confirmsUp n && !x.due then { x with rampTimer := p.rampInterval k } else x).ramped (p.effectiveCap k)
      (p.mayStepUp k) (p.stepLimit k)
  else if x.step.isSome then x
  else if was.state = .closing ∨ was.confirms n then x.closedOn (p.stepLimit k)
  else x.shifted

theorem takePosition_eq (p : Part) (k : Sluice) (n : Nat) : p.takePosition k n = p.putSluice k (p.positioned k n) := by
  unfold Part.takePosition Part.positioned
  dsimp only
  rw [ramping_eq]
  split
  · exact rampOn_eq p k _ _ (moved_trim _ n)
  · split
    · rfl
    · split
      · exact closeOn_eq p k _
      · rfl

end Sys2Proof.Machine
end

section
/-! PROOFS. What the works and the signals leave to others, what a report does in each mode, and a halt in full
(R116, R117, R119). -/

namespace Sys2Proof.Machine

variable {p q r : Part}

/-! ### The frame of works and signals -/

/-- The record without the mark of a passed entry, where the entry move is in hand: only there can PROCEED set it. -/
def Lockage.unmarked (l : Lockage) : Lockage :=
  match l.plan[l.current - 1]? with
  | some ⟨.move _ _, .entry⟩ => { l with entryPassed := false }
  | _ => l

/-- No entry move is the step in hand. -/
def Part.NoEntryMove (p : Part) : Prop := ∀ g d, p.curStep ≠ some ⟨.move g d, .entry⟩

theorem unmarked_read {α : Type} (f : Lockage → α) (blind : ∀ l b, f { l with entryPassed := b } = f l) (l : Lockage) :
    f l.unmarked = f l := by
  unfold Lockage.unmarked
  split
  · exact blind l false
  · rfl

theorem unmarked_with (l : Lockage) (b : Bool) : { l.unmarked with entryPassed := b } = { l with entryPassed := b } :=
  unmarked_read (fun l => { l with entryPassed := b }) (fun _ _ => rfl) l

theorem unmarked_plain (l : Lockage) (h : ∀ g d, l.plan[l.current - 1]? ≠ some ⟨.move g d, .entry⟩) : l.unmarked = l := by
  unfold Lockage.unmarked
  split
  · exact absurd ‹_› (h _ _)
  · rfl

/-- The part without the works, the faces, the lamps, the reach records and the mark of a passed entry. -/
def Part.frame (p : Part) : Part :=
  { p with
    reaches := Part.initial.reaches, gates := Part.initial.gates, sluices := Part.initial.sluices
    faces := Part.initial.faces, lamps := Part.initial.lamps
    lockage := p.lockage.map Lockage.unmarked }

/-- Works and signals alone changed. -/
def Framing (p q : Part) : Prop := q.frame = p.frame

namespace Framing

theorem refl (p : Part) : Framing p p := rfl

theorem trans (a : Framing p q) (b : Framing q r) : Framing p r := Eq.trans b a

theorem mode (h : Framing p q) : q.mode = p.mode := (congrArg Part.mode h :)
theorem eStop (h : Framing p q) : q.eStop = p.eStop := (congrArg Part.eStop h :)
theorem navInhibit (h : Framing p q) : q.navInhibit = p.navInhibit := (congrArg Part.navInhibit h :)
theorem lampTimer (h : Framing p q) : q.lampTimer = p.lampTimer := (congrArg Part.lampTimer h :)
theorem upQueue (h : Framing p q) : q.upQueue = p.upQueue := (congrArg Part.upQueue h :)
theorem downQueue (h : Framing p q) : q.downQueue = p.downQueue := (congrArg Part.downQueue h :)
theorem nextTicket (h : Framing p q) : q.nextTicket = p.nextTicket := (congrArg Part.nextTicket h :)
theorem calls (h : Framing p q) : q.calls = p.calls := (congrArg Part.calls h :)
theorem turn (h : Framing p q) : q.turn = p.turn := (congrArg Part.turn h :)
theorem faults (h : Framing p q) : q.faults = p.faults := (congrArg Part.faults h :)
theorem outlets (h : Framing p q) : q.outlets = p.outlets := (congrArg Part.outlets h :)
theorem settings (h : Framing p q) : q.settings = p.settings := (congrArg Part.settings h :)
theorem clock (h : Framing p q) : q.clock = p.clock := (congrArg Part.clock h :)
theorem link (h : Framing p q) : q.link = p.link := (congrArg Part.link h :)
theorem sent (h : Framing p q) : q.sent = p.sent := (congrArg Part.sent h :)

theorem lockage (h : Framing p q) : q.lockage.map Lockage.unmarked = p.lockage.map Lockage.unmarked :=
  (congrArg Part.lockage h :)

/-- What any reader of the record that does not see the mark gets. -/
theorem lockage_read {α : Type} (h : Framing p q) (f : Lockage → α) (blind : ∀ l b, f { l with entryPassed := b } = f l) :
    q.lockage.map f = p.lockage.map f := by
  have unmarked : ∀ x : Option Lockage, x.map f = (x.map Lockage.unmarked).map f := fun x => by
    cases x with
    | none => rfl
    | some l => exact congrArg some (unmarked_read f blind l).symm
  rw [unmarked, unmarked p.lockage, h.lockage]

theorem lockageNumber (h : Framing p q) : q.lockageNumber = p.lockageNumber := h.lockage_read _ fun _ _ => rfl
theorem stepIndex (h : Framing p q) : q.stepIndex = p.stepIndex := h.lockage_read _ fun _ _ => rfl

theorem kept (h : Framing p q) : LockageKept p.lockage q.lockage := h.lockage_read _ fun _ _ => rfl

theorem lockage_none (h : Framing p q) (e : p.lockage = none) : q.lockage = none := by
  have same := h.lockage
  rw [e] at same
  exact Option.map_eq_none_iff.mp same

/-- The record with the mark as it now stands. -/
theorem lockage_some (h : Framing p q) {l : Lockage} (e : p.lockage = some l) :
    ∃ b, q.lockage = some { l with entryPassed := b } := by
  have same := h.lockage
  rw [e, Option.map_some, Option.map_eq_some_iff] at same
  obtain ⟨m, hm, eq⟩ := same
  refine ⟨m.entryPassed, hm.trans (congrArg some ?_)⟩
  calc m = { m.unmarked with entryPassed := m.entryPassed } := (unmarked_with m _).symm
    _ = { l.unmarked with entryPassed := m.entryPassed } := by rw [eq]
    _ = { l with entryPassed := m.entryPassed } := unmarked_with l _

/-- Outside the entry move the record stands. -/
theorem lockage_same (h : Framing p q) (no : p.NoEntryMove) : q.lockage = p.lockage := by
  cases e : p.lockage with
  | none => exact h.lockage_none e
  | some l =>
    have plain : ∀ g d, l.plan[l.current - 1]? ≠ some ⟨.move g d, .entry⟩ := fun g d => by
      simpa [Part.curStep, e] using no g d
    obtain ⟨b, hb⟩ := h.lockage_some e
    have same := h.lockage
    rw [e, hb, Option.map_some, Option.map_some, unmarked_plain l plain,
      unmarked_plain { l with entryPassed := b } plain] at same
    exact hb.trans same

theorem curStep (h : Framing p q) : q.curStep = p.curStep := by
  have read : ∀ x : Part, x.curStep = (x.lockage.map fun l => l.plan[l.current - 1]?).getD none := fun x => by
    unfold Part.curStep; cases x.lockage <;> rfl
  rw [read, read, h.lockage_read _ fun _ _ => rfl]

theorem foldl {α : Type} (f : Part → α → Part) (h : ∀ q x, Framing q (f q x)) (xs : List α) (p : Part) :
    Framing p (xs.foldl f p) := by
  induction xs generalizing p with
  | nil => rfl
  | cons x xs ih => exact (h p x).trans (ih _)

end Framing

variable (p : Part)

theorem putSluice_framing (k : Sluice) (x : SluiceRec) : Framing p (p.putSluice k x) := rfl

/-- PROCEED is shown on the entry face only while the entry move is in hand. -/
theorem entryShown_step (h : p.entryShown = true) : ∃ g d, p.curStep = some ⟨.move g d, .entry⟩ := by
  unfold Part.entryShown at h
  split at h
  · exact ⟨_, _, ‹_›⟩
  · exact absurd h Bool.false_ne_true

theorem markEntry_framing : Framing p p.markEntry := by
  unfold Part.markEntry
  split
  · rename_i shown
    obtain ⟨g, d, step⟩ := entryShown_step p shown
    unfold Framing Part.frame Part.onLockage
    cases held : p.lockage with
    | none => rfl
    | some l =>
      have cur : l.plan[l.current - 1]? = some ⟨.move g d, .entry⟩ := by simpa [Part.curStep, held] using step
      simp [Lockage.unmarked, cur]
  · rfl

theorem refreshFaces_framing : Framing p p.refreshFaces := markEntry_framing _

theorem putGate_framing (g : Gate) (x : GateRec) : Framing p (p.putGate g x) := refreshFaces_framing _

theorem requestAspect_framing (f : Face) (a : Aspect) : Framing p (p.requestAspect f a) := refreshFaces_framing _

theorem requestAllStop_framing : Framing p p.requestAllStop := refreshFaces_framing _

theorem closeGate_framing (g : Gate) (c : Commander) : Framing p (p.closeGate g c) := by
  unfold Part.closeGate
  dsimp only
  split
  · rfl
  · exact putGate_framing p g _
  · exact putGate_framing p g _

theorem openGate_framing (g : Gate) : Framing p (p.openGate g) := by
  unfold Part.openGate
  dsimp only
  split
  · rfl
  · rfl
  · split
    · exact putGate_framing p g _
    · rfl

theorem stopGate_framing (g : Gate) : Framing p (p.stopGate g) := by
  unfold Part.stopGate
  dsimp only
  split
  · exact putGate_framing p g _
  · exact putGate_framing p g _
  · rfl

theorem closeSluice_framing (k : Sluice) : Framing p (p.closeSluice k) := by
  rw [closeSluice_eq]; rfl

theorem rampNext_framing (k : Sluice) : Framing p (p.rampNext k) := by
  rw [rampNext_eq]; rfl

theorem retestRamp_framing (k : Sluice) : Framing p (p.retestRamp k) := by
  unfold Part.retestRamp
  split
  · exact rampNext_framing p k
  · rfl

theorem stopTransfer_framing (k : Sluice) : Framing p (p.stopTransfer k) := by
  rw [stopTransfer_eq]; rfl

theorem closeHeld_framing (k : Sluice) : Framing p (p.closeHeld k) := by
  rcases closeHeld_eq p k with e | e <;> rw [e] <;> rfl

/-- A change of mode moves works and signals alone beside it. -/
theorem enterMode_framing (m : Mode) : Framing { p with mode := m } (p.enterMode m) :=
  (Framing.foldl _ (fun q k => closeHeld_framing q k) _ _).trans (refreshFaces_framing _)

/-! ### A halt of the works (R38) -/

/-- A gate record after a halt. -/
def GateRec.halted (x : GateRec) : GateRec :=
  match x.state with
  | .opening => { x with state := .stopped, drive := .off, travelTimer := none, openPending := false }
  | .closing => { x with state := .stopped, drive := .off, travelTimer := none, openPending := false }
  | .stopped => { x with openPending := false }
  | _ => x

theorem haltGate_gates (g : Gate) : (p.haltGate g).gates = p.gates.set g (p.gates.get g).halted := by
  unfold Part.haltGate GateRec.halted
  cases state : (p.gates.get g).state <;> simp [state]

theorem haltGate_framing (g : Gate) : Framing p (p.haltGate g) := by
  unfold Part.haltGate
  dsimp only
  split
  · exact putGate_framing p g _
  · exact putGate_framing p g _
  · exact putGate_framing p g _
  · rfl

theorem haltGates_gates : (Gate.all.foldl Part.haltGate p).gates = p.gates.map GateRec.halted := by
  simp only [Gate.all, List.foldl_cons, List.foldl_nil, haltGate_gates]
  rfl

theorem stopTransfer_gates (k : Sluice) : (p.stopTransfer k).gates = p.gates := by rw [stopTransfer_eq]; rfl

theorem haltWorks_gates : p.haltWorks.gates = p.gates.map GateRec.halted := by
  have stand : ∀ (xs : List Sluice) (q : Part), (xs.foldl Part.stopTransfer q).gates = q.gates := by
    intro xs
    induction xs with
    | nil => exact fun _ => rfl
    | cons k xs ih => exact fun q => (ih _).trans (stopTransfer_gates q k)
  rw [Part.haltWorks, stand, haltGates_gates]

theorem haltWorks_sluices :
    ∀ k, p.haltWorks.sluices.get k = ((Gate.all.foldl Part.haltGate p).sluices.get k).haltStopped (p.stepLimit k) := by
  have limit : ∀ k, (Gate.all.foldl Part.haltGate p).stepLimit k = p.stepLimit k := fun k => by
    rw [Part.stepLimit, (Framing.foldl _ haltGate_framing _ p).settings]; rfl
  intro k
  unfold Part.haltWorks
  simp only [← limit]
  generalize Gate.all.foldl Part.haltGate p = q
  cases k <;> simp only [Gate.all, List.foldl_cons, List.foldl_nil, stopTransfer_eq, putSluice_sluices] <;> rfl

theorem haltWorks_framing : Framing p p.haltWorks :=
  (Framing.foldl _ haltGate_framing _ _).trans (Framing.foldl _ stopTransfer_framing _ _)

theorem halted_idle (x : GateRec) (h : x.drive = x.state.drive) : x.halted.drive ≠ .openDrive
    ∧ x.halted.state ≠ .opening ∧ x.halted.state ≠ .closing := by
  unfold GateRec.halted
  split
  · exact ⟨nofun, nofun, nofun⟩
  · exact ⟨nofun, nofun, nofun⟩
  · next stopped => simp [h, stopped, GateState.drive]
  · next opening closing _ =>
    refine ⟨?_, opening, closing⟩
    rw [h]
    revert opening
    cases x.state <;> simp [GateState.drive]

/-! ### Faces by the mode (R40) -/

/-- A part with a face's requested aspect, and what the derivation leaves of it. -/
theorem refreshFaces_face (f : Face) :
    faceOf p.refreshFaces.faces f = { faceOf p.faces f with shown := p.shownAspect f } := by
  have faces : p.refreshFaces.faces = p.deriveFaces.faces := by
    unfold Part.refreshFaces Part.markEntry
    split <;> rfl
  rw [faces, Part.deriveFaces, faceOf_faceMap]

theorem shownAspect_halted (f : Face) (h : p.mode = .halted) :
    p.shownAspect f = if f.isApproach then .outOfService else .stop := by
  simp [Part.shownAspect, h]

/-! ### A halt in full (R119) -/

theorem closeHeld_gates (k : Sluice) : (p.closeHeld k).gates = p.gates := by
  rcases closeHeld_eq p k with e | e <;> rw [e]
  rfl

theorem enterMode_gates (m : Mode) : (p.enterMode m).gates = p.gates := by
  simp only [Part.enterMode, Gate.all, List.foldl_cons, List.foldl_nil, refreshFaces_gates, closeHeld_gates]

/-- The halt record a halt leaves (R113). -/
def Part.haltRecord (p : Part) (k : FaultKind) (x : Subject) : HaltRec :=
  { kind := k, subject := x, mode := p.mode, lockage := p.lockageNumber, index := p.stepIndex, time := p.clock }

/-- The works and the signals of a halt. -/
def Part.haltedWorks (p : Part) (k : FaultKind) (x : Subject) : Part :=
  (({ p with faults := { p.faults with halt := some (p.haltRecord k x) } } : Part).enterMode
    .halted).haltWorks.requestAllStop

theorem haltFlight_eq (k : FaultKind) (x : Subject) : p.haltFlight k x =
    (((p.haltedWorks k x).stopLockageTimers.sendFault k x .halt p.mode).noteFault k .halt).event
      (.mode .halted (some k)) := rfl

theorem haltedWorks_framing (k : FaultKind) (x : Subject) :
    Framing { p with mode := .halted, faults := { p.faults with halt := some (p.haltRecord k x) } }
      (p.haltedWorks k x) :=
  (enterMode_framing _ .halted).trans ((haltWorks_framing _).trans (requestAllStop_framing _))

@[simp] theorem requestAllStop_gates : p.requestAllStop.gates = p.gates := refreshFaces_gates _

@[simp] theorem requestAllStop_sluices : p.requestAllStop.sluices = p.sluices := refreshFaces_sluices _

theorem haltedWorks_gates (k : FaultKind) (x : Subject) : (p.haltedWorks k x).gates = p.gates.map GateRec.halted := by
  rw [Part.haltedWorks, requestAllStop_gates, haltWorks_gates, enterMode_gates]

theorem haltedWorks_face (k : FaultKind) (x : Subject) (f : Face) :
    (faceOf (p.haltedWorks k x).faces f).requested = .stop
      ∧ (faceOf (p.haltedWorks k x).faces f).shown = if f.isApproach then .outOfService else .stop := by
  have mode : (p.haltedWorks k x).mode = .halted := (haltedWorks_framing p k x).mode
  unfold Part.haltedWorks Part.requestAllStop at mode ⊢
  rw [refreshFaces_mode] at mode
  rw [refreshFaces_face]
  refine ⟨?_, shownAspect_halted _ f mode⟩
  simp only [faceOf_faceMap]

theorem haltedWorks_ramping (k : FaultKind) (x : Subject) (j : Sluice) : (p.haltedWorks k x).ramping j = false := by
  rw [ramping_eq, Part.haltedWorks, requestAllStop_sluices, haltWorks_sluices]
  exact haltStopped_ramps _ _

/-- The timers of the lockage stand after they stop. -/
theorem stopLockageTimers_lockage :
    p.stopLockageTimers.lockage = p.lockage.map fun l => { l with moveTimer := none, windowTimer := none } := rfl

@[simp] theorem stopLockageTimers_lockageNumber : p.stopLockageTimers.lockageNumber = p.lockageNumber := by
  unfold Part.lockageNumber; rw [stopLockageTimers_lockage]; cases p.lockage <;> rfl

@[simp] theorem stopLockageTimers_stepIndex : p.stopLockageTimers.stepIndex = p.stepIndex := by
  unfold Part.stepIndex; rw [stopLockageTimers_lockage]; cases p.lockage <;> rfl

/-- What a port has sent after an event: on port A the event is last. -/
theorem event_sent (e : Event) : (p.event e).sent = { p.sent with a := p.sent.a ++ [.event e] } := rfl

@[simp] theorem event_sent_a (e : Event) : (p.event e).sent.a = p.sent.a ++ [.event e] := rfl

theorem sendFault_sent (k : FaultKind) (x : Subject) (a : Answer) (m : Mode) : (p.sendFault k x a m).sent
    = { p.sent with a := p.sent.a ++ [.event (.fault k x a m p.lockageNumber p.stepIndex p.clock)] } := rfl

theorem noteFault_link (k : FaultKind) (a : Answer) : (p.noteFault k a).link = { p.link with
    conditions := { p.link.conditions with
      fault := some { kind := k, lockage := p.lockageNumber, index := p.stepIndex
                      halting := decide (a = .halt) || p.link.conditions.halting } } } := rfl

@[simp] theorem sendFault_lockageNumber (k : FaultKind) (x : Subject) (a : Answer) (m : Mode) :
    (p.sendFault k x a m).lockageNumber = p.lockageNumber := rfl

@[simp] theorem sendFault_stepIndex (k : FaultKind) (x : Subject) (a : Answer) (m : Mode) :
    (p.sendFault k x a m).stepIndex = p.stepIndex := rfl

/-- The flight's halt, from a part whose drives follow its gates' states. -/
theorem haltFlight_halted (k : FaultKind) (x : Subject) (drives : p.DrivesMatch) : HaltedFrom p (p.haltFlight k x) k x := by
  have works := haltedWorks_framing p k x
  have number : (p.haltedWorks k x).lockageNumber = p.lockageNumber := works.lockageNumber
  have index : (p.haltedWorks k x).stepIndex = p.stepIndex := works.stepIndex
  have clock : (p.haltedWorks k x).clock = p.clock := works.clock
  have sent : (p.haltedWorks k x).sent = p.sent := works.sent
  have link : (p.haltedWorks k x).link = p.link := works.link
  have kept : LockageKept p.lockage (p.haltedWorks k x).lockage := works.kept
  have faces := haltedWorks_face p k x
  have gates := haltedWorks_gates p k x
  have ramps := haltedWorks_ramping p k x
  have idle := fun g => halted_idle (p.gates.get g) (drives g)
  obtain ⟨mode, halt⟩ := haltFlight_made p k x
  rw [haltFlight_eq] at mode halt ⊢
  clear works
  generalize p.haltedWorks k x = w at *
  refine ⟨mode, halt, ?_, ?_, ?_, ?_, fun f => ?_, fun f => ?_, fun g => ?_, fun g => ?_, fun j => ?_⟩
  · simp [sendFault_sent, number, index, clock, sent]
  · simp [noteFault_link, number, index, link]
  · unfold LockageKept at kept ⊢
    rw [← kept]
    simp [stopLockageTimers_lockage, Function.comp_def]
  · intro l h
    simp only [event_lockage, noteFault_lockage, sendFault_lockage, stopLockageTimers_lockage,
      Option.map_eq_some_iff] at h
    obtain ⟨_, _, rfl⟩ := h
    exact ⟨rfl, rfl⟩
  · simpa using (faces f).1
  · simpa using (faces f).2
  · simpa [gates] using (idle g).1
  · simpa [gates] using (idle g).2
  · simpa [ramping_eq] using ramps j

/-- A halt from a part that an event has changed in works and signals alone is a halt from the part before it. -/
theorem HaltedFrom.before {k : FaultKind} {x : Subject} {p₀ : Part} (mode : p.mode = p₀.mode)
    (number : p.lockageNumber = p₀.lockageNumber) (index : p.stepIndex = p₀.stepIndex) (clock : p.clock = p₀.clock)
    (sent : p.sent.a = p₀.sent.a) (link : p.link = p₀.link) (kept : LockageKept p₀.lockage p.lockage)
    (h : HaltedFrom p q k x) : HaltedFrom p₀ q k x := by
  obtain ⟨halted, halt, sent', link', kept', timers, requested, shown, drives, states, ramps⟩ := h
  rw [mode, number, index, clock] at halt
  rw [mode, number, index, clock, sent] at sent'
  rw [number, index, link] at link'
  exact ⟨halted, halt, sent', link', kept'.trans kept, timers, requested, shown, drives, states, ramps⟩

theorem Framing.haltedFrom {p q r : Part} {k : FaultKind} {x : Subject} (f : Framing p q) (h : HaltedFrom q r k x) :
    HaltedFrom p r k x :=
  h.before q f.mode f.lockageNumber f.stepIndex f.clock (by rw [f.sent]) f.link f.kept

/-- The turn selector takes no part in a halt. -/
theorem HaltedFrom.turn {k : FaultKind} {x : Subject} (h : HaltedFrom p q k x) (t : TurnSelector) :
    HaltedFrom p { q with turn := t } k x := h

theorem recompute_form : p.recompute = { p with turn := p.recompute.turn } := rfl

/-- At its end an event that halted the flight only recomputes the turn selector. -/
theorem HaltedFrom.settle {k : FaultKind} {x : Subject} (h : HaltedFrom p q k x) (a b : Bool) :
    HaltedFrom p (q.settle a b) k x := by
  have mode : q.mode = .halted := h.1
  rw [settle_quiet q a b (by rw [mode]; decide) (by rw [mode]; decide)]
  exact h.turn p _

theorem haltFlight_gates (k : FaultKind) (x : Subject) : (p.haltFlight k x).gates = p.gates.map GateRec.halted := by
  rw [haltFlight_eq, event_gates, noteFault_gates, sendFault_gates, stopLockageTimers_gates, haltedWorks_gates]

/-- After a halt no transfer waits for another. -/
theorem haltStopped_waiting (x : SluiceRec) (limit : Option Nat) : (x.haltStopped limit).waiting = none := by
  unfold SluiceRec.haltStopped
  split
  · split
    · unfold SluiceRec.toClose
      split
      · rfl
      · split <;> rfl
    · rfl
  · rfl

theorem haltFlight_waiting (k : FaultKind) (x : Subject) (j : Sluice) :
    ((p.haltFlight k x).sluices.get j).waiting = none := by
  rw [haltFlight_eq, event_sluices, noteFault_sluices, sendFault_sluices, stopLockageTimers_sluices, Part.haltedWorks,
    requestAllStop_sluices, haltWorks_sluices]
  exact haltStopped_waiting _ _

/-! ### A report by the mode (R116, R117) -/

/-- A lockage or a survey runs, and the response is HALT. -/
theorem report_halts (k : FaultKind) (x : Subject) (runs : p.mode = .working ∨ p.mode = .survey)
    (response : p.responseOf k = .halt) : p.report k x = p.haltFlight k x := by
  unfold Part.report
  rcases runs with mode | mode <;> simp only [mode, response]

/-- A lockage or a survey runs, and the response is CONTINUE. -/
theorem report_continues (k : FaultKind) (x : Subject) (runs : p.mode = .working ∨ p.mode = .survey)
    (response : p.responseOf k = .continue_) : p.report k x = p.continueFault k x := by
  unfold Part.report
  rcases runs with mode | mode <;> simp only [mode, response]

/-- A fixed kind halts (R114). -/
theorem responseOf_fixed (k : FaultKind) (fixed : k ≠ .sensorStale ∧ k ≠ .sensorLimited ∧ k ≠ .transferTimeout
    ∧ k ≠ .levelDrift ∧ k ≠ .lampFailed ∧ k ≠ .moveTimeout) : p.responseOf k = .halt := by
  obtain ⟨a, b, c, d, e, f⟩ := fixed
  unfold Part.responseOf
  split
  · rfl
  · cases k <;> first | rfl | contradiction

/-- The latest fault with the halting mark as it stood (R117, R120). -/
def Part.faultNoted (p : Part) (k : FaultKind) : Link :=
  { p.link with conditions := { p.link.conditions with
      fault := some { kind := k, lockage := p.lockageNumber, index := p.stepIndex
                      halting := p.link.conditions.halting } } }

/-- A report while nothing runs: sent with response NONE except while HALTED, and noted (R116, R117, R120). -/
def Part.told (p : Part) (k : FaultKind) (x : Subject) : Part :=
  { p with
    sent := { p.sent with a := p.sent.a ++ if p.mode = .halted then [] else
      [.event (.fault k x .none p.mode p.lockageNumber p.stepIndex p.clock)] }
    link := p.faultNoted k }

theorem report_told (k : FaultKind) (x : Subject) (rests : p.mode ≠ .working ∧ p.mode ≠ .survey)
    (stops : k ≠ .eStop ∧ k ≠ .operatorHalt) : p.report k x = p.told k x := by
  have stand : p.stopTravelling k = p := by simp [Part.stopTravelling, stops]
  have noted : ∀ q : Part, q.noteFault k .none = { q with link := q.faultNoted k } := fun q => by
    simp [Part.noteFault, Part.note, Conditions.noteFault, Part.faultNoted]
  have unsent : ({ p.sent with a := p.sent.a ++ [] } : Three (List Msg)) = p.sent := by rw [List.append_nil]
  unfold Part.report
  cases mode : p.mode with
  | working => exact absurd mode rests.1
  | survey => exact absurd mode rests.2
  | halted => simp only [noted, Part.told, mode, if_true, unsent]
  | startup => simp only [stand, noted, Part.told, mode, reduceCtorEq, if_false]; rw [← mode]; rfl
  | rest => simp only [stand, noted, Part.told, mode, reduceCtorEq, if_false]; rw [← mode]; rfl

/-- What a report while nothing runs leaves of works and signals: all of them. -/
theorem told_form (k : FaultKind) (x : Subject) : p.told k x = { p with sent := (p.told k x).sent, link := p.faultNoted k } :=
  rfl

/-- A fault under CONTINUE that this step has not reported yet (R117). -/
theorem continueFault_first (k : FaultKind) (x : Subject) (first : p.faults.reported.contains k = false) :
    p.continueFault k x = { p with
      faults := { p.faults with reported := p.faults.reported ++ [k] }
      sent := { p.sent with
        a := p.sent.a ++ [.event (.fault k x .continue_ p.mode p.lockageNumber p.stepIndex p.clock)] }
      link := p.faultNoted k } := by
  simp only [Part.continueFault, first, Bool.false_eq_true, if_false]
  simp [Part.noteFault, Part.note, Conditions.noteFault, Part.faultNoted, Part.sendFault, Part.event, Part.send,
    Part.lockageNumber, Part.stepIndex, Three.set, Three.get]

/-- One that it has. -/
theorem continueFault_again (k : FaultKind) (x : Subject) (again : p.faults.reported.contains k = true) :
    p.continueFault k x = p := by
  simp only [Part.continueFault, again, if_true]

/-! ### What follows an event while nothing runs -/

theorem Part.StandsBy.rests {p : Part} (h : p.StandsBy) : p.mode ≠ .working ∧ p.mode ≠ .survey := by
  rcases h with h | h | ⟨h, -⟩ <;> simp [h]

/-- Nothing follows but the turn selector's recomputation (R63, R64, R171). -/
theorem Part.StandsBy.settle {p : Part} (h : p.StandsBy) (a b : Bool) : p.settle a b = p.recompute := by
  rcases h with h | h | ⟨h, inhibit⟩
  · exact settle_quiet p a b (by simp [h]) (by simp [h])
  · exact settle_quiet p a b (by simp [h]) (by simp [h])
  · exact settle_inhibited p a b (by simp [h]) inhibit

theorem Part.StandsBy.of {p q : Part} (h : p.StandsBy) (mode : q.mode = p.mode) (inhibit : q.navInhibit = p.navInhibit) :
    q.StandsBy := by
  unfold Part.StandsBy at h ⊢
  rw [mode, inhibit]
  exact h

/-- Outside WORKING no OPEN step evaluates (R97, R111). -/
theorem reevaluateOpen_other (h : p.mode ≠ .working) : p.reevaluateOpen = p := by
  have none : p.openInHand = none := by
    unfold Part.openInHand
    split
    · exact if_neg h
    · rfl
  unfold Part.reevaluateOpen
  rw [none]

theorem surveyStopped_other (g : Gate) (was : GateState) (h : p.mode ≠ .survey) : p.surveyStopped g was = p := by
  simp [Part.surveyStopped, h]

theorem surveyRise_other (k : Sluice) (was : Nat) (h : p.mode ≠ .survey) : p.surveyRise k was = p := by
  simp [Part.surveyRise, h]

/-- Outside WORKING the end of a transfer ends no step (R111). -/
theorem transferReported_other (k : Sluice) (n : Nat) (h : p.mode ≠ .working) : p.transferReported k n = p := by
  unfold Part.transferReported
  split
  · exact if_neg fun both => h both.1
  · rfl

/-- A transfer that has not ended is not finished. -/
theorem finishTransfer_running (k : Sluice) (h : p.transferDone k = false) : p.finishTransfer k = p := by
  simp [Part.finishTransfer, h]

/-- One that has, with none waiting behind it, is ended and reported (R35). -/
theorem finishTransfer_ended (k : Sluice) {t : Transfer} (done : p.transferDone k = true)
    (held : (p.sluices.get k).transfer = some t) (alone : (p.sluices.get k).waiting = none) :
    p.finishTransfer k = (p.endTransfer k).transferReported k t.lockage := by
  unfold Part.finishTransfer
  rw [if_pos done, held, alone]

theorem transferDone_some (k : Sluice) (done : p.transferDone k = true) : ∃ t, (p.sluices.get k).transfer = some t := by
  unfold Part.transferDone at done
  split at done
  · next t held => exact ⟨t, held⟩
  · cases done

end Sys2Proof.Machine
end

section
/-! PROOFS. Gates, sluices and their timers (chapter 2). -/

namespace Sys2Proof.Machine

variable {p q r : Part}

/-! ### Due up-steps and TRIM (R33, R37) -/

theorem ramps_of {x : SluiceRec} {t : Transfer} (held : x.transfer = some t) (phase : t.phase = .ramping) :
    x.ramps = true := by simp [SluiceRec.ramps, held, phase]

/-- A due up-step below the cap with no step in flight: issued when it may be, and waiting otherwise. -/
theorem ramped_due {x : SluiceRec} {cap : Nat} (none : x.step = none) (below : x.position < cap) (due : x.due = true)
    (may : Bool) (limit : Option Nat) : x.ramped cap may limit =
      if may then { x with target := cap, state := .stepping, due := false, step := some (.up, x.position + 1)
                           stepTimer := limit }
      else { x with target := cap, state := .held } := by
  have notAbove : ¬ cap < x.position := by omega
  have notAt : x.position ≠ cap := by omega
  simp [SluiceRec.ramped, none, notAbove, notAt, due, SluiceRec.stepped]

/-- Settles O26: the expiry makes the step due, and either command takes the ramp as far as it can go. -/
theorem dueStepsWaitForWaterAndInterlock : Obligations.DueStepsWaitForWaterAndInterlock := by
  intro k s t c held phase none below commands
  have limit : s.part.stepLimit k = s.part.settings.works.map fun w => 1000 * w.stepLimit.get k := rfl
  have issued : ∃ x : SluiceRec, exec c s = .next { s with part := s.part.putSluice k (x.ramped (s.part.effectiveCap k)
        (s.part.mayStepUp k) (s.part.stepLimit k)) }
      ∧ x = { s.part.sluices.get k with
        rampTimer := if c = Instr.dueUpStepIssue k then (s.part.sluices.get k).rampTimer else .none, due := true } := by
    rcases commands with ⟨rfl, running⟩ | ⟨rfl, due⟩
    · refine ⟨{ s.part.sluices.get k with rampTimer := .none, due := true }, ?_, by simp⟩
      have ramps : (s.part.putSluice k { s.part.sluices.get k with rampTimer := .none, due := true }).ramping k = true := by
        rw [ramping_eq, putSluice_get]; exact ramps_of held phase
      have timed : ¬ (s.part.sluices.get k).rampTimer.isNone = true := by simpa using running
      simp only [exec, execRampIntervalExpiry, if_neg timed, Part.retestRamp, ramps, if_true]
      rw [rampNext_put s.part k { s.part.sluices.get k with rampTimer := .none, due := true } rfl]
    · refine ⟨s.part.sluices.get k, ?_, by rw [if_pos rfl, ← due]⟩
      have ramps : s.part.ramping k = true := ramps_of held phase
      simp only [exec, execDueUpStepIssue, Part.retestRamp, ramps, if_true]
      rw [rampNext_eq]
  obtain ⟨x, run, form⟩ := issued
  have ramped := ramped_due (x := x) (cap := s.part.effectiveCap k) (by rw [form]; exact none) (by rw [form]; exact below)
    (by rw [form])
  refine ⟨_, run, rfl, putSluice_follows _ _ _, ?_, ?_, fun ordered interlock => ?_, fun waits => ?_⟩
  · rw [putSluice_get, putSluice_sluices]
  · rw [putSluice_get, ramped, form]; split <;> rfl
  · have may : s.part.mayStepUp k = true := by rw [Part.mayStepUp, ordered, interlock]; rfl
    rw [putSluice_get, ramped, may, limit, form]; rfl
  · have may : s.part.mayStepUp k = false := by
      rw [Part.mayStepUp, Bool.eq_false_iff, ne_eq, Bool.and_eq_true]; exact waits
    rw [putSluice_get, ramped, may, form]; rfl

/-- The effective cap lies in 1..15 (R29). -/
theorem clampCap_eq (cap : Nat) (trim : Int) : (clampCap cap trim : Int) = max 1 (min 15 (cap + trim)) := by
  unfold clampCap
  dsimp only
  split
  · omega
  · split <;> omega

theorem trimmed_eq (trim a : Int) : trimmed trim a = max (-15) (min 15 (trim + a)) := by
  unfold trimmed clampInt
  split
  · omega
  · split <;> omega

theorem ramped_target (x : SluiceRec) (cap : Nat) (may : Bool) (limit : Option Nat) :
    (x.ramped cap may limit).target = cap ∧ (x.ramped cap may limit).trim = x.trim := by
  unfold SluiceRec.ramped
  repeat' split
  all_goals exact ⟨rfl, rfl⟩

/-- Settles O28: the trim and the cap are clamped, and a ramp takes the new cap. -/
theorem trimSaturates : Obligations.TrimSaturates := by
  intro tag i k a s w works
  refine ⟨fun big => ?_, ?_, ?_, ?_⟩
  · have noSluice : Gate.ofIndex i = none := by
      match i, big with
      | n + 4, _ => rfl
    simp [exec, execTrim, Part.takeTrim, noSluice]
  all_goals
    rintro rfl
    have found : Gate.ofIndex k.index = some k := by cases k <;> rfl
    simp only [exec, execTrim, Part.takeTrim, found]
  · intro up down
    simp [adjusts, up, down]
  all_goals
    intro one
    have taken : adjusts a = true := by rcases one with rfl | rfl <;> rfl
    rw [if_pos taken, Part.trimSluice]
  · intro none
    simp [none]
  · intro held
    have runs : ¬ (s.part.sluices.get k).transfer.isNone = true := by simpa using held
    rw [if_neg runs, trimmed_eq]
    generalize trim : max (-15) (min 15 ((s.part.sluices.get k).trim + a)) = t
    generalize written : ({ s.part.sluices.get k with trim := t } : SluiceRec) = x
    have trimmed : x.trim = t := by rw [← written]
    have capped : (s.part.putSluice k x).effectiveCap k = clampCap (w.cap.get k) t := by
      simp [Part.effectiveCap, works, trimmed]
    have data : clampCap (w.cap.get k) t = (max 1 (min 15 (w.cap.get k + t))).toNat := by
      have := clampCap_eq (w.cap.get k) t
      omega
    dsimp only
    rw [capped, data]
    generalize accepted : (s.part.putSluice k x).accept .a tag (.trim t (max 1 (min 15 (w.cap.get k + t))).toNat) = y
    have sluices : y.sluices = s.part.sluices.set k x := by rw [← accepted]; simp
    have sent : y.sent = (s.part.send .a (.accepted tag (some s.part.link.conditions.any)
        (.trim t (max 1 (min 15 (w.cap.get k + t))).toNat))).sent := by rw [← accepted]; rfl
    have cap : y.effectiveCap k = clampCap (w.cap.get k) t := by rw [← accepted]; exact capped
    have ramping : y.ramping k = s.part.ramping k := by
      rw [ramping_eq, ramping_eq, sluices, Four.get_set_self, ← written]; rfl
    refine ⟨_, rfl, ?_⟩
    unfold Part.retestRamp
    rw [ramping]
    split
    · next ramps =>
      rw [rampNext_eq, sluices, Four.get_set_self, cap]
      refine ⟨?_, sent, fun no => absurd ramps (by simp [no]), fun _ => ?_⟩
      · rw [putSluice_get, (ramped_target _ _ _ _).2, trimmed]
      · rw [putSluice_get, (ramped_target _ _ _ _).1, clampCap_eq]
    · next ramps =>
      refine ⟨?_, sent, fun _ => sluices, fun yes => absurd yes ramps⟩
      rw [sluices, Four.get_set_self, trimmed]

end Sys2Proof.Machine
end

section
/-! PROOFS. Motion that stops, travel that is tested again, limits and the timeouts (chapter 2, R102). -/

namespace Sys2Proof.Machine

variable {p q r : Part}

/-! ### A report while nothing runs, in full -/

/-- The fault is sent with response NONE except while HALTED, and noted as the latest. -/
def Told (p q : Part) (k : FaultKind) (x : Subject) : Prop :=
  q.mode = p.mode ∧ q.faults = p.faults
    ∧ q.sent = { p.sent with a := p.sent.a ++ if p.mode = .halted then [] else
        [Msg.event (.fault k x .none p.mode p.lockageNumber p.stepIndex p.clock)] }
    ∧ q.link = { p.link with conditions := { p.link.conditions with
        fault := some { kind := k, lockage := p.lockageNumber, index := p.stepIndex
                        halting := p.link.conditions.halting } } }

/-- Told from a part whose works and signals alone have changed. -/
theorem Framing.told (f : Framing p q) (k : FaultKind) (x : Subject) : Told p (q.told k x) k x := by
  refine ⟨f.mode, f.faults, ?_, ?_⟩
  · simp only [Part.told, f.sent, f.mode, f.lockageNumber, f.stepIndex, f.clock]
  · simp only [Part.told, Part.faultNoted, f.link, f.lockageNumber, f.stepIndex]

/-- The event of a report that nothing runs to answer, at the head of what follows. -/
theorem Told.event {k : FaultKind} {x : Subject} (h : Told p q k x) (m : p.mode ≠ .halted) :
    q.sent.a = p.sent.a ++ [.event (.fault k x .none p.mode p.lockageNumber p.stepIndex p.clock)] := by
  rw [h.2.2.1, if_neg m]

theorem Told.grows {k : FaultKind} {x : Subject} (h : Told p q k x) (m : p.mode ≠ .halted) (o : Onward q r) :
    p.sent.a ++ [.event (.fault k x .none p.mode p.lockageNumber p.stepIndex p.clock)] <+: r.sent.a := by
  rw [← h.event m]; exact o.sent .a

theorem Framing.responseOf (f : Framing p q) (k : FaultKind) : q.responseOf k = p.responseOf k := by
  unfold Part.responseOf; rw [f.settings]

theorem Framing.halts (f : Framing p q) {k : FaultKind} (x : Subject) (runs : p.mode = .working ∨ p.mode = .survey)
    (response : p.responseOf k = .halt) : q.report k x = q.haltFlight k x :=
  report_halts q k x (by rw [f.mode]; exact runs) ((f.responseOf k).trans response)

theorem Framing.tells (f : Framing p q) {k : FaultKind} (x : Subject) (rests : p.mode ≠ .working ∧ p.mode ≠ .survey)
    (stops : k ≠ .eStop ∧ k ≠ .operatorHalt) : q.report k x = q.told k x :=
  report_told q k x (by rw [f.mode]; exact rests) stops

/-- While nothing runs, nothing of the sequencer or the survey follows a gate's change. -/
theorem idle_follow (y : Part) (g : Gate) (was : GateState) (rests : y.mode ≠ .working ∧ y.mode ≠ .survey) :
    y.reevaluateOpen.surveyStopped g was = y := by
  rw [reevaluateOpen_other y rests.1, surveyStopped_other y g was rests.2]

theorem halted_rests {y : Part} (h : y.mode = .halted) : y.mode ≠ .working ∧ y.mode ≠ .survey := by simp [h]

theorem halted_stands {y : Part} (h : y.mode = .halted) : y.StandsBy := .inr (.inl h)

/-! ### The travel limit run out (R27) -/

/-- The record of a gate that ran out of time. -/
def GateRec.timedOut (x : GateRec) : GateRec :=
  { x with state := .stopped, drive := .off, travelTimer := none, openPending := false }

/-- The gate's record written, before its report. -/
def Part.gateStopped (p : Part) (g : Gate) : Part := p.putGate g (p.gates.get g).timedOut

theorem gateStopped_framing (p : Part) (g : Gate) : Framing p (p.gateStopped g) := putGate_framing _ _ _

/-- TRAVEL_TIMER_EXPIRY of a running timer. -/
theorem travelTimer_run (g : Gate) (s : State) (runs : (s.part.gates.get g).travelTimer ≠ none) :
    exec (.travelTimerExpiry g) s = .next { s with part :=
      (((s.part.gateStopped g).report .gateTimeout (.gate g)).reevaluateOpen.surveyStopped g
        (s.part.gates.get g).state).settle } := by
  have timed : ¬ (s.part.gates.get g).travelTimer.isNone = true := by simpa using runs
  simp only [exec, execTravelTimerExpiry, if_neg timed]
  rfl

/-- A gate that stops keeps the drives in step with the states. -/
theorem gateStopped_drives (g : Gate) (drives : p.DrivesMatch) : (p.gateStopped g).DrivesMatch := by
  intro h
  rw [Part.gateStopped, putGate_gates, Four.get_set]
  split
  · rfl
  · exact drives h

/-- While a lockage or a survey runs the flight halts. -/
theorem travelTimer_halts (g : Gate) (p : Part) (runs : p.mode = .working ∨ p.mode = .survey) :
    let q := (((p.gateStopped g).report .gateTimeout (.gate g)).reevaluateOpen.surveyStopped g
      (p.gates.get g).state).settle
    q.gates.get g = (p.gates.get g).timedOut ∧ (p.DrivesMatch → HaltedFrom p q .gateTimeout (.gate g)) := by
  have framing := gateStopped_framing p g
  have halts := framing.halts (.gate g) runs (responseOf_fixed p .gateTimeout (by decide))
  have mode := (haltFlight_made (p.gateStopped g) .gateTimeout (.gate g)).1
  have gates := haltFlight_gates (p.gateStopped g) .gateTimeout (.gate g)
  have full := haltFlight_halted (p.gateStopped g) .gateTimeout (.gate g)
  have written : (p.gateStopped g).gates.get g = (p.gates.get g).timedOut := by
    rw [Part.gateStopped, putGate_gates, Four.get_set_self]
  dsimp only
  rw [halts]
  generalize (p.gateStopped g).haltFlight .gateTimeout (.gate g) = y at *
  rw [idle_follow y _ _ (halted_rests mode)]
  refine ⟨?_, fun drives => (framing.haltedFrom (full (gateStopped_drives g drives))).settle _ _ _⟩
  rw [(halted_stands mode).settle, recompute_gates, gates, Four.get_map, written]
  rfl

/-- While none does the gate stands and the fault is told. -/
theorem travelTimer_tells (g : Gate) (p : Part) (stands : p.StandsBy) :
    let q := (((p.gateStopped g).report .gateTimeout (.gate g)).reevaluateOpen.surveyStopped g
      (p.gates.get g).state).settle
    q.gates.get g = (p.gates.get g).timedOut ∧ Told p q .gateTimeout (.gate g) := by
  have framing := gateStopped_framing p g
  have told := framing.told .gateTimeout (.gate g)
  have tells := framing.tells (.gate g) stands.rests (k := .gateTimeout) (by decide)
  have inhibit : ((p.gateStopped g).told .gateTimeout (.gate g)).navInhibit = p.navInhibit := framing.navInhibit
  have written : ((p.gateStopped g).told .gateTimeout (.gate g)).gates.get g = (p.gates.get g).timedOut := by
    rw [told_form, Part.gateStopped, putGate_gates, Four.get_set_self]
  dsimp only
  rw [tells]
  generalize (p.gateStopped g).told .gateTimeout (.gate g) = y at *
  have after := stands.of told.1 inhibit
  rw [idle_follow y _ _ after.rests, after.settle]
  exact ⟨written, told⟩

/-- At REST the event is sent in any case. -/
theorem travelTimer_grows (g : Gate) (p : Part) (rest : p.mode = .rest) :
    p.sent.a ++ [.event (.fault .gateTimeout (.gate g) .none p.mode p.lockageNumber p.stepIndex p.clock)]
      <+: ((((p.gateStopped g).report .gateTimeout (.gate g)).reevaluateOpen.surveyStopped g
        (p.gates.get g).state).settle).sent.a := by
  have framing := gateStopped_framing p g
  rw [framing.tells (.gate g) (by simp [rest]) (by decide)]
  refine (framing.told .gateTimeout (.gate g)).grows (by simp [rest]) ?_
  exact ((reevaluateOpen_onward _).trans (surveyStopped_worked _ _ _).onward).trans (settle_onward _ _ _)

/-! ### A step that is not confirmed in time (R30) -/

/-- The sluice's record written, before its report. -/
def Part.stalled (p : Part) (k : Sluice) : Part := p.putSluice k (p.sluices.get k).stalled

theorem stepTimer_run (k : Sluice) (s : State) (runs : (s.part.sluices.get k).stepTimer ≠ none) :
    exec (.stepTimerExpiry k) s = .next { s with part :=
      (((s.part.stalled k).report .sluiceStall (.sluice k)).finishTransfer k).settle } := by
  have timed : ¬ (s.part.sluices.get k).stepTimer.isNone = true := by simpa using runs
  simp only [exec, execStepTimerExpiry, if_neg timed]
  rfl

/-- The record's transfer has ended (R35). -/
def SluiceRec.finished (x : SluiceRec) : Bool :=
  match x.transfer with
  | some t => decide (t.phase = .closing) && decide (x.position = 0) && x.step.isNone
  | none => false

theorem transferDone_eq (p : Part) (k : Sluice) : p.transferDone k = (p.sluices.get k).finished := rfl

/-- What ends a transfer takes no part in a halt: only the head draws change. -/
theorem HaltedFrom.endTransfer {k : FaultKind} {x : Subject} (h : HaltedFrom p q k x) (j : Sluice) :
    HaltedFrom p (q.endTransfer j) k x := by
  have ends : ∃ v u m, q.endTransfer j = { q with sluices := v, outlets := u, lockage := m }
      ∧ LockageKept q.lockage m ∧ (∀ l, m = some l → ∃ a, q.lockage = some a ∧ l.moveTimer = a.moveTimer
        ∧ l.windowTimer = a.windowTimer) ∧ ∀ i, q.ramping i = false → (v.get i).ramps = false := by
    have cleared : ∀ i, q.ramping i = false → ((q.sluices.set j { q.sluices.get j with
        transfer := none, trim := 0, rampTimer := none, due := false }).get i).ramps = false := fun i stood => by
      rw [Four.get_set]
      split
      · rfl
      · exact stood
    unfold Part.endTransfer
    dsimp only
    split
    · split
      · refine ⟨_, _, _, rfl, ?_, fun l e => ?_, cleared⟩
        · unfold LockageKept
          rw [Option.map_map]
          refine congrArg (fun f => q.lockage.map f) (funext fun l => ?_)
          simp only [Function.comp_apply]
          split <;> rfl
        · obtain ⟨a, ha, rfl⟩ := Option.map_eq_some_iff.mp e
          refine ⟨a, ha, ?_⟩
          split <;> exact ⟨rfl, rfl⟩
      · exact ⟨_, _, _, rfl, rfl, fun l e => ⟨l, e, rfl, rfl⟩, cleared⟩
    · exact ⟨_, _, _, rfl, rfl, fun l e => ⟨l, e, rfl, rfl⟩, cleared⟩
  obtain ⟨v, u, m, form, kept, timers, ramps⟩ := ends
  obtain ⟨mode, halt, sent, link, kept', timers', requested, shown, drives, states, idle⟩ := h
  rw [form]
  refine ⟨mode, halt, sent, link, kept.trans kept', fun l e => ?_, requested, shown, drives, states,
    fun i => ramps i (idle i)⟩
  obtain ⟨a, ha, move, window⟩ := timers l e
  rw [move, window]
  exact timers' a ha

/-- While HALTED a transfer with none behind it is at most ended. -/
theorem HaltedFrom.finishTransfer {k : FaultKind} {x : Subject} (h : HaltedFrom p q k x) (j : Sluice)
    (alone : (q.sluices.get j).waiting = none) : HaltedFrom p (q.finishTransfer j) k x := by
  by_cases done : q.transferDone j = true
  · obtain ⟨t, held⟩ := transferDone_some q j done
    rw [finishTransfer_ended q j done held alone]
    have ended := h.endTransfer j
    have mode : (q.endTransfer j).mode = .halted := ended.1
    rw [transferReported_other _ _ _ (halted_rests mode).1]
    exact ended
  · rw [finishTransfer_running q j (by simpa using done)]
    exact h

/-- A stall while a lockage or a survey runs. -/
theorem stepTimer_halts (k : Sluice) (p : Part) (runs : p.mode = .working ∨ p.mode = .survey) (drives : p.DrivesMatch) :
    HaltedFrom p ((((p.stalled k).report .sluiceStall (.sluice k)).finishTransfer k).settle) .sluiceStall (.sluice k) := by
  have framing : Framing p (p.stalled k) := rfl
  rw [framing.halts (.sluice k) runs (responseOf_fixed p .sluiceStall (by decide))]
  have full := framing.haltedFrom (haltFlight_halted (p.stalled k) .sluiceStall (.sluice k) drives)
  exact (full.finishTransfer k (haltFlight_waiting _ _ _ _)).settle _ _ _

/-- Settles O23: each timer's report by the mode, with the record written before it. -/
theorem stoppedMotionIsReported : Obligations.StoppedMotionIsReported := by
  unfold Obligations.StoppedMotionIsReported
  intro event told
  refine ⟨fun g s => ⟨fun none => ?_, fun runs mode => ?_, fun runs rest => ?_⟩,
    fun k s => ⟨fun none => ?_, fun runs stands ends => ?_, fun runs rest => ?_, fun runs works drives => ?_⟩⟩
  · simp [exec, execTravelTimerExpiry, none]
  · refine ⟨_, travelTimer_run g s runs, ?_⟩
    rcases mode with stands | works
    · obtain ⟨written, tells⟩ := travelTimer_tells g s.part stands
      refine ⟨written, fun _ => tells, fun works => ?_⟩
      rcases works with w | w
      · exact absurd w stands.rests.1
      · exact absurd w stands.rests.2
    · obtain ⟨written, halts⟩ := travelTimer_halts g s.part works
      refine ⟨written, fun stands => ?_, fun _ => halts⟩
      rcases works with w | w
      · exact absurd w stands.rests.1
      · exact absurd w stands.rests.2
  · exact ⟨_, travelTimer_run g s runs, travelTimer_grows g s.part rest⟩
  · simp [exec, execStepTimerExpiry, none]
  · have framing : Framing s.part (s.part.stalled k) := rfl
    have told := framing.told .sluiceStall (.sluice k)
    have record : ((s.part.stalled k).told .sluiceStall (.sluice k)).sluices.get k = (s.part.sluices.get k).stalled := by
      rw [told_form, Part.stalled, putSluice_get]
    have running : ((s.part.stalled k).told .sluiceStall (.sluice k)).transferDone k = false := by
      rw [transferDone_eq, record]
      cases held : (s.part.sluices.get k).transfer with
      | none => simp [SluiceRec.stalled, SluiceRec.finished, held]
      | some t =>
        have notClosed : t.phase = .closing → (s.part.sluices.get k).position ≠ 0 := ends t held
        by_cases closing : t.phase = .closing <;> simp [SluiceRec.stalled, SluiceRec.finished, held, closing, notClosed]
    have after := stands.of (q := (s.part.stalled k).told .sluiceStall (.sluice k)) rfl rfl
    refine ⟨_, stepTimer_run k s runs, ?_⟩
    rw [framing.tells (.sluice k) stands.rests (by decide), finishTransfer_running _ k running, after.settle]
    exact ⟨by rw [recompute_sluices, record]; rfl, told⟩
  · refine ⟨_, stepTimer_run k s runs, ?_⟩
    have framing : Framing s.part (s.part.stalled k) := rfl
    rw [framing.tells (.sluice k) (by simp [rest]) (by decide)]
    refine (framing.told .sluiceStall (.sluice k)).grows (by simp [rest]) ?_
    exact (finishTransfer_onward _ _).trans (settle_onward _ _ _)
  · exact ⟨_, stepTimer_run k s runs, stepTimer_halts k s.part works drives⟩

/-! ### Travel with open pending (R28) -/

/-- Both tests of R28 hold. -/
def Part.mayTravel (p : Part) (g : Gate) : Prop := p.compare g = .level ∧ p.interlock g = true

theorem retestGate_stopped (g : Gate) (pending : (p.gates.get g).openPending = true)
    (state : (p.gates.get g).state = .stopped) (holds : p.mayTravel g) :
    p.retestGate g = p.putGate g { p.gates.get g with state := .opening, drive := .openDrive } := by
  simp [Part.retestGate, pending, state, holds.1, holds.2]

theorem retestGate_opening (g : Gate) (pending : (p.gates.get g).openPending = true)
    (state : (p.gates.get g).state = .opening) (fails : ¬ p.mayTravel g) (ordered : (p.compare g).isOrdered = true) :
    p.retestGate g = p.putGate g { p.gates.get g with state := .stopped, drive := .off } := by
  cases c : p.compare g with
  | unordered _ => rw [c] at ordered; cases ordered
  | above => simp [Part.retestGate, pending, state, c]
  | below => simp [Part.retestGate, pending, state, c]
  | level =>
    have open_ : p.interlock g = false := by
      rw [Bool.eq_false_iff]; exact fun closed => fails ⟨c, closed⟩
    simp [Part.retestGate, pending, state, c, open_]

theorem retestGate_stands (g : Gate) (h : ((p.gates.get g).state = .opening ∧ p.mayTravel g)
    ∨ ((p.gates.get g).state = .stopped ∧ ¬ p.mayTravel g ∧ (p.compare g).isOrdered = true)
    ∨ ((p.gates.get g).state ≠ .opening ∧ (p.gates.get g).state ≠ .stopped)) : p.retestGate g = p := by
  unfold Part.retestGate
  dsimp only
  split
  · rfl
  · rcases h with ⟨state, level, closed⟩ | ⟨state, fails, ordered⟩ | ⟨notOpening, notStopped⟩
    · simp [state, level, closed]
    · cases c : p.compare g with
      | unordered _ => rw [c] at ordered; cases ordered
      | above => simp [state]
      | below => simp [state]
      | level =>
        have open_ : p.interlock g = false := by
          rw [Bool.eq_false_iff]; exact fun closed => fails ⟨c, closed⟩
        simp [state, open_]
    · cases state : (p.gates.get g).state with
      | opening => exact absurd state notOpening
      | stopped => exact absurd state notStopped
      | closed => rfl
      | open_ => rfl
      | closing => rfl

/-- The gate of an UNORDERED compare stands STOPPED before its report. -/
theorem retestGate_unordered (g : Gate) {c : UnorderedCause} (pending : (p.gates.get g).openPending = true)
    (state : (p.gates.get g).state = .opening ∨ (p.gates.get g).state = .stopped) (water : p.compare g = .unordered c) :
    ∃ q, p.retestGate g = q.report (sensorFault c) (.gate g) ∧ Framing p q ∧ (p.DrivesMatch → q.DrivesMatch) := by
  rcases state with state | state
  · refine ⟨p.putGate g { p.gates.get g with state := .stopped, drive := .off }, ?_, putGate_framing _ _ _,
      (pause_worked p g).drives⟩
    simp [Part.retestGate, pending, state, water]
  · exact ⟨p, by simp [Part.retestGate, pending, state, water], .refl p, id⟩

/-- An OPEN step that waits for no test does not evaluate (R97). -/
theorem reevaluateOpen_idle (h : ∀ l, p.lockage = some l → l.stage.evaluates = false) : p.reevaluateOpen = p := by
  unfold Part.reevaluateOpen
  split
  · next l g ph e =>
    have held : p.lockage = some l := by
      unfold Part.openInHand at e
      split at e
      · next hl _ => split at e <;> cases e; exact hl
      · cases e
    rw [if_neg (by rw [h l held]; exact Bool.false_ne_true)]
  · rfl

/-- No OPEN step waits for a test. -/
def Part.NoneWaits (p : Part) : Prop :=
  ∀ l, p.lockage = some l → l.stage ≠ .clearance ∧ l.stage ≠ .tide ∧ l.stage ≠ .level

theorem Framing.idle (f : Framing p q) (h : p.NoneWaits) : q.reevaluateOpen = q := by
  refine reevaluateOpen_idle fun l e => ?_
  have stages : q.lockage.map Lockage.stage = p.lockage.map Lockage.stage := f.lockage_read _ fun _ _ => rfl
  rw [e, Option.map_some] at stages
  obtain ⟨a, ha, same⟩ := Option.map_eq_some_iff.mp stages.symm
  obtain ⟨clearance, tide, level⟩ := h a ha
  rw [same] at clearance tide level
  cases stage : l.stage <;> first | rfl | contradiction

theorem quiet_settle {y : Part} (h : quietMode y.mode) (a b : Bool) : y.settle a b = y.recompute := settle_quiet y a b h.1 h.2

/-- The turn selector's recomputation outside REST (R63, R64). -/
theorem recompute_idle (h : p.recompute.turn.readiness = false) : TurnIdle p.turn p.recompute.turn := ⟨h, rfl, rfl, rfl⟩

/-- Settles O24: the row of R28 that the gate's state and its two tests choose. -/
theorem pausedTravelIsRetested : Obligations.PausedTravelIsRetested := by
  intro g s pending was holds noneWaits
  have written : ∀ x : GateRec, quietMode s.part.mode → noneWaits → s.part.retestGate g = s.part.putGate g x →
      (s.part.resumeTravel g).settle.gates = s.part.gates.set g x := fun x quiet idle e => by
    have framing := putGate_framing s.part g x
    have result : s.part.resumeTravel g = s.part.putGate g x := by
      unfold Part.resumeTravel
      dsimp only
      rw [e, framing.idle idle, ite_self]
    rw [result, quiet_settle (by rw [framing.mode]; exact quiet), recompute_gates, putGate_gates]
  refine ⟨_, rfl, fun quiet idle state h => ?_, fun quiet idle state fails ordered => ?_, fun quiet stands => ?_,
    fun c working drives state water response => ?_⟩
  · exact written _ quiet idle (retestGate_stopped g pending state h)
  · exact written _ quiet idle (retestGate_opening g pending state fails ordered)
  · have same : s.part.resumeTravel g = s.part := by
      unfold Part.resumeTravel
      dsimp only
      rw [retestGate_stands g stands, if_pos rfl]
    rw [same, quiet_settle quiet]
    exact ⟨rfl, recompute_idle (recompute_notRest _ quiet.2)⟩
  · obtain ⟨y, e, framing, kept⟩ := retestGate_unordered g pending state water
    rw [framing.halts (.gate g) (.inl working) response] at e
    have full := framing.haltedFrom (haltFlight_halted y (sensorFault c) (.gate g) (kept drives))
    have result : s.part.resumeTravel g = y.haltFlight (sensorFault c) (.gate g) := by
      unfold Part.resumeTravel
      dsimp only
      rw [e, reevaluateOpen_other _ (halted_rests full.1).1, ite_self]
    rw [result]
    exact full.settle _ _ _

end Sys2Proof.Machine
end

section
/-! PROOFS. Limit inputs and timeouts (R26, R36, R102): what a changed passage does to the gates and sluices beside
it while nothing runs. -/

namespace Sys2Proof.Machine

variable {p q r : Part}

/-! ### Beside a gate and its sluice -/

/-- A change that leaves gate g and its sluice, every chamber's isolation, and what R16 has made of it. -/
structure Aside (g : Gate) (p q : Part) : Prop where
  gate : q.gates.get g = p.gates.get g
  sluice : q.sluices.get g = p.sluices.get g
  mode : q.mode = p.mode
  inhibit : q.navInhibit = p.navInhibit
  sent : p.sent.a <+: q.sent.a
  isolated : ∀ c, q.isolated c = p.isolated c
  follows : ∀ o, (∀ x, (p.reaches.get x).reading = (o.reaches.get x).reading) → IsolationFollows o p →
    (∀ x, (q.reaches.get x).reading = (o.reaches.get x).reading) ∧ IsolationFollows o q

namespace Aside

variable {g : Gate}

theorem refl (g : Gate) (p : Part) : Aside g p p :=
  ⟨rfl, rfl, rfl, rfl, List.prefix_rfl, fun _ => rfl, fun _ r f => ⟨r, f⟩⟩

theorem trans (a : Aside g p q) (b : Aside g q r) : Aside g p r where
  gate := b.gate.trans a.gate
  sluice := b.sluice.trans a.sluice
  mode := b.mode.trans a.mode
  inhibit := b.inhibit.trans a.inhibit
  sent := a.sent.trans b.sent
  isolated c := (b.isolated c).trans (a.isolated c)
  follows o r f := by
    obtain ⟨readings, iso⟩ := a.follows o r f
    exact b.follows o readings iso

theorem foldl {α : Type} (f : Part → α → Part) (xs : List α) (h : ∀ q, q.mode = p.mode → ∀ x ∈ xs, Aside g q (f q x)) :
    Aside g p (xs.foldl f p) := by
  suffices all : ∀ q, q.mode = p.mode → Aside g q (xs.foldl f q) from all p rfl
  induction xs with
  | nil => exact fun q _ => refl g q
  | cons x xs ih =>
    intro q mode
    have one := h q mode x (.head _)
    exact one.trans (ih (fun q m y hy => h q m y (.tail _ hy)) _ (one.mode.trans mode))

end Aside

/-- What changes messages, notes and the turn selector alone. -/
theorem aside_same (g : Gate) (form : q = { p with sent := q.sent, link := q.link, turn := q.turn })
    (sent : p.sent.a <+: q.sent.a) : Aside g p q := by
  have isolated : ∀ c, q.isolated c = p.isolated c := fun c => by rw [form]; rfl
  have reaches : q.reaches = p.reaches := by rw [form]
  refine ⟨by rw [form], by rw [form], by rw [form], by rw [form], sent, isolated, fun o r f => ⟨?_, ?_⟩⟩
  · rw [reaches]; exact r
  · exact f.same reaches isolated (by rw [form])

theorem told_aside (g : Gate) (p : Part) (k : FaultKind) (x : Subject) : Aside g p (p.told k x) :=
  aside_same g rfl (List.prefix_append _ _)

/-- The record of another sluice at the same position. -/
theorem putSluice_aside {g : Gate} (p : Part) (k : Sluice) (x : SluiceRec) (other : k ≠ g)
    (position : x.position = (p.sluices.get k).position) : Aside g p (p.putSluice k x) := by
  have isolated : ∀ c, (p.putSluice k x).isolated c = p.isolated c := fun c => by
    have same : p.isolated c = Part.isolated { p with sluices := p.sluices.set k (p.sluices.get k) } c := by
      rw [Four.set_get]
    rw [same]
    exact isolated_put p k (p.sluices.get k) x position c
  have readings : ∀ y, ((p.putSluice k x).reaches.get y).reading = (p.reaches.get y).reading :=
    fun y => examineIsolation_reading _ y
  refine ⟨rfl, ?_, rfl, rfl, List.prefix_rfl, isolated, fun o r f => ⟨fun y => (readings y).trans (r y), ?_⟩⟩
  · rw [putSluice_sluices, Four.get_set_ne _ _ _ _ (Ne.symm other)]
  · exact f.trans (putSluice_follows p k x) isolated readings r rfl

theorem putGate_follows (p : Part) (g : Gate) (x : GateRec) : IsolationFollows p (p.putGate g x) :=
  (examineIsolation_follows (p := p) (q := { p with gates := p.gates.set g x }) rfl rfl).same (refreshFaces_reaches _)
    (fun c => by simp only [Part.isolated, putGate_gates, putGate_sluices]; rfl) (refreshFaces_settings _)

theorem putGate_reading (p : Part) (g : Gate) (x : GateRec) (y : Reach) :
    ((p.putGate g x).reaches.get y).reading = (p.reaches.get y).reading := by
  rw [Part.putGate, refreshFaces_reaches]
  exact examineIsolation_reading _ y

/-- The record of another gate, as CLOSED as it was. -/
theorem putGate_aside {g : Gate} (p : Part) (h : Gate) (x : GateRec) (other : h ≠ g)
    (closed : x.state = .closed ↔ (p.gates.get h).state = .closed) : Aside g p (p.putGate h x) := by
  have isolated : ∀ c, (p.putGate h x).isolated c = p.isolated c := fun c => by
    have same : ∀ j, decide (((p.gates.set h x).get j).state = .closed) = decide ((p.gates.get j).state = .closed) :=
      fun j => by
        rw [Four.get_set]
        split
        · next e => rw [e]; exact decide_eq_decide.mpr closed
        · rfl
    simp only [Part.isolated, putGate_gates, putGate_sluices, same]
  refine ⟨?_, by rw [putGate_sluices], putGate_mode p h x, putGate_navInhibit p h x, ⟨[], by rw [putGate_sent, List.append_nil]⟩, isolated,
    fun o r f => ⟨fun y => (putGate_reading p h x y).trans (r y), ?_⟩⟩
  · rw [putGate_gates, Four.get_set_ne _ _ _ _ (Ne.symm other)]
  · exact f.trans (putGate_follows p h x) isolated (putGate_reading p h x) r (putGate_settings p h x)

theorem sensorFault_plain (c : UnorderedCause) : sensorFault c ≠ .eStop ∧ sensorFault c ≠ .operatorHalt := by
  cases c <;> decide

/-- The tests of a gate with open pending, while nothing runs. -/
theorem retestGate_aside {g : Gate} (p : Part) (h : Gate) (other : h ≠ g) (rests : p.mode ≠ .working ∧ p.mode ≠ .survey) :
    Aside g p (p.retestGate h) := by
  unfold Part.retestGate
  dsimp only
  split
  · exact .refl g p
  · have pause : (p.gates.get h).state = .opening →
        Aside g p (p.putGate h { p.gates.get h with state := .stopped, drive := .off }) := fun state =>
      putGate_aside p h _ other (by simp [state])
    split
    · next c state _ =>
      have paused := pause state
      rw [report_told _ _ _ (by rw [paused.mode]; exact rests) (sensorFault_plain c)]
      exact paused.trans (told_aside g _ _ _)
    · next state _ =>
      split
      · exact .refl g p
      · exact pause state
    · next c _ _ =>
      rw [report_told _ _ _ rests (sensorFault_plain c)]
      exact told_aside g _ _ _
    · next state _ =>
      split
      · exact putGate_aside p h _ other (by simp [state])
      · exact .refl g p
    · exact .refl g p

theorem retestRamp_aside {g : Gate} (p : Part) (k : Sluice) (other : k ≠ g) : Aside g p (p.retestRamp k) := by
  unfold Part.retestRamp
  split
  · rw [rampNext_eq]
    exact putSluice_aside p k _ other (ramped_position _ _ _ _)
  · exact .refl g p

/-- The gates and sluices beside a changed passage test again (R28, R33). -/
theorem retestBeside_aside (p : Part) (g : Gate) (rests : p.mode ≠ .working ∧ p.mode ≠ .survey) :
    Aside g p (p.retestBeside g) := by
  refine Aside.foldl _ _ fun q mode h mem => ?_
  have other : h ≠ g := by
    rintro rfl
    revert mem
    cases h <;> simp [Gate.before, Gate.after]
  have one := retestGate_aside q h other (by rw [mode]; exact rests)
  exact one.trans (retestRamp_aside _ h other)

/-! ### A limit input (R26) -/

/-- While nothing runs, a limit reports a double limit alone. -/
theorem limitReport_aside (p : Part) (g : Gate) (was : GateRec) (rests : p.mode ≠ .working ∧ p.mode ≠ .survey) :
    p.limitReport g was = if (p.gates.get g).atClosed && (p.gates.get g).atOpen then p.told .gateLimit (.gate g) else p := by
  have closed : p.arrivedClosed g = p := by
    unfold Part.arrivedClosed
    split
    · exact if_neg fun both => rests.1 both.1
    · rfl
  have none : p.openInHand = none := by
    unfold Part.openInHand
    split
    · exact if_neg rests.1
    · rfl
  have opened : p.arrivedOpen g = p := by
    unfold Part.arrivedOpen
    rw [none]
  unfold Part.limitReport
  rw [closed, opened, report_told p _ _ rests (by decide)]
  simp only [ite_self]

/-- LIMIT_INPUT_CHANGE of an input that did not stand so, while nothing runs. -/
theorem limitInput_aside (g : Gate) (l : Limit) (b : Bool) (p : Part) (stands : p.StandsBy) :
    let x := ((p.gates.get g).withInput l b).limitChanged l b
    let q := ((((((p.putGate g x).limitReport g (p.gates.get g)).retestBeside g).reevaluateOpen).surveyStopped g
      (p.gates.get g).state)).settle
    q.gates.get g = x ∧ IsolationFollows p q
      ∧ (x.atClosed = true → x.atOpen = true → p.mode ≠ .halted →
        .event (.fault .gateLimit (.gate g) .none p.mode p.lockageNumber p.stepIndex p.clock) ∈ q.sent.a) := by
  intro x
  have framing := putGate_framing p g x
  have rests : (p.putGate g x).mode ≠ .working ∧ (p.putGate g x).mode ≠ .survey := by
    rw [putGate_mode]; exact stands.rests
  have written : (p.putGate g x).gates.get g = x := by rw [putGate_gates, Four.get_set_self]
  have report := limitReport_aside (p.putGate g x) g (p.gates.get g) rests
  rw [written] at report
  have told := (framing.told .gateLimit (.gate g)).event
  generalize (p.putGate g x).limitReport g (p.gates.get g) = y at *
  have reported : Aside g (p.putGate g x) y := by
    rw [report]
    split
    · exact told_aside g _ _ _
    · exact .refl g _
  have beside := reported.trans (retestBeside_aside y g (by rw [reported.mode]; exact rests))
  have sent : y.sent.a <+: (y.retestBeside g).sent.a :=
    (retestBeside_aside y g (by rw [reported.mode]; exact rests)).sent
  dsimp only
  generalize y.retestBeside g = z at *
  have after : z.StandsBy := stands.of (beside.mode.trans (putGate_mode _ _ _)) (beside.inhibit.trans (putGate_navInhibit _ _ _))
  rw [idle_follow z _ _ after.rests, after.settle]
  obtain ⟨-, follows⟩ := beside.follows p (putGate_reading p g x) (putGate_follows p g x)
  refine ⟨beside.gate.trans written, follows.same rfl (fun _ => rfl) rfl, fun closed opened notHalted => ?_⟩
  rw [recompute_sent]
  refine sent.subset ?_
  rw [report, closed, opened, Bool.and_self, if_pos rfl, told notHalted]
  exact List.mem_append_right _ (.head _)

/-- Settles O21: the record by R26's rows, which the tests beside the gate leave. -/
theorem limitInputsMoveTheRecord : Obligations.LimitInputsMoveTheRecord := by
  intro g l b s stands was now
  have same : now = was.withInput l b := by cases l <;> rfl
  have change : now = was ↔ was.input l = b := by
    rw [same]
    cases l <;> simp only [GateRec.withInput, GateRec.input]
    · exact ⟨fun e => (congrArg GateRec.atClosed e).symm, fun e => by rw [← e]⟩
    · exact ⟨fun e => (congrArg GateRec.atOpen e).symm, fun e => by rw [← e]⟩
  by_cases stood : was.input l = b
  · have no : ¬ now ≠ was := fun h => h (change.mpr stood)
    refine ⟨s.part, ?_, fun _ => rfl, ?_⟩
    · simp only [exec, execLimitInputChange]
      exact if_pos stood
    · exact ⟨fun h => absurd h no, fun h => absurd h no, fun h => absurd h no, fun h => absurd h no, fun h => absurd h no,
        fun h => absurd h no⟩
  obtain ⟨record, follows, double⟩ := limitInput_aside g l b s.part stands
  have run : exec (.limitInputChange g l b) s = .next { s with part :=
      ((((((s.part.putGate g ((was.withInput l b).limitChanged l b)).limitReport g was).retestBeside
        g).reevaluateOpen).surveyStopped g was.state)).settle } := by
    simp only [exec, execLimitInputChange]
    exact if_neg stood
  refine ⟨_, run, fun e => absurd (change.mp e) stood, fun _ => follows, ?_⟩
  rw [record]
  rw [← same] at double ⊢
  refine ⟨fun _ closed opened => ?_, fun _ hl hb other => ?_, fun _ hl hb other => ?_, fun _ hl hb => ?_, fun _ hl hb => ?_⟩
  · have doubled : now.limitChanged l b = now.double := by simp [GateRec.limitChanged, closed, opened]
    rw [doubled] at double ⊢
    exact ⟨rfl, double closed opened⟩
  · subst hl hb
    simp [now, GateRec.limitChanged, other, GateRec.asserted, GateRec.rest]
  · subst hl hb
    simp [now, GateRec.limitChanged, other, GateRec.asserted, GateRec.rest]
  · subst hl hb
    simp [now, GateRec.limitChanged, GateRec.negated]
  · subst hl hb
    simp [now, GateRec.limitChanged, GateRec.negated]

/-! ### Timeouts (R36, R102) -/

/-- A fault under CONTINUE: nothing, where the step has reported its kind; otherwise sent and noted (R117). -/
theorem report_continued (p : Part) (k : FaultKind) (x : Subject) (working : p.mode = .working)
    (response : p.responseOf k = .continue_) :
    (p.faults.reported.contains k = true → p.report k x = p)
      ∧ (p.faults.reported.contains k = false → p.report k x = { p with
          faults := { p.faults with reported := p.faults.reported ++ [k] }
          sent := { p.sent with
            a := p.sent.a ++ [.event (.fault k x .continue_ p.mode p.lockageNumber p.stepIndex p.clock)] }
          link := p.faultNoted k }) := by
  rw [report_continues p k x (.inl working) response]
  exact ⟨continueFault_again p k x, continueFault_first p k x⟩

/-- What a continued fault leaves beside the fault handler, the messages and the condition record. -/
theorem report_continued_form (p : Part) (k : FaultKind) (x : Subject) (working : p.mode = .working)
    (response : p.responseOf k = .continue_) :
    ∃ f s l, p.report k x = { p with faults := f, sent := s, link := l } := by
  obtain ⟨again, first⟩ := report_continued p k x working response
  cases reported : p.faults.reported.contains k with
  | true => exact ⟨p.faults, p.sent, p.link, again reported⟩
  | false => exact ⟨_, _, _, first reported⟩

theorem working_quiet {y : Part} (h : y.mode = .working) : quietMode y.mode := by simp [quietMode, h]

/-- Settles O27: the timer stops, and the report is answered by the response table. -/
theorem timeoutsAreAnswered : Obligations.TimeoutsAreAnswered := by
  unfold Obligations.TimeoutsAreAnswered
  intro noted
  refine ⟨fun k s t working held timed => ?_, fun s => ⟨fun still => ?_, fun l held timed working => ?_⟩⟩
  · generalize stopped : s.part.putSluice k { s.part.sluices.get k with transfer := some { t with timer := none } } = y
    have framing : Framing s.part y := by rw [← stopped]; rfl
    have mode : y.mode = .working := framing.mode.trans working
    have run : exec (.transferTimerExpiry k) s = .next { s with part :=
        (y.report .transferTimeout (.sluice k)).settle } := by
      have runs : ¬ (s.part.sluices.get k).transferTimer.isNone = true := by
        simpa [SluiceRec.transferTimer, held] using timed
      simp only [exec, execTransferTimerExpiry, if_neg runs, held, Option.map_some, stopped]
    refine ⟨_, run, fun response => ?_, fun response drives => ?_⟩
    · have answered := framing.responseOf _ |>.trans response
      obtain ⟨f, m, n, form⟩ := report_continued_form y .transferTimeout (.sluice k) mode answered
      obtain ⟨again, first⟩ := report_continued y .transferTimeout (.sluice k) mode answered
      have quiet : (y.report .transferTimeout (.sluice k)).mode = .working := by rw [form]; exact mode
      rw [quiet_settle (working_quiet quiet)]
      refine ⟨quiet, ?_, fun reported => ?_, fun reported => ?_⟩
      · rw [recompute_sluices, form, ← stopped, putSluice_sluices]
      · rw [recompute_sent, recompute_faults, recompute_link, again (by rw [framing.faults]; exact reported)]
        exact ⟨framing.sent, framing.faults, framing.link⟩
      · rw [recompute_sent, recompute_faults, recompute_link, first (by rw [framing.faults]; exact reported)]
        simp only [Part.faultNoted, framing.link, framing.sent, framing.faults, framing.lockageNumber, framing.stepIndex,
          framing.clock, mode, noted, and_self]
    · rw [framing.halts (.sluice k) (.inl working) response]
      refine (framing.haltedFrom (haltFlight_halted y _ _ ?_)).settle _ _ _
      rw [← stopped]; exact drives
  · have none : s.part.timedMove = none := by
      unfold Part.timedMove
      cases held : s.part.lockage with
      | none => rfl
      | some l => simp [Option.filter, still l held]
    simp [exec, execMoveTimerExpiry, none]
  · generalize stopped : s.part.onLockage (fun x => { x with moveTimer := none }) = y
    have lockage : y.lockage = some { l with moveTimer := none } := by rw [← stopped, Part.onLockage, held]; rfl
    have number : y.lockageNumber = s.part.lockageNumber := by simp [Part.lockageNumber, lockage, held]
    have index : y.stepIndex = s.part.stepIndex := by simp [Part.stepIndex, lockage, held]
    have form : y = { s.part with lockage := y.lockage } := by rw [← stopped]; rfl
    have mode : y.mode = .working := by rw [form]; exact working
    have responses : ∀ k, y.responseOf k = s.part.responseOf k := fun k => by rw [form]; rfl
    have run : exec .moveTimerExpiry s = .next { s with part :=
        (y.report .moveTimeout (.lockage l.number l.current)).settle } := by
      have runs : s.part.timedMove = some l := by
        simp [Part.timedMove, held, Option.isSome_iff_ne_none, timed]
      simp only [exec, execMoveTimerExpiry, runs, stopped]
    have continued : s.part.responseOf .moveTimeout = .continue_ →
        (y.report .moveTimeout (.lockage l.number l.current)).settle
          = (y.report .moveTimeout (.lockage l.number l.current)).recompute := fun response => by
      obtain ⟨f, m, n, e⟩ := report_continued_form y .moveTimeout (.lockage l.number l.current) mode
        ((responses _).trans response)
      exact quiet_settle (working_quiet (by rw [e]; exact mode)) _ _
    refine ⟨_, run, fun response => ?_, fun response reported => ?_, fun response drives => ?_⟩
    · rw [continued response]
      have answered := (responses .moveTimeout).trans response
      obtain ⟨f, m, n, e⟩ := report_continued_form y .moveTimeout (.lockage l.number l.current) mode answered
      obtain ⟨again, -⟩ := report_continued y .moveTimeout (.lockage l.number l.current) mode answered
      refine ⟨?_, ?_, ?_, ?_, fun reported => ?_⟩
      · rw [recompute_mode, e]; exact mode
      · rw [recompute_lockage, e]; exact lockage
      · rw [recompute_gates, e, form]
      · rw [recompute_faces, e, form]
      · rw [recompute_sent, recompute_faults, recompute_link, again (by rw [form]; exact reported), form]
        exact ⟨rfl, rfl, rfl⟩
    · rw [continued response]
      obtain ⟨-, first⟩ := report_continued y .moveTimeout (.lockage l.number l.current) mode
        ((responses .moveTimeout).trans response)
      rw [recompute_sent, recompute_faults, recompute_link, first (by rw [form]; exact reported)]
      have n : s.part.lockageNumber = some l.number := by simp [Part.lockageNumber, held]
      have i : s.part.stepIndex = some l.current := by simp [Part.stepIndex, held]
      simp only [Part.faultNoted, number, index, mode, noted, n, i]
      rw [form]
      exact ⟨rfl, rfl, rfl⟩
    · rw [report_halts y _ _ (.inl mode) ((responses _).trans response)]
      have full := haltFlight_halted y .moveTimeout (.lockage l.number l.current) (by rw [form]; exact drives)
      have kept : LockageKept s.part.lockage y.lockage := by rw [lockage, held]; rfl
      exact (full.before y (by rw [form]) number index (by rw [form]) (by rw [form]) (by rw [form]) kept).settle _ _ _

end Sys2Proof.Machine
end

section
/-! PROOFS. The inputs of the flight and the lockage's timers (R63, R106, R107, R121, R183). -/

namespace Sys2Proof.Machine

variable {p q r : Part}

/-! ### E-STOP and HALT while nothing runs (R116) -/

/-- A travelling gate stopped; its open pending stands. -/
def GateRec.stopped (x : GateRec) : GateRec :=
  if x.state = .opening ∨ x.state = .closing then { x with state := .stopped, drive := .off, travelTimer := none } else x

theorem stopGate_gates (p : Part) (g : Gate) : (p.stopGate g).gates = p.gates.set g (p.gates.get g).stopped := by
  unfold Part.stopGate GateRec.stopped
  cases state : (p.gates.get g).state <;> simp [state]

theorem stopGates_gates (p : Part) : (Gate.all.foldl Part.stopGate p).gates = p.gates.map GateRec.stopped := by
  simp only [Gate.all, List.foldl_cons, List.foldl_nil, stopGate_gates]
  rfl

theorem stopGates_framing (p : Part) : Framing p (Gate.all.foldl Part.stopGate p) := Framing.foldl _ stopGate_framing _ _

/-- A report sent with response NONE and noted is told. -/
theorem sendFault_told (y : Part) (k : FaultKind) (x : Subject) (notHalted : y.mode ≠ .halted) :
    (y.sendFault k x .none y.mode).noteFault k .none = y.told k x := by
  have noted : (y.sendFault k x .none y.mode).noteFault k .none
      = { y.sendFault k x .none y.mode with link := (y.sendFault k x .none y.mode).faultNoted k } := by
    simp [Part.noteFault, Part.note, Conditions.noteFault, Part.faultNoted]
  rw [noted, Part.told, if_neg notHalted]
  rfl

/-- E_STOP and OPERATOR_HALT at REST and in STARTUP: the gates stop, and the fault is sent and noted. -/
theorem report_stops (p : Part) (k : FaultKind) (x : Subject) (stops : k = .eStop ∨ k = .operatorHalt)
    (rests : p.mode = .startup ∨ p.mode = .rest) :
    p.report k x = (Gate.all.foldl Part.stopGate p).told k x := by
  have mode : (Gate.all.foldl Part.stopGate p).mode = p.mode := (stopGates_framing p).mode
  have notHalted : (Gate.all.foldl Part.stopGate p).mode ≠ .halted := by rcases rests with m | m <;> rw [mode, m] <;> decide
  rw [← sendFault_told _ k x notHalted, mode]
  unfold Part.report
  rcases rests with m | m <;> simp only [m, Part.stopTravelling, stops, if_true]

/-- While HALTED a report is noted alone (R120). -/
theorem report_halted (p : Part) (k : FaultKind) (x : Subject) (halted : p.mode = .halted) :
    p.report k x = { p with link := p.faultNoted k } := by
  unfold Part.report
  simp [halted, Part.noteFault, Part.note, Conditions.noteFault, Part.faultNoted]

/-- E-STOP has just been asserted. -/
def Part.eStopped (p : Part) : Part := { p with eStop := true }

/-- Settles O31: the report by the mode, and a recomputation that cannot find the flight ready. -/
theorem inputsActByTheMode : Obligations.InputsActByTheMode := by
  refine ⟨fun s => ⟨fun stands => ?_, rfl, fun negated => ?_⟩, fun b s quiet => ?_⟩
  · simp [exec, execEStopAsserted, stands]
  · have run : exec .eStopAsserted s = .next { s with part := (s.part.eStopped.report .eStop .flight).settle } := by
      simp [exec, execEStopAsserted, negated, Part.eStopped]
    have asserted := (settle_onward (s.part.eStopped.report .eStop .flight) false false).base
    have reported := base_of_still (report_worked s.part.eStopped .eStop .flight).still
    refine ⟨_, run, (congrArg Part.eStop (asserted.trans reported) :), fun runs drives => ?_, fun halted => ?_,
      fun rests => ?_⟩
    · rw [report_halts s.part.eStopped .eStop .flight runs (responseOf_fixed _ .eStop (by decide))]
      have full := haltFlight_halted s.part.eStopped .eStop .flight drives
      exact HaltedFrom.settle s.part (full.before s.part.eStopped (p₀ := s.part) rfl rfl rfl rfl rfl rfl rfl) _ _
    · rw [report_halted s.part.eStopped _ _ halted, settle_quiet _ _ _ (by simp [Part.eStopped, halted])
        (by simp [Part.eStopped, halted])]
      exact ⟨rfl, recompute_idle (recompute_notRest _ (by simp [halted]))⟩
    · have still : s.part.eStopped.mode = .startup ∨ s.part.eStopped.mode = .rest := rests.imp_right And.left
      have stands : s.part.eStopped.StandsBy := rests.imp_right .inr
      have framing := stopGates_framing s.part.eStopped
      have told := framing.told .eStop .flight
      have inhibit := framing.navInhibit
      have gates := (congrArg Part.gates (told_form (Gate.all.foldl Part.stopGate s.part.eStopped) .eStop .flight)).trans
        (stopGates_gates s.part.eStopped)
      rw [report_stops s.part.eStopped .eStop .flight (.inl rfl) still]
      have after := stands.of (q := (Gate.all.foldl Part.stopGate s.part.eStopped).told .eStop .flight) told.1 inhibit
      clear framing inhibit
      generalize (Gate.all.foldl Part.stopGate s.part.eStopped).told .eStop .flight = y at *
      rw [after.settle, recompute_mode, recompute_sent, recompute_gates]
      refine ⟨told.1, told.event (by rcases still with m | m <;> rw [m] <;> decide), fun g => ?_⟩
      rw [gates, Four.get_map]
      rfl
  · have settles : ({ s.part with navInhibit := b } : Part).settle = ({ s.part with navInhibit := b } : Part).recompute
        ∧ ({ s.part with navInhibit := b } : Part).recompute.turn.readiness = false := by
      rcases quiet with ⟨rfl, notSurvey⟩ | quiet
      · exact ⟨settle_inhibited _ _ _ notSurvey rfl, recompute_inhibited _ rfl⟩
      · exact ⟨quiet_settle (y := { s.part with navInhibit := b }) quiet _ _, recompute_notRest _ quiet.2⟩
    refine ⟨_, rfl, ?_⟩
    rw [settles.1]
    exact ⟨rfl, recompute_idle settles.2⟩

/-! ### The watchdog (R106, R183) -/

/-- While the link is lost readiness is not on (R63). -/
theorem recompute_lost (p : Part) (h : p.link.lost = true) : p.recompute.turn.readiness = false := by
  rw [recompute_readiness]
  simp [Part.formReadiness, Part.readyView, ReadyView.all, h]

end Sys2Proof.Machine
end

section
/-! PROOFS. Clearances and MOVE_DONE: their refusals, and what they do while HALTED (R101, R103, R104, R108, R111). -/

namespace Sys2Proof.Machine

variable {p q r : Part}

/-! ### The lockage a request names (R103) -/

theorem ifCurrent_other (tag : Tag) (n : Nat) (f : Lockage → Part) (other : ∀ l, p.lockage = some l → l.number ≠ n) :
    p.ifCurrent tag n f = p.refuse .a tag .notCurrent := by
  unfold Part.ifCurrent
  split
  · rename_i l held
    exact if_neg (other l held)
  · rfl

theorem ifCurrent_named (tag : Tag) (f : Lockage → Part) {l : Lockage} (held : p.lockage = some l) :
    p.ifCurrent tag l.number f = f l := by
  simp [Part.ifCurrent, held]

/-! ### What a lockage has behind it (R108) -/

theorem returns_iff (l : Lockage) : l.returns = true ↔ ∃ x ∈ l.plan, x.phase = .returning := by
  simp [Lockage.returns]

theorem returns_false (l : Lockage) (h : ∀ x ∈ l.plan, x.phase ≠ .returning) : l.returns = false := by
  simpa [Lockage.returns] using h

/-- The exit has begun once its OPEN has been commanded, is in TRAVEL, or a later step of its phase is current. -/
theorem exitBegun_of (l : Lockage)
    (h : l.exitCommanded = true
      ∨ ∃ w, l.plan[l.current - 1]? = some ⟨w, .exit⟩ ∧ ((∃ g, w = .openGate g) → l.stage = .travel)) :
    l.exitBegun = true := by
  unfold Lockage.exitBegun
  rcases h with h | ⟨w, step, travel⟩
  · simp [h]
  · cases w with
    | openGate g => simp [step, travel ⟨g, rfl⟩]
    | close g => simp [step]
    | transfer k => simp [step]
    | move g d => simp [step]
    | commit => simp [step]

theorem moveDone_misplaced (tag : Tag) (i : Nat) (l : Lockage) (h : i ≠ l.current ∨ l.stage = .awaiting) :
    p.moveDone tag i l = p.refuse .a tag .notCurrent := by
  have fails : ¬ (i = l.current ∧ l.stage ≠ .awaiting) := fun ⟨index, stage⟩ => h.elim (· index) stage
  unfold Part.moveDone
  split
  · exact if_neg fails
  · rfl

/-- Settles O39: each test of a clearance or MOVE_DONE answers before anything changes. -/
theorem refusedClearancesChangeNothing : Obligations.RefusedClearancesChangeNothing := by
  unfold Obligations.RefusedClearancesChangeNothing
  intro tag s n i refused
  have enter : ∀ c q, exec c s = .next { s with part := q } → ∀ x, q = s.part.refuse .a tag x → refused c x :=
    fun c q run x e => by subst e; exact run
  refine ⟨fun other => ?_, ?_⟩
  · have away := fun f => ifCurrent_other (p := s.part) tag n f other
    exact ⟨enter _ _ rfl _ (away _), enter _ _ rfl _ (away _), enter _ _ rfl _ (away _), enter _ _ rfl _ (away _),
      enter _ _ rfl _ (away _)⟩
  · rintro l held rfl
    have named := fun f => ifCurrent_named (p := s.part) tag f held
    refine ⟨fun none => ⟨enter _ _ rfl _ ((named _).trans (if_pos none)), enter _ _ rfl _ ((named _).trans (if_pos none))⟩,
      fun none => ⟨enter _ _ rfl _ ((named _).trans (if_pos none)), enter _ _ rfl _ ((named _).trans (if_pos none))⟩,
      fun needed passed => enter _ _ rfl _ ((named _).trans ?_), fun needed back => enter _ _ rfl _ ((named _).trans ?_),
      fun needed on begun => enter _ _ rfl _ ((named _).trans ?_),
      fun index => enter _ _ rfl _ ((named _).trans (moveDone_misplaced tag i l (.inl index))),
      fun stage => enter _ _ rfl _ ((named _).trans (moveDone_misplaced tag i l (.inr stage)))⟩
    · rw [Part.entryRefuse, if_neg needed, if_pos passed]
    · rw [Part.exitClear, if_neg needed, if_pos ((returns_iff l).2 back)]
    · rw [Part.exitRefuse, if_neg needed, returns_false l on, if_neg Bool.false_ne_true, if_pos (exitBegun_of l begun)]

/-! ### Clearances while HALTED (R111) -/

/-- A clearance stored in a part where nothing follows. -/
theorem storeClearance_eq (tag : Tag) (l : Lockage) (a b : Bool) :
    p.storeClearance tag l a b = { p with
      lockage := some l
      sent := (p.send .a (.accepted tag (some p.link.conditions.any)
        (.clearance l.number l.entry l.exit l.commitment l.late a b))).sent } := rfl

/-- Where no turn and no survey's end can follow, an arrival changes the turn selector alone. -/
theorem quiet_settled {y : Part} (quiet : quietMode y.mode) (a b : Bool) :
    ∃ t, y.settle a b = { y with turn := t } ∧ TurnIdle y.turn t :=
  ⟨_, quiet_settle quiet a b, recompute_idle (recompute_notRest y quiet.2)⟩

/-- The same while NAV-INHIBIT is asserted. -/
theorem inhibited_settled {y : Part} (notSurvey : y.mode ≠ .survey) (inhibit : y.navInhibit = true) (a b : Bool) :
    ∃ t, y.settle a b = { y with turn := t } ∧ TurnIdle y.turn t :=
  ⟨_, settle_inhibited y a b notSurvey inhibit, recompute_idle (recompute_inhibited y inhibit)⟩

theorem entryAwaiting_other (h : p.mode ≠ .working) : p.entryAwaiting = none := by
  unfold Part.entryAwaiting
  split
  · simp [h]
  · rfl

theorem releaseEntry_other (h : p.mode ≠ .working) : p.releaseEntry = p := by
  simp [Part.releaseEntry, entryAwaiting_other h]

theorem commitInHand_other (h : p.mode ≠ .working) : p.commitInHand = false := by
  unfold Part.commitInHand
  split
  · simp [h]
  · rfl

/-- A lockage of class B whose entry clearance is awaited. -/
def entryAwaited : Lockage := newLockage 1 .up .b [] [⟨.commit, .commit⟩] ⟨0, 0⟩

/-- The lockage halted, with readiness still on in the turn selector. -/
def haltedReady : State :=
  { State.reset with part := { Part.initial with
      mode := .halted, lockage := some entryAwaited, turn := { Part.initial.turn with readiness := true } } }

/-- Refutes O36: ENTRY_REFUSE while HALTED stores the refusal and no more, so that a readiness that stands is not
formed anew and stays on, where the statement asks that it is off. -/
theorem not_clearancesAreStoredWhileHalted : ¬ Obligations.ClearancesAreStoredWhileHalted := by
  unfold Obligations.ClearancesAreStoredWhileHalted
  intro h
  obtain ⟨_, refuse, _⟩ := h 0 haltedReady entryAwaited rfl rfl
  obtain ⟨q, run, _, off, _⟩ := refuse (.inl rfl) rfl
  have stored : haltedReady.part.storeClearance 0 { entryAwaited with entry := .refused } false false = q :=
    part_of_next (t := { haltedReady with
      part := haltedReady.part.storeClearance 0 { entryAwaited with entry := .refused } false false }) run rfl
  subst stored
  exact absurd off (by decide)

end Sys2Proof.Machine
end

section
/-! PROOFS. A step becoming current, and the steps that follow it (R93, R96, R100, R101, R107). -/

namespace Sys2Proof.Machine

variable {p q r : Part} {l : Lockage}

/-! ### The record in hand -/

/-- The part with a lockage record in hand. -/
def Part.holding (p : Part) (l : Lockage) : Part := { p with lockage := some l }

theorem onLockage_holding (held : p.lockage = some l) (f : Lockage → Lockage) : p.onLockage f = p.holding (f l) := by
  rw [Part.onLockage, held]; rfl

theorem setStage_holding (held : p.lockage = some l) (g : Stage) : p.setStage g = p.holding { l with stage := g } :=
  onLockage_holding held _

theorem stopLockageTimers_holding (held : p.lockage = some l) :
    p.stopLockageTimers = p.holding { l with moveTimer := none, windowTimer := none } := onLockage_holding held _

theorem curStep_of (held : p.lockage = some l) : p.curStep = l.plan[l.current - 1]? := by
  simp [Part.curStep, held]

theorem noEntryMove_of {s : PlanStep} (step : p.curStep = some s) (h : s.phase ≠ .entry ∨ ∀ g d, s.work ≠ .move g d) :
    p.NoEntryMove := by
  intro g d at_
  have same := Option.some.inj (step.symm.trans at_)
  subst same
  rcases h with h | h
  · exact h rfl
  · exact h g d rfl

/-! ### A step becomes current (R93) -/

/-- The record and the kinds reported as step i, s, becomes current. -/
def Part.stepping (p : Part) (l : Lockage) (i : Nat) (s : PlanStep) : Part :=
  { p with lockage := some (l.takeStep i s), faults := { p.faults with reported := [] } }

theorem makeCurrent_eq {i : Nat} {s : PlanStep} (held : p.lockage = some l) (step : l.plan[i - 1]? = some s) :
    p.makeCurrent i = (p.stepping l i s).refreshFaces.event (.step l.number i s p.clock) := by
  unfold Part.makeCurrent
  rw [held]
  dsimp only
  rw [step]
  rfl

/-- What the step's becoming current leaves beside works and signals; its STEP event is sent last. -/
theorem makeCurrent_form {i : Nat} {s : PlanStep} (held : p.lockage = some l) (step : l.plan[i - 1]? = some s) :
    ∃ r, p.makeCurrent i = r.event (.step l.number i s p.clock) ∧ Framing (p.stepping l i s) r ∧ r.gates = p.gates
      ∧ r.sluices = p.sluices ∧ r.reaches = p.reaches :=
  ⟨_, makeCurrent_eq held step, refreshFaces_framing _, refreshFaces_gates _, refreshFaces_sluices _,
    refreshFaces_reaches _⟩

theorem makeCurrent_sent {i : Nat} {s : PlanStep} (held : p.lockage = some l) (step : l.plan[i - 1]? = some s) :
    (p.makeCurrent i).sent.a = p.sent.a ++ [.event (.step l.number i s p.clock)] := by
  obtain ⟨r, e, framing, -⟩ := makeCurrent_form held step
  rw [e, event_sent_a, framing.sent]
  rfl

/-- The step in hand as it has become current. -/
theorem makeCurrent_curStep {i : Nat} {s : PlanStep} (held : p.lockage = some l) (step : l.plan[i - 1]? = some s) :
    (p.makeCurrent i).curStep = some s := by
  obtain ⟨r, e, framing, -⟩ := makeCurrent_form held step
  have same : (r.event (.step l.number i s p.clock)).curStep = r.curStep := rfl
  rw [e, same, framing.curStep, curStep_of (l := l.takeStep i s) rfl]
  exact step

/-- Beside an entry move the record is the one R93 makes. -/
theorem makeCurrent_lockage {i : Nat} {s : PlanStep} (held : p.lockage = some l) (step : l.plan[i - 1]? = some s)
    (h : s.phase ≠ .entry ∨ ∀ g d, s.work ≠ .move g d) : (p.makeCurrent i).lockage = some (l.takeStep i s) := by
  obtain ⟨r, e, framing, -⟩ := makeCurrent_form held step
  have no : (p.stepping l i s).NoEntryMove := noEntryMove_of (curStep_of (l := l.takeStep i s) rfl |>.trans step) h
  rw [e, event_lockage, framing.lockage_same no]
  rfl

/-! ### The step in hand ends (R93) -/

theorem nextStep_into {s x : PlanStep} (held : p.lockage = some l) (step : p.curStep = some s)
    (next : l.plan[l.current]? = some x) :
    p.nextStep = (p.stopLockageTimers.makeCurrent (l.current + 1)).beginStep := by
  have more : l.current < l.plan.length := (List.getElem?_eq_some_iff.mp next).1
  unfold Part.nextStep
  rw [held, step]
  exact if_pos more

/-- The timers stopped, the next step stands where the record says. -/
theorem timeless_step {x : PlanStep} (held : p.lockage = some l) (next : l.plan[l.current]? = some x) :
    p.stopLockageTimers.lockage = some { l with moveTimer := none, windowTimer := none }
      ∧ ({ l with moveTimer := none, windowTimer := none } : Lockage).plan[l.current + 1 - 1]? = some x :=
  ⟨by rw [stopLockageTimers_holding held]; rfl, next⟩

theorem nextStep_sends {s x : PlanStep} (held : p.lockage = some l) (step : p.curStep = some s)
    (next : l.plan[l.current]? = some x) :
    p.sent.a ++ [.event (.step l.number (l.current + 1) x p.clock)] <+: p.nextStep.1.sent.a := by
  obtain ⟨held', next'⟩ := timeless_step held next
  rw [nextStep_into held step next]
  have sent := makeCurrent_sent held' next'
  have grows := (beginStep_onward (p.stopLockageTimers.makeCurrent (l.current + 1))).sent .a
  rw [Three.get, Three.get, sent] at grows
  exact grows

/-- The step after becomes current, with its STEP event sent. -/
theorem advance_sends {s x : PlanStep} (held : p.lockage = some l) (step : p.curStep = some s)
    (next : l.plan[l.current]? = some x) :
    p.sent.a ++ [.event (.step l.number (l.current + 1) x p.clock)] <+: p.advance.sent.a := by
  refine (nextStep_sends held step next).trans ?_
  unfold Part.advance longestPlan Part.advanceBy
  split
  · exact (advanceBy_onward _ _).sent .a
  · exact List.prefix_rfl

theorem advance_once (h : p.nextStep.2 = false) : p.advance = p.nextStep.1 := by
  rw [Part.advance, longestPlan, Part.advanceBy, h]
  rfl

/-- What follows an event only sends more. -/
theorem sends_settle {m : List Msg} (h : m <+: p.sent.a) (a b : Bool) : m <+: (p.settle a b).sent.a :=
  h.trans ((settle_onward p a b).sent .a)

/-! ### MOVE_DONE (R100, R101) -/

theorem moveDone_inHand (tag : Tag) {g : Gate} {d : Direction} {ph : Phase} (step : p.curStep = some ⟨.move g d, ph⟩)
    (stage : l.stage ≠ .awaiting) : p.moveDone tag l.current l = (p.accept .a tag .nothing).confirmMove g d := by
  unfold Part.moveDone
  rw [step]
  exact if_pos ⟨rfl, stage⟩

theorem endMove_sends {g : Gate} {d : Direction} {s x : PlanStep} (held : p.lockage = some l) (step : p.curStep = some s)
    (next : l.plan[l.current]? = some x) :
    p.sent.a ++ [.event (.step l.number (l.current + 1) x p.clock)] <+: (p.endMove g d).sent.a := by
  have stopped := onLockage_holding held fun l => { l with moveTimer := none }
  have framing := requestAspect_framing (p.holding { l with moveTimer := none }) (faceServing g d) .stop
  have cur : (p.holding { l with moveTimer := none }).curStep = p.curStep := by
    rw [curStep_of held, curStep_of (l := { l with moveTimer := none }) rfl]
  obtain ⟨b, held'⟩ := framing.lockage_some (l := { l with moveTimer := none }) rfl
  have sends := advance_sends held' (framing.curStep.trans (cur.trans step)) next
  rw [framing.sent, framing.clock] at sends
  rw [Part.endMove, stopped]
  exact sends

/-- Settles O40: the move ends as every step does, and while HALTED is marked done alone. -/
theorem moveDoneEndsTheMove : Obligations.MoveDoneEndsTheMove := by
  unfold Obligations.MoveDoneEndsTheMove
  intro tag s l g d ph held step stage reply
  have taken : s.part.takeMoveDone tag l.number l.current = (s.part.accept .a tag .nothing).confirmMove g d :=
    (ifCurrent_named tag _ held).trans (moveDone_inHand tag step stage)
  refine ⟨fun x working next => ⟨_, rfl, ?_⟩, fun halted => ?_⟩
  · have confirmed : (s.part.accept .a tag .nothing).confirmMove g d
        = ((s.part.accept .a tag .nothing).endMove g d).settle := if_pos working
    rw [taken, confirmed]
    refine sends_settle ?_ _ _
    have sends := endMove_sends (p := s.part.accept .a tag .nothing) (g := g) (d := d) held step next
    have told : (s.part.accept .a tag .nothing).sent.a = s.part.sent.a ++ [reply] := rfl
    rw [told, List.append_assoc] at sends
    exact sends
  · have notWorking : s.part.mode ≠ .working := by rw [halted]; decide
    have confirmed : (s.part.accept .a tag .nothing).confirmMove g d
        = (s.part.accept .a tag .nothing).onLockage fun l => { l with moveDone := true } := if_neg notWorking
    have run : exec (.moveDone tag l.number l.current) s
        = .next { s with part := s.part.takeMoveDone tag l.number l.current } := rfl
    rw [run, taken, confirmed, onLockage_holding (p := s.part.accept .a tag .nothing) held]
    rfl

end Sys2Proof.Machine
end

section
/-! PROOFS. The OPEN step's tests and a transfer's start (R24, R32, R96 to R99, R107). -/

namespace Sys2Proof.Machine

variable {p q r : Part} {l : Lockage}

/-! ### The OPEN step that waits (R97) -/

theorem openInHand_of {g : Gate} {ph : Phase} (held : p.lockage = some l) (working : p.mode = .working)
    (step : p.curStep = some ⟨.openGate g, ph⟩) : p.openInHand = some (l, g, ph) := by
  simp [Part.openInHand, held, working, step]

/-- The OPEN step in hand waits for one of its tests. -/
structure Part.OpenWaits (p : Part) (l : Lockage) (g : Gate) (ph : Phase) : Prop where
  held : p.lockage = some l
  working : p.mode = .working
  step : p.curStep = some ⟨.openGate g, ph⟩
  stage : l.stage = .clearance ∨ l.stage = .tide ∨ l.stage = .level

theorem reevaluateOpen_waits {g : Gate} {ph : Phase} (h : p.OpenWaits l g ph) :
    p.reevaluateOpen = Part.carryOn (p.evaluateOpen l g ph) := by
  unfold Part.reevaluateOpen
  rw [openInHand_of h.held h.working h.step]
  refine if_pos ?_
  rcases h.stage with e | e | e <;> rw [e] <;> rfl

theorem needsExit_iff (l : Lockage) (ph : Phase) :
    l.needsExit ph = true ↔ ph = .exit ∧ l.cls = .c ∧ l.exit ≠ .given := by
  simp [Lockage.needsExit, and_assoc]

/-- Test 2 finds the convoy without depth (R97). -/
def Part.dry (p : Part) (l : Lockage) (ph : Phase) : Prop :=
  (ph = .entry ∨ ph = .exit ∨ ph = .returning) ∧ p.passable l.convoy = false

theorem dry_iff (p : Part) (l : Lockage) (ph : Phase) : (ph.testsDepth && !p.passable l.convoy) = true ↔ p.dry l ph := by
  unfold Part.dry
  cases ph <;> simp [Phase.testsDepth]

theorem evaluateOpen_exit {g : Gate} {ph : Phase} (needs : ph = .exit ∧ l.cls = .c ∧ l.exit ≠ .given) :
    p.evaluateOpen l g ph = (p.setStage .clearance, false) := if_pos ((needsExit_iff l ph).mpr needs)

theorem evaluateOpen_dry {g : Gate} {ph : Phase} (free : ¬ (ph = .exit ∧ l.cls = .c ∧ l.exit ≠ .given))
    (dry : p.dry l ph) : p.evaluateOpen l g ph = (p.waitTide g, false) := by
  unfold Part.evaluateOpen
  rw [if_neg fun h => free ((needsExit_iff l ph).mp h), if_pos ((dry_iff p l ph).mpr dry)]

theorem evaluateOpen_level {g : Gate} {ph : Phase} (free : ¬ (ph = .exit ∧ l.cls = .c ∧ l.exit ≠ .given))
    (deep : ¬ p.dry l ph) : p.evaluateOpen l g ph = p.levelTest g ph l.number := by
  unfold Part.evaluateOpen
  rw [if_neg fun h => free ((needsExit_iff l ph).mp h), if_neg fun h => deep ((dry_iff p l ph).mp h)]

/-! ### Waiting for depth (R98) -/

/-- The record of a step that waits for depth. -/
def Lockage.tideWaiting (l : Lockage) : Lockage :=
  { l with stage := .tide, tideReported := true, tideWait := if l.tideReported then l.tideWait else true }

/-- What it reports, once. -/
def Part.tideReport (p : Part) (l : Lockage) (g : Gate) : List Msg :=
  if l.tideReported then [] else
    [.event (.tideWait l.number l.current g (p.headProven l.convoy) (p.tailProven l.convoy))]

theorem waitTide_eq (held : p.lockage = some l) (g : Gate) : p.waitTide g
    = { p.holding l.tideWaiting with sent := { p.sent with a := p.sent.a ++ p.tideReport l g } } := by
  unfold Part.waitTide
  rw [held]
  dsimp only
  cases reported : l.tideReported with
  | true =>
    rw [if_pos rfl, setStage_holding held]
    have same : l.tideWaiting = { l with stage := .tide } := by simp [Lockage.tideWaiting, reported]
    simp [same, Part.tideReport, reported, Part.holding]
  | false =>
    rw [if_neg Bool.false_ne_true, onLockage_holding held]
    simp only [Lockage.tideWaiting, Part.tideReport, reported]
    rfl

/-! ### The gate's answer (R24) -/

theorem levelTest_opens {g : Gate} {ph : Phase} {n : Nat} (water : p.compare g = .level)
    (notOpen : (p.gates.get g).state ≠ .open_) (closed : p.interlock g = true) :
    p.levelTest g ph n = ((p.reachTravel ph).openGate g, false) := by
  have taken : p.openAnswer g = .taken := by
    unfold Part.openAnswer
    cases state : (p.gates.get g).state <;> simp [water, closed]
    exact absurd state notOpen
  simp [Part.levelTest, water, taken]

theorem levelTest_opening {g : Gate} {ph : Phase} {n : Nat} (water : p.compare g = .level)
    (opening : (p.gates.get g).state = .opening) : p.levelTest g ph n = (p.reachTravel ph, false) := by
  have taken : p.openAnswer g = .taken := by simp [Part.openAnswer, opening]
  have stands : (p.reachTravel ph).openGate g = p.reachTravel ph := by
    simp [Part.openGate, opening]
  simp [Part.levelTest, water, taken, stands]

theorem levelTest_declined {g : Gate} {ph : Phase} {n : Nat} (water : p.compare g = .level)
    (notOpen : (p.gates.get g).state ≠ .open_) (notOpening : (p.gates.get g).state ≠ .opening)
    (open_ : p.interlock g = false) : p.levelTest g ph n = (p.setStage .level, false) := by
  have declined : p.openAnswer g = .declined := by
    unfold Part.openAnswer
    cases state : (p.gates.get g).state <;> simp [open_]
    · exact absurd state notOpening
    · exact absurd state notOpen
  simp [Part.levelTest, water, declined]

theorem levelTest_open {g : Gate} {ph : Phase} {n : Nat} (water : p.compare g = .level)
    (state : (p.gates.get g).state = .open_) : p.levelTest g ph n = (p.reachTravel ph, true) := by
  have done : p.openAnswer g = .completed := by simp [Part.openAnswer, state]
  simp [Part.levelTest, water, done]

theorem levelTest_unordered {g : Gate} {ph : Phase} {n : Nat} {c : UnorderedCause} (water : p.compare g = .unordered c) :
    p.levelTest g ph n = ((p.setStage .level).report (sensorFault c) (.gate g), false) := by
  simp [Part.levelTest, water]

theorem levelTest_lifts {g : Gate} {ph : Phase} {n : Nat} (water : p.compare g = .above ∨ p.compare g = .below) :
    p.levelTest g ph n = ((p.setStage .levelling).startTransfer g n, false) := by
  rcases water with w | w <;> simp [Part.levelTest, w]

/-- A gate given OPEN by the sequencer. -/
def GateRec.commanded (x : GateRec) (limit : Option Nat) : GateRec :=
  { x with state := .opening, drive := .openDrive, travelTimer := limit, openPending := true, commander := .sequencer }

theorem openGate_commanded {g : Gate} (notOpen : (p.gates.get g).state ≠ .open_)
    (notOpening : (p.gates.get g).state ≠ .opening) (water : p.compare g = .level) (closed : p.interlock g = true) :
    p.openGate g = p.putGate g ((p.gates.get g).commanded (p.travelLimit g)) := by
  unfold Part.openGate GateRec.commanded
  cases state : (p.gates.get g).state <;> simp [water, closed]

/-! ### A transfer begins (R32) -/

/-- A transfer over water that is not level begins with the ramp. -/
theorem recordTransfer_lifts {k : Sluice} {n : Nat} (water : p.compare k = .above ∨ p.compare k = .below) :
    ∃ y, p.recordTransfer k n = p.putSluice k y ∧ y.transfer = some ⟨.ramping, p.transferLimit k, n⟩
      ∧ y.position = (p.sluices.get k).position := by
  unfold Part.recordTransfer
  dsimp only
  rw [putSluice_compare]
  have lifts : ∀ x : SluiceRec, x.transfer = some ⟨.ramping, p.transferLimit k, n⟩ →
      x.position = (p.sluices.get k).position →
      ∃ y, (p.putSluice k x).rampNext k = p.putSluice k y ∧ y.transfer = some ⟨.ramping, p.transferLimit k, n⟩
        ∧ y.position = (p.sluices.get k).position := fun x transfer position => by
    refine ⟨x.ramped ((p.putSluice k x).effectiveCap k) ((p.putSluice k x).mayStepUp k) (p.stepLimit k), ?_, ?_, ?_⟩
    · rw [rampNext_eq, putSluice_get]
      exact putSluice_putSluice p k x _ (ramped_position x _ _ _)
    · rw [ramped_transfer, transfer]
    · rw [ramped_position, position]
  rcases water with w | w <;> rw [w] <;> exact lifts _ rfl rfl

theorem startTransfer_free {k : Sluice} {n : Nat} (free : (p.sluices.get k).transfer = none) :
    p.startTransfer k n = p.recordTransfer k n := by
  simp [Part.startTransfer, free]

/-! ### The evaluation in full -/

theorem carryOn_stays (q : Part) : Part.carryOn (q, false) = q := rfl

theorem carryOn_ends (q : Part) : Part.carryOn (q, true) = q.advance := rfl

/-- A report by the step in hand: continued or halting, as its response says, with nothing following it. -/
theorem report_settled {y : Part} (working : y.mode = .working) (k : FaultKind) (x : Subject) :
    (y.responseOf k = .continue_ → y.faults.reported.contains k = true →
        ∃ t, (y.report k x).settle = { y with turn := t } ∧ TurnIdle y.turn t)
      ∧ (y.responseOf k = .continue_ → y.faults.reported.contains k = false →
          ∃ t, (y.report k x).settle = { y with
              turn := t
              faults := { y.faults with reported := y.faults.reported ++ [k] }
              sent := { y.sent with
                a := y.sent.a ++ [.event (.fault k x .continue_ y.mode y.lockageNumber y.stepIndex y.clock)] }
              link := y.faultNoted k } ∧ TurnIdle y.turn t)
      ∧ (y.responseOf k = .halt → y.DrivesMatch → HaltedFrom y ((y.report k x).settle) k x) := by
  refine ⟨fun response again => ?_, fun response first => ?_, fun response drives => ?_⟩
  · rw [(report_continued y k x working response).1 again]
    exact quiet_settled (working_quiet working) _ _
  · rw [(report_continued y k x working response).2 first]
    exact quiet_settled (y := { y with
        faults := { y.faults with reported := y.faults.reported ++ [k] }
        sent := { y.sent with
          a := y.sent.a ++ [.event (.fault k x .continue_ y.mode y.lockageNumber y.stepIndex y.clock)] }
        link := y.faultNoted k }) (working_quiet working) _ _
  · rw [report_halts y k x (.inl working) response]
    exact (haltFlight_halted y k x drives).settle _ _ _

/-- The record of an OPEN step that has reached TRAVEL. -/
def Lockage.travelling (l : Lockage) (ph : Phase) : Lockage :=
  { l with stage := .travel, exitCommanded := l.exitCommanded || decide (ph = .exit) }

theorem reachTravel_holding (held : p.lockage = some l) (ph : Phase) : p.reachTravel ph = p.holding (l.travelling ph) :=
  onLockage_holding held _

/-- A change of the record alone keeps the step in hand, where it keeps plan and place. -/
theorem holding_step {m : Lockage} (held : p.lockage = some l) (plan : m.plan = l.plan) (current : m.current = l.current) :
    (p.holding m).curStep = p.curStep := by
  rw [curStep_of held, curStep_of (l := m) rfl, plan, current]

/-- The gate of an OPEN step commanded. -/
theorem openStep_commands {g : Gate} {ph : Phase} (h : p.OpenWaits l g ph) (notOpen : (p.gates.get g).state ≠ .open_)
    (notOpening : (p.gates.get g).state ≠ .opening) (water : p.compare g = .level) (closed : p.interlock g = true) :
    ∃ q, (p.reachTravel ph).openGate g = q ∧ Framing (p.holding (l.travelling ph)) q
      ∧ q.lockage = some (l.travelling ph)
      ∧ q.gates = p.gates.set g ((p.gates.get g).commanded (p.travelLimit g)) := by
  have commands : (p.holding (l.travelling ph)).openGate g
      = (p.holding (l.travelling ph)).putGate g ((p.gates.get g).commanded (p.travelLimit g)) :=
    openGate_commanded (p := p.holding (l.travelling ph)) notOpen notOpening water closed
  have framing := putGate_framing (p.holding (l.travelling ph)) g ((p.gates.get g).commanded (p.travelLimit g))
  have no : (p.holding (l.travelling ph)).NoEntryMove :=
    noEntryMove_of ((holding_step h.held rfl rfl).trans h.step) (.inr nofun)
  exact ⟨_, (congrArg (Part.openGate · g) (reachTravel_holding h.held ph)).trans commands, framing,
    (framing.lockage_same no).trans rfl, putGate_gates _ _ _⟩

/-- A transfer begun for a step in hand whose stage is set first. -/
theorem liftsAt {k : Sluice} {n : Nat} (m : Lockage) (free : (p.sluices.get k).transfer = none)
    (water : p.compare k = .above ∨ p.compare k = .below) :
    ∃ y, (p.holding m).startTransfer k n = (p.holding m).putSluice k y
      ∧ y.transfer = some ⟨.ramping, p.transferLimit k, n⟩ ∧ y.position = (p.sluices.get k).position := by
  rw [startTransfer_free (p := p.holding m) free]
  exact recordTransfer_lifts (p := p.holding m) water

/-- Settles O35: the tests in R97's order, each with what its answer writes. -/
theorem openStepTakesItsTests : Obligations.OpenStepTakesItsTests := by
  unfold Obligations.OpenStepTakesItsTests
  intro s l g ph held working step stage needs dry
  have waits : s.part.OpenWaits l g ph := ⟨held, working, step, stage⟩
  have run : exec .openStepEvaluate s = .next { s with part := (Part.carryOn (s.part.evaluateOpen l g ph)).settle } := by
    rw [← reevaluateOpen_waits waits]; rfl
  have hold := setStage_holding held
  have travel := reachTravel_holding held ph
  refine ⟨_, run, fun h => ?_, fun free h => ?_, fun free deep water notOpen notOpening => ?_,
    fun free deep water opening => ?_, fun x free deep water open_ next => ?_, fun c free deep water => ?_,
    fun free deep water alone => ?_⟩
  · rw [evaluateOpen_exit h, carryOn_stays, hold]
    obtain ⟨t, e, idle⟩ := quiet_settled (y := s.part.holding { l with stage := .clearance }) (working_quiet working) false false
    exact e ▸ ⟨rfl, idle⟩
  · rw [evaluateOpen_dry free h, carryOn_stays, waitTide_eq held]
    obtain ⟨t, e, -⟩ := quiet_settled (y := { s.part.holding l.tideWaiting with sent :=
      { s.part.sent with a := s.part.sent.a ++ s.part.tideReport l g } }) (working_quiet working) false false
    exact e ▸ ⟨working, rfl, rfl, rfl⟩
  · rw [evaluateOpen_level free deep]
    cases closed : s.part.interlock g with
    | true =>
      obtain ⟨q, e, framing, lockage, gates⟩ := openStep_commands waits notOpen notOpening water closed
      rw [levelTest_opens water notOpen closed, carryOn_stays, e, if_pos rfl]
      obtain ⟨t, e, -⟩ := quiet_settled (y := q) (working_quiet (framing.mode.trans working)) false false
      exact e ▸ ⟨lockage, gates⟩
    | false =>
      rw [levelTest_declined water notOpen notOpening closed, carryOn_stays, hold, if_neg Bool.false_ne_true]
      obtain ⟨t, e, -⟩ := quiet_settled (y := s.part.holding { l with stage := .level }) (working_quiet working) false false
      exact e ▸ ⟨rfl, rfl⟩
  · rw [evaluateOpen_level free deep, levelTest_opening water opening, carryOn_stays, travel]
    obtain ⟨t, e, -⟩ := quiet_settled (y := s.part.holding (l.travelling ph)) (working_quiet working) false false
    exact e ▸ ⟨working, rfl, rfl, rfl⟩
  · rw [evaluateOpen_level free deep, levelTest_open water open_, carryOn_ends, travel]
    exact sends_settle (advance_sends (p := s.part.holding (l.travelling ph)) (l := l.travelling ph) rfl
      ((holding_step held rfl rfl).trans step) next) _ _
  · rw [evaluateOpen_level free deep, levelTest_unordered water, carryOn_stays, hold]
    intro kind waits
    have same : kind = sensorFault c := by cases c <;> rfl
    clear_value kind
    subst same
    obtain ⟨again, first, halts⟩ := report_settled (y := s.part.holding { l with stage := .level }) working (sensorFault c)
      (.gate g)
    refine ⟨fun response reported => ?_, fun response reported => ?_, fun response drives => halts response drives⟩
    · obtain ⟨t, e, idle⟩ := again response reported
      exact e ▸ ⟨rfl, idle⟩
    · obtain ⟨t, e, idle⟩ := first response reported
      rw [e]
      refine ⟨?_, idle⟩
      simp only [Part.holding, Part.faultNoted, Part.lockageNumber, Part.stepIndex, Option.map_some, working, waits]
  · rw [evaluateOpen_level free deep, levelTest_lifts water, carryOn_stays, hold]
    obtain ⟨y, e, transfer, -⟩ := liftsAt (n := l.number) { l with stage := .levelling } alone water
    rw [e]
    obtain ⟨t, e, -⟩ := quiet_settled (y := (s.part.holding { l with stage := .levelling }).putSluice g y)
      (working_quiet working) false false
    rw [e]
    exact ⟨rfl, rfl, _, (congrArg SluiceRec.transfer (putSluice_get _ g y)).trans transfer, rfl, rfl⟩

end Sys2Proof.Machine
end

section
/-! PROOFS. The window's expiry and the watchdog's (R96, R106, R107, R183). -/

namespace Sys2Proof.Machine

variable {p q r : Part} {l : Lockage}

/-! ### A TRANSFER becomes current (R96) -/

theorem compare_of (reaches : q.reaches = p.reaches) (settings : q.settings = p.settings) (g : Gate) :
    q.compare g = p.compare g := by
  simp only [Part.compare, Part.level, reaches, settings]

/-- A transfer that ramps has not ended. -/
theorem putSluice_ramping {k : Sluice} {y : SluiceRec} {t : Transfer} (held : y.transfer = some t)
    (phase : t.phase = .ramping) : (p.putSluice k y).transferDone k = false := by
  rw [transferDone_eq, putSluice_get]
  simp [SluiceRec.finished, held, phase]

theorem beginTransfer_lifts {k : Sluice} {n : Nat} (free : (p.sluices.get k).transfer = none)
    (water : p.compare k = .above ∨ p.compare k = .below) :
    ∃ y, p.beginTransfer k n = (p.putSluice k y, false) ∧ y.transfer = some ⟨.ramping, p.transferLimit k, n⟩ := by
  obtain ⟨y, e, transfer, -⟩ := recordTransfer_lifts (n := n) water
  refine ⟨y, ?_, transfer⟩
  unfold Part.beginTransfer
  dsimp only
  rw [startTransfer_free free, e, putSluice_ramping transfer rfl, Bool.and_false]
  rfl

section
variable {ph : Phase} (held : p.lockage = some l)
include held

theorem beginStep_close {g : Gate} (step : p.curStep = some ⟨.close g, ph⟩) :
    p.beginStep = (p.closeGate g .sequencer, decide ((p.gates.get g).state = .closed)) := by
  simp [Part.beginStep, held, step]

theorem beginStep_transfer {k : Sluice} (step : p.curStep = some ⟨.transfer k, ph⟩) :
    p.beginStep = p.beginTransfer k l.number := by
  simp [Part.beginStep, held, step]

theorem beginStep_open {g : Gate} (step : p.curStep = some ⟨.openGate g, ph⟩) : p.beginStep = p.evaluateOpen l g ph := by
  simp [Part.beginStep, held, step]

theorem beginStep_move {g : Gate} {d : Direction} (step : p.curStep = some ⟨.move g d, ph⟩) :
    p.beginStep = (p.beginMove l g d, false) := by
  simp [Part.beginStep, held, step]

theorem beginStep_commit (step : p.curStep = some ⟨.commit, ph⟩) : p.beginStep = p.beginCommit l := by
  simp [Part.beginStep, held, step]

end

/-- A TRANSFER over water that is not level, as the step after. -/
theorem nextStep_lifts {s : PlanStep} {k : Sluice} {ph : Phase} (held : p.lockage = some l) (step : p.curStep = some s)
    (next : l.plan[l.current]? = some ⟨.transfer k, ph⟩) (free : (p.sluices.get k).transfer = none)
    (water : p.compare k = .above ∨ p.compare k = .below) :
    ∃ q, p.nextStep = (q, false) ∧ q.mode = p.mode
      ∧ q.lockage = some (({ l with moveTimer := none, windowTimer := none } : Lockage).takeStep (l.current + 1)
          ⟨.transfer k, ph⟩)
      ∧ q.sent.a = p.sent.a ++ [.event (.step l.number (l.current + 1) ⟨.transfer k, ph⟩ p.clock)]
      ∧ (q.sluices.get k).transfer = some ⟨.ramping, p.transferLimit k, l.number⟩ := by
  obtain ⟨held', next'⟩ := timeless_step held next
  rw [nextStep_into held step next]
  have sent := makeCurrent_sent held' next'
  have lockage := makeCurrent_lockage held' next' (.inr nofun)
  have cur := makeCurrent_curStep held' next'
  obtain ⟨r, e, framing, -, sluices, reaches⟩ := makeCurrent_form held' next'
  generalize p.stopLockageTimers.makeCurrent (l.current + 1) = m at *
  have settings : m.settings = p.settings := e ▸ framing.settings
  have freed : (m.sluices.get k).transfer = none := by
    rw [e, event_sluices, sluices]; exact free
  have flows : m.compare k = .above ∨ m.compare k = .below := by
    rw [compare_of (p := p) (by rw [e, event_reaches, reaches]; rfl) settings]; exact water
  obtain ⟨y, begun, transfer⟩ := beginTransfer_lifts (n := l.number) freed flows
  refine ⟨m.putSluice k y, ?_, ?_, ?_, ?_, ?_⟩
  · rw [beginStep_transfer lockage cur]; exact begun
  · rw [putSluice_mode, e]; exact framing.mode
  · rw [putSluice_lockage, lockage]
  · rw [putSluice_sent, sent]; rfl
  · rw [putSluice_get, transfer, Part.transferLimit, settings]; rfl

/-! ### The window's expiry (R107) -/

theorem commitInHand_of {ph : Phase} (working : p.mode = .working) (step : p.curStep = some ⟨.commit, ph⟩) :
    p.commitInHand = true := by
  simp [Part.commitInHand, working, step]

/-- Settles O32: the COMMIT step ends, and the carrying transfer's start finds water that is not level. -/
theorem windowExpiryPassesTheCommitment : Obligations.WindowExpiryPassesTheCommitment := by
  unfold Obligations.WindowExpiryPassesTheCommitment
  intro s
  refine ⟨fun none => ?_, fun l k ph held runs working cls commit next free water => ?_⟩
  · have untimed : s.part.timedWindow = .none := by
      unfold Part.timedWindow
      cases held : s.part.lockage with
      | none => rfl
      | some l => simp [Option.filter, none l held]
    simp [exec, execWindowTimerExpiry, untimed]
  · have timed : s.part.timedWindow = some l := by
      simp [Part.timedWindow, held, Option.isSome_iff_ne_none, runs]
    have step : (s.part.holding { l with windowTimer := none }).curStep = some ⟨.commit, ph⟩ := commit
    obtain ⟨q, e, mode, lockage, sent, transfer⟩ := nextStep_lifts (p := s.part.holding { l with windowTimer := none })
      (l := { l with windowTimer := none }) rfl step next free water
    have run : exec .windowTimerExpiry s = .next { s with part := q.settle } := by
      simp only [exec, execWindowTimerExpiry, timed, onLockage_holding held]
      rw [commitInHand_of (p := s.part.holding { l with windowTimer := .none }) working step, if_pos rfl, advance_once (by rw [e]), e]
    refine ⟨_, run, ?_⟩
    obtain ⟨t, e, -⟩ := quiet_settled (y := q) (working_quiet (mode.trans working)) false false
    rw [e]
    refine ⟨mode.trans working, lockage.trans ?_, sent, _, transfer, rfl, rfl, rfl⟩
    simp [Lockage.takeStep, Lockage.firstStage, Lockage.commits, cls]

end Sys2Proof.Machine
end

section
/-! PROOFS. The outlet unit's operations in full: appends, tallies, the end of a lockage (R94, R148, R153 to R159). -/

namespace Sys2Proof.Machine

variable {p q r : Part} {l : Lockage}

/-- The part a command leaves, as it has been worked out. -/
theorem exec_eq {c : Instr} {s : State} {x y : Part} (run : exec c s = .next { s with part := x }) (e : x = y) :
    exec c s = .next { s with part := y } := e ▸ run

/-! ### An append (R148, R149) -/

/-- An outlet with a record appended, where it is enabled. -/
def Outlet.appended (r : Record) (o : Outlet) : Outlet :=
  if o.enabled then { o with queue := o.queue ++ [r], state := .offered } else o

/-- The record offered where it becomes the head. -/
def Outlet.offers (r : Record) (o : Outlet) : List Msg :=
  if o.enabled && o.queue.isEmpty then [.deliver r] else []

theorem pushRecord_eq (r : Record) (x : Port) : p.pushRecord r x = { p with
    outlets := { p.outlets with outlets := p.outlets.outlets.set x ((p.outlets.outlets.get x).appended r) }
    sent := p.sent.set x (p.sent.get x ++ (p.outlets.outlets.get x).offers r) } := by
  have same : ∀ {α : Type} (v : Three α), v.set x (v.get x) = v := fun v => by cases x <;> rfl
  unfold Part.pushRecord Outlet.appended Outlet.offers
  dsimp only
  cases enabled : (p.outlets.outlets.get x).enabled with
  | false => simp [same]
  | true =>
    cases empty : (p.outlets.outlets.get x).queue.isEmpty with
    | false => simp [same, Part.putOutlet]
    | true => rfl

/-- What a port has sent after an append. -/
def Part.offered (p : Part) (r : Record) : Three (List Msg) :=
  ⟨p.sent.a ++ p.outlets.outlets.a.offers r, p.sent.b ++ p.outlets.outlets.b.offers r,
   p.sent.c ++ p.outlets.outlets.c.offers r⟩

theorem appendRecord_eq (b : RecordBody) : p.appendRecord b = { p with
    outlets := { p.outlets with
      nextSequence := nextNumber p.outlets.nextSequence
      outlets := p.outlets.outlets.map (Outlet.appended ⟨p.outlets.nextSequence, b⟩) }
    sent := p.offered ⟨p.outlets.nextSequence, b⟩ } := by
  simp only [Part.appendRecord, List.foldl_cons, List.foldl_nil, pushRecord_eq]
  rfl

theorem appended_get (u : OutletUnit) (r : Record) (x : Port) :
    (u.outlets.map (Outlet.appended r)).get x = if (u.outlets.get x).enabled then
      { u.outlets.get x with queue := (u.outlets.get x).queue ++ [r], state := .offered } else u.outlets.get x := by
  rw [Three.get_map, Outlet.appended]

/-! ### The tally (R156) -/

theorem allRoom_iff (u : OutletUnit) : u.allRoom = true ↔ u.Room := by
  have one : ∀ o : Outlet, o.hasRoom = true ↔ (o.enabled = true → o.queue.length < o.depth) := fun o => by
    unfold Outlet.hasRoom
    cases o.enabled <;> simp
  unfold OutletUnit.allRoom OutletUnit.Room Three.all
  simp only [Bool.and_eq_true, one]
  exact ⟨fun ⟨⟨a, b⟩, c⟩ x => by cases x <;> assumption, fun h => ⟨⟨h .a, h .b⟩, h .c⟩⟩

/-- The TALLY record appended, as the unit and the ports stand after it. -/
def Part.tallied (p : Part) (forced periodic : Bool) : Part :=
  let r : Record := ⟨p.outlets.nextSequence, .tally (p.outlets.tallyRecord forced periodic)⟩
  { p with
    outlets := { p.outlets with
      outlets := p.outlets.outlets.map (Outlet.appended r), counters := Counters.zero, saturated := false
      nextSequence := nextNumber p.outlets.nextSequence, nextTally := nextNumber p.outlets.nextTally
      tally := .outstanding p.outlets.nextSequence }
    sent := p.offered r }

section
variable {forced periodic : Bool} (pending : p.outlets.tally = .pending forced periodic)
include pending

theorem tryTally_room (room : p.outlets.Room) : p.tryTally = p.tallied forced periodic := by
  unfold Part.tryTally
  rw [pending]
  dsimp only
  rw [if_pos ((allRoom_iff _).mpr room), appendRecord_eq]
  rfl

theorem tryTally_full (full : ¬ p.outlets.Room) : p.tryTally = p := by
  unfold Part.tryTally
  rw [pending]
  exact if_neg fun h => full ((allRoom_iff _).mp h)

end

theorem tryTally_none (h : ∀ forced periodic, p.outlets.tally ≠ .pending forced periodic) : p.tryTally = p := by
  unfold Part.tryTally
  split
  · exact absurd ‹_› (h _ _)
  · rfl

theorem tallied_appended (p : Part) (forced periodic : Bool) :
    TallyAppended p.outlets (p.tallied forced periodic).outlets forced periodic :=
  ⟨rfl, fun x => appended_get _ _ x⟩

/-- An append of a tally leaves all but outlets and messages; each port's messages grow. -/
theorem tryTally_form (p : Part) : ∃ u s, p.tryTally = { p with outlets := u, sent := s } := by
  obtain ⟨u, s, e⟩ := (tryTally_recorded p).form
  exact ⟨u, s, e⟩

/-! ### FORCE_TALLY and TALLY_APPEND (R156, R158) -/

/-- The part before the effect of a request whose reply comes first (R178). -/
def Part.hushed (p : Part) : Part := { p with sent := p.sent.set .a [] }

/-- The part after an effect, with the reply put before what the effect sent on port A (R178). -/
def Part.replied (p : Part) (tag : Tag) (d : ReplyData) (y : Part) : Part :=
  { y with sent := y.sent.set .a (p.sent.a ++ .accepted tag (some p.link.conditions.any) d :: y.sent.a) }

theorem acceptFirst_eq (tag : Tag) (effect : Part → Part) (d : Part → ReplyData) {y : Part} (h : effect p.hushed = y) :
    p.acceptFirst tag effect d = p.replied tag (d y) y := by
  subst h
  simp [Part.acceptFirst, Part.mark, Part.hushed, Part.replied]

theorem replied_sent_a (tag : Tag) (d : ReplyData) (y : Part) :
    (p.replied tag d y).sent.a = p.sent.a ++ .accepted tag (some p.link.conditions.any) d :: y.sent.a := rfl

theorem replied_grows (tag : Tag) (d : ReplyData) (y : Part) :
    p.sent.a ++ [.accepted tag (some p.link.conditions.any) d] <+: (p.replied tag d y).sent.a := by
  rw [replied_sent_a]
  exact ⟨y.sent.a, by simp⟩

/-- While a tally is in the way nothing turns (R63); an arrival may still end the survey (R171). -/
theorem tally_settled {y : Part} (h : y.outlets.tally.inTheWay = true) (a b : Bool) :
    y.settle a b = y.surveyTest.recompute ∧ TurnIdle y.turn (y.settle a b).turn := by
  have same : y.surveyTest.outlets = y.outlets ∧ y.surveyTest.turn = y.turn := by
    have w := surveyTest_worked y
    exact ⟨w.outlets, w.turn⟩
  have off : y.surveyTest.recompute.turn.readiness = false := recompute_tally _ (by rw [same.1]; exact h)
  have e : y.settle a b = y.surveyTest.recompute := turnArrival_idle _ _ _ off
  rw [e]
  exact ⟨rfl, same.2 ▸ recompute_idle off⟩

theorem tally_settled_outlets {y : Part} (h : y.outlets.tally.inTheWay = true) (a b : Bool) :
    (y.settle a b).outlets = y.outlets := by
  rw [(tally_settled h a b).1, recompute_outlets, (surveyTest_worked y).outlets]

theorem forceReply_none (now : TallyState) : forceReply .none now =
    match now with
    | .waiting => .waiting
    | .pending _ _ => .pending
    | .outstanding _ => .outstanding
    | .none => .unchanged := rfl

theorem tallyWaits_iff (p : Part) :
    p.tallyWaits = true ↔ p.mode = .working ∨ (p.mode = .halted ∧ p.lockage ≠ none) := by
  simp [Part.tallyWaits, Option.isSome_iff_ne_none]

/-- The tally made pending by FORCE_TALLY. -/
def Part.tallyForced (p : Part) : Part := { p with outlets := { p.outlets with tally := .pending true false } }

/-- Settles O48: the tally's state decides, and a pending one is appended where every enabled outlet has room. -/
theorem talliesWaitAndAreAppended : Obligations.TalliesWaitAndAreAppended := by
  unfold Obligations.TalliesWaitAndAreAppended
  intro tag s reply waits
  have force : ∀ y, s.part.hushed.forceTally = y → exec (.forceTally tag) s = .next { s with part :=
      (s.part.replied tag (.tally (forceReply s.part.outlets.tally y.outlets.tally)) y) } := fun y e =>
    exec_eq rfl (acceptFirst_eq tag Part.forceTally
      (fun q => .tally (forceReply s.part.outlets.tally q.outlets.tally)) e)
  refine ⟨fun stands => ?_, fun none waiting => ?_, fun none now => ?_, fun forced periodic pending => ?_⟩
  · have same : s.part.hushed.forceTally = s.part.hushed := by
      unfold Part.forceTally
      split
      · exact absurd ‹_› stands
      · rfl
    have unchanged : forceReply s.part.outlets.tally s.part.hushed.outlets.tally = .unchanged := by
      unfold forceReply
      split
      · exact absurd ‹_› stands
      · rfl
    have taken := force _ same
    rw [unchanged] at taken
    exact taken
  · have quiet : quietMode s.part.mode := by
      rcases waiting with m | ⟨m, -⟩ <;> simp [quietMode, m]
    obtain ⟨t, e, idle⟩ := quiet_settled
      (y := { s.part.hushed with outlets := { s.part.outlets with tally := .waiting } }) quiet false false
    have waits : s.part.hushed.forceTally = { s.part.hushed with
        outlets := { s.part.outlets with tally := .waiting }, turn := t } := by
      have w : s.part.hushed.tallyWaits = true := (tallyWaits_iff _).mpr waiting
      have n : s.part.hushed.outlets.tally = .none := none
      unfold Part.forceTally
      rw [n]
      dsimp only
      rw [if_pos w]
      exact e
    have taken := force _ waits
    rw [none] at taken
    exact ⟨_, taken, rfl, idle⟩
  · have pending : s.part.hushed.tallyForced.outlets.tally = .pending true false := rfl
    have forced : s.part.hushed.forceTally = (s.part.hushed.tallyForced.tryTally).settle := by
      have w : ¬ s.part.hushed.tallyWaits = true := fun h => now ((tallyWaits_iff _).mp h)
      have n : s.part.hushed.outlets.tally = .none := none
      unfold Part.forceTally
      rw [n]
      exact if_neg w
    have settled : ∀ y : Part, s.part.hushed.tallyForced.tryTally = y → y.outlets.tally.inTheWay = true →
        y.turn = s.part.turn → TurnIdle s.part.turn (y.settle).turn ∧ (y.settle).outlets = y.outlets
          ∧ exec (.forceTally tag) s = .next { s with part :=
            (s.part.replied tag (.tally (forceReply .none y.outlets.tally)) y.settle) } := fun y e busy turn => by
      have outlets := tally_settled_outlets busy false false
      have taken := force _ (forced.trans (congrArg (fun y : Part => y.settle) e))
      rw [none, outlets] at taken
      exact ⟨turn ▸ (tally_settled busy false false).2, outlets, taken⟩
    by_cases room : s.part.outlets.Room
    · obtain ⟨idle, outlets, run⟩ := settled _ (tryTally_room pending room) rfl rfl
      refine ⟨_, run, idle, fun full => absurd room full, fun _ => ⟨?_, replied_grows tag _ _⟩⟩
      exact outlets.symm ▸ tallied_appended s.part.hushed.tallyForced true false
    · obtain ⟨idle, outlets, run⟩ := settled _ (tryTally_full pending room) rfl rfl
      exact ⟨_, run, idle, fun _ => ⟨outlets, replied_grows tag _ _⟩, fun h => absurd h room⟩
  · have run : exec .tallyAppend s = .next { s with part := s.part.tryTally.turnArrival false false } := rfl
    have settled : ∀ y : Part, s.part.tryTally = y → y.outlets.tally.inTheWay = true → y.turn = s.part.turn →
        exec .tallyAppend s = .next { s with part := y.recompute } ∧ TurnIdle s.part.turn y.recompute.turn :=
      fun y e busy turn => by
        have off := recompute_tally y busy
        rw [run, e, turnArrival_idle y _ _ off]
        exact ⟨rfl, turn ▸ recompute_idle off⟩
    by_cases room : s.part.outlets.Room
    · obtain ⟨run, idle⟩ := settled _ (tryTally_room pending room) rfl rfl
      exact ⟨_, run, rfl, idle, fun full => absurd room full, fun _ => tallied_appended _ _ _⟩
    · obtain ⟨run, idle⟩ := settled _ (tryTally_full pending room) (by rw [pending]; rfl) rfl
      exact ⟨_, run, rfl, idle, fun _ => rfl, fun h => absurd h room⟩

end Sys2Proof.Machine
end

section
/-! PROOFS. TAKEN and PEEK (R149 to R151, R156, R157). -/

namespace Sys2Proof.Machine

variable {p q r : Part}

/-- The outlet of a port once its head has left it and the next has been offered. -/
def Outlet.advanced (o : Outlet) : Outlet :=
  { o with queue := o.queue.tail, state := if o.queue.tail = [] then .idle else .offered }

/-- The part once the head of a port's outlet has been taken: the reply, and the next record offered. -/
def Part.headTaken (p : Part) (x : Port) (tag : Tag) (n : Nat) : Part :=
  let next := (p.outlets.outlets.get x).queue.tail.head?
  { p with
    outlets := { p.outlets with outlets := p.outlets.outlets.set x (p.outlets.outlets.get x).advanced }
    sent := p.sent.set x (p.sent.get x
      ++ .accepted tag (p.mark x) (.taken n (next.map (·.sequence))) :: (next.map Msg.deliver).toList) }

theorem Three.set_set {α : Type} (v : Three α) (x : Port) (a b : α) : (v.set x a).set x b = v.set x b := by
  cases x <;> rfl

/-- The next record is offered, or the outlet is IDLE (R149). -/
theorem offerHead_eq (x : Port) : p.offerHead x = { p with
    outlets := { p.outlets with outlets := p.outlets.outlets.set x { p.outlets.outlets.get x with
      state := if (p.outlets.outlets.get x).queue = [] then .idle else .offered } }
    sent := p.sent.set x (p.sent.get x ++ ((p.outlets.outlets.get x).queue.head?.map Msg.deliver).toList) } := by
  have same : ∀ v : Three (List Msg), v.set x (v.get x) = v := fun v => by cases x <;> rfl
  unfold Part.offerHead
  generalize p.outlets.outlets.get x = o
  obtain ⟨enabled, depth, queue, state⟩ := o
  cases queue with
  | nil => simp [Part.putOutlet, same]
  | cons r rest => rfl

theorem headTaken_eq (x : Port) (tag : Tag) (n : Nat) :
    ((p.removeHead x).accept x tag (.taken n (((p.removeHead x).outlets.outlets.get x).queue.head?.map
      (·.sequence)))).offerHead x = p.headTaken x tag n := by
  rw [offerHead_eq]
  simp [Part.removeHead, Part.putOutlet, Part.accept, Part.send, Part.headTaken, Outlet.advanced, Part.mark, Three.set_set]

theorem takeTaken_head {x : Port} {tag : Tag} {n : Nat} {r : Record} {rest : List Record}
    (head : (p.outlets.outlets.get x).queue = r :: rest) (named : r.sequence = n) :
    p.takeTaken x tag n = (p.headTaken x tag n).settleTally.tryTally.settle := by
  unfold Part.takeTaken Part.takeHead
  rw [head]
  dsimp only
  rw [if_pos named, headTaken_eq]

theorem takeTaken_other {x : Port} {tag : Tag} {n : Nat}
    (other : ∀ r, (p.outlets.outlets.get x).queue.head? = some r → r.sequence ≠ n) :
    p.takeTaken x tag n = p.refuse x tag .notHead := by
  unfold Part.takeTaken
  split
  · next r rest head => exact if_neg (other r (by rw [head]; rfl))
  · rfl

/-- A sequence stands on an enabled outlet. -/
theorem standing_iff (u : OutletUnit) (n : Nat) :
    u.standing n = true ↔ ∃ y, (u.outlets.get y).enabled = true ∧ ∃ z ∈ (u.outlets.get y).queue, z.sequence = n := by
  have one : ∀ o : Outlet, (!o.enabled || o.queue.all fun r => decide (r.sequence ≠ n)) = false
      ↔ o.enabled = true ∧ ∃ z ∈ o.queue, z.sequence = n := fun o => by
    cases o.enabled <;> simp
  unfold OutletUnit.standing Three.all
  rw [Bool.not_eq_true', Bool.and_eq_false_iff, Bool.and_eq_false_iff, one, one, one]
  constructor
  · rintro ((h | h) | h)
    · exact ⟨.a, h⟩
    · exact ⟨.b, h⟩
    · exact ⟨.c, h⟩
  · rintro ⟨y, h⟩
    cases y
    · exact .inl (.inl h)
    · exact .inl (.inr h)
    · exact .inr h

theorem settleTally_other (h : ∀ n, p.outlets.tally ≠ .outstanding n) : p.settleTally = p := by
  unfold Part.settleTally
  split
  · exact absurd ‹_› (h _)
  · rfl

/-- An outstanding tally settled. -/
def Part.tallyTaken (p : Part) : Part := { p with outlets := { p.outlets with tally := .none } }

theorem settleTally_outstanding {n : Nat} (h : p.outlets.tally = .outstanding n) :
    p.settleTally.tryTally = if p.outlets.standing n then p else p.tallyTaken := by
  have settled : p.settleTally = if p.outlets.standing n then p else p.tallyTaken := by
    unfold Part.settleTally
    rw [h]
    rfl
  rw [settled]
  split
  · exact tryTally_none fun _ _ => by rw [h]; nofun
  · exact tryTally_none fun _ _ => nofun

theorem settleTally_plain (h : p.outlets.tally = .none ∨ p.outlets.tally = .waiting) : p.settleTally.tryTally = p := by
  rw [settleTally_other fun n => by rcases h with h | h <;> rw [h] <;> nofun]
  exact tryTally_none fun _ _ => by rcases h with h | h <;> rw [h] <;> nofun

theorem settleTally_pending {forced periodic : Bool} (h : p.outlets.tally = .pending forced periodic) :
    (p.outlets.Room → p.settleTally.tryTally = p.tallied forced periodic)
      ∧ (¬ p.outlets.Room → p.settleTally.tryTally = p) := by
  rw [settleTally_other fun n => by rw [h]; nofun]
  exact ⟨tryTally_room h, tryTally_full h⟩

/-- The part with its outlets and messages as they now stand. -/
def Part.recording (p : Part) (u : OutletUnit) (w : Three (List Msg)) : Part := { p with outlets := u, sent := w }

/-- Settles O49: the head leaves, the next is offered, and the tally is settled on what the slot leaves. -/
theorem takenFreesTheHead : Obligations.TakenFreesTheHead := by
  unfold Obligations.TakenFreesTheHead
  intro x tag n s o mark
  refine ⟨fun other => exec_eq rfl (takeTaken_other other), fun r rest head named quiet => ?_, fun notA => ?_⟩
  · intro next freed told stands
    have run := exec_eq (c := .taken x tag n) (s := s) rfl (takeTaken_head (tag := tag) head named)
    have tail : (s.part.outlets.outlets.get x).queue.tail = rest := by rw [head]; rfl
    have outlets : (s.part.headTaken x tag n).outlets = freed := by
      simp only [Part.headTaken, Outlet.advanced, tail, freed, next, o]
    have sent : (s.part.headTaken x tag n).sent = s.part.sent.set x told := by
      simp only [Part.headTaken, tail, told]
      rfl
    have form : s.part.headTaken x tag n
        = s.part.recording freed (s.part.sent.set x told) := by
      rw [← outlets, ← sent]; rfl
    have settled : ∀ (u : OutletUnit) (w : Three (List Msg)),
        (s.part.headTaken x tag n).settleTally.tryTally = s.part.recording u w →
        ∃ t, exec (.taken x tag n) s = .next { s with part := { s.part.recording u w with turn := t } }
          ∧ TurnIdle s.part.turn t := fun u w e => by
      obtain ⟨t, settle, idle⟩ := quiet_settled (y := s.part.recording u w) quiet false false
      exact ⟨t, exec_eq run ((congrArg (fun y : Part => y.settle) e).trans settle), idle⟩
    have tally : freed.tally = s.part.outlets.tally := rfl
    have stood : ∀ m, freed.standing m = true ↔ stands m := standing_iff freed
    rw [form] at settled
    cases now : s.part.outlets.tally with
    | none =>
      obtain ⟨t, run, idle⟩ := settled _ _ (settleTally_plain (.inl (tally.trans now)))
      exact ⟨_, run, rfl, idle, fun _ => ⟨rfl, rfl⟩, nofun, nofun⟩
    | waiting =>
      obtain ⟨t, run, idle⟩ := settled _ _ (settleTally_plain (.inr (tally.trans now)))
      exact ⟨_, run, rfl, idle, fun _ => ⟨rfl, rfl⟩, nofun, nofun⟩
    | outstanding m =>
      have held := settleTally_outstanding (p := s.part.recording freed (s.part.sent.set x told)) (tally.trans now)
      by_cases still : stands m
      · obtain ⟨t, run, idle⟩ := settled _ _ (held.trans (if_pos ((stood m).mpr still)))
        refine ⟨_, run, rfl, idle, nofun, ?_, nofun⟩
        rintro _ ⟨⟩
        exact ⟨rfl, fun _ => rfl, fun gone => absurd still gone⟩
      · obtain ⟨t, run, idle⟩ := settled _ _ (held.trans (if_neg fun h => still ((stood m).mp h)))
        refine ⟨_, run, rfl, idle, nofun, ?_, nofun⟩
        rintro _ ⟨⟩
        exact ⟨rfl, fun h => absurd h still, fun _ => rfl⟩
    | pending forced periodic =>
      obtain ⟨appends, waits⟩ := settleTally_pending (p := s.part.recording freed (s.part.sent.set x told)) (tally.trans now)
      by_cases room : freed.Room
      · obtain ⟨t, run, idle⟩ := settled _ _ (appends room)
        refine ⟨_, run, rfl, idle, nofun, nofun, ?_⟩
        rintro _ _ ⟨⟩
        refine ⟨fun full => absurd room full, fun _ => ⟨tallied_appended _ _ _, ?_⟩⟩
        have grows := (tryTally_recorded (s.part.recording freed (s.part.sent.set x told))).sent x
        rw [tryTally_room (p := s.part.recording freed (s.part.sent.set x told)) (tally.trans now) room] at grows
        have told' : (s.part.recording freed (s.part.sent.set x told)).sent.get x = told := Three.get_set_self _ _ _
        rw [told'] at grows
        exact grows
      · obtain ⟨t, run, idle⟩ := settled _ _ (waits room)
        refine ⟨_, run, rfl, idle, nofun, nofun, ?_⟩
        rintro _ _ ⟨⟩
        exact ⟨fun _ => ⟨rfl, rfl⟩, fun h => absurd h room⟩
  · have peek : s.part.takePeek x tag = s.part.send x (.accepted tag none (.peek o.queue.length o.queue.head?)) := by
      simp [Part.takePeek, Part.accept, Part.mark, Part.peekData, notA, o]
    exact exec_eq rfl peek

end Sys2Proof.Machine
end

section
/-! PROOFS. The end of a lockage in full, and the withdrawals (R94, R105, R106, R183). -/

namespace Sys2Proof.Machine

variable {p q r : Part} {l : Lockage} {o : LockageOutcome}

/-! ### PROCEED and the mark of a passed entry (R40, R100) -/

theorem proceed_requested {f : Face} (p : Part) (h : p.shownAspect f = .proceed) :
    p.mode ≠ .halted ∧ (faceOf p.faces f).requested = .proceed := by
  unfold Part.shownAspect at h
  dsimp only at h
  split at h
  · cases h
  · split at h
    · cases h
    · split at h
      · cases h
      · split at h
        · exact ⟨‹_›, ‹_›⟩
        · split at h <;> cases h
        · cases h

/-- Where no face shows PROCEED, the record stands. -/
theorem refreshFaces_lockage (h : ∀ f, p.shownAspect f ≠ .proceed) : p.refreshFaces.lockage = p.lockage := by
  have dark : p.deriveFaces.followLamps.entryShown = false := by
    rw [Bool.eq_false_iff]
    intro shown
    obtain ⟨g, d, step⟩ := entryShown_step _ shown
    unfold Part.entryShown at shown
    rw [step] at shown
    have aspect : (faceOf p.deriveFaces.followLamps.faces (faceServing g d)).shown = p.shownAspect (faceServing g d) := by
      simp [Part.deriveFaces, Part.followLamps]
    exact h _ (aspect.symm.trans (of_decide_eq_true shown))
  unfold Part.refreshFaces Part.markEntry
  rw [dark]
  rfl

theorem requestAllStop_lockage (p : Part) : p.requestAllStop.lockage = p.lockage := by
  refine refreshFaces_lockage fun f shown => ?_
  have asked := (proceed_requested _ shown).2
  rw [faceOf_faceMap] at asked
  cases asked

theorem requestAllStop_requested (p : Part) (f : Face) : (faceOf p.requestAllStop.faces f).requested = .stop := by
  rw [Part.requestAllStop, refreshFaces_face, faceOf_faceMap]

theorem enterMode_requested (p : Part) (m : Mode) (f : Face) :
    (faceOf (p.enterMode m).faces f).requested = (faceOf p.faces f).requested := by
  have held : ∀ q k, (Part.closeHeld q k).faces = q.faces := fun q k => by
    rcases closeHeld_eq q k with e | e <;> rw [e]
    rfl
  rw [Part.enterMode, refreshFaces_face]
  simp only [Gate.all, List.foldl_cons, List.foldl_nil, held]

theorem queueOf_congr (up : q.upQueue = p.upQueue) (down : q.downQueue = p.downQueue) (d : Direction) :
    q.queueOf d = p.queueOf d := by
  cases d <;> assumption

theorem Framing.queueOf (h : Framing p q) (d : Direction) : q.queueOf d = p.queueOf d :=
  queueOf_congr h.upQueue h.downQueue d

/-! ### The end of a lockage (R94) -/

/-- The record of a lockage that ends. -/
def Lockage.ended (l : Lockage) (o : LockageOutcome) : Lockage :=
  { l with moveTimer := none, windowTimer := none, outcome := some o }

/-- The part once the lockage's timers stand and every face is requested STOP. -/
def Part.allStopped (p : Part) (l : Lockage) (o : LockageOutcome) : Part := (p.holding (l.ended o)).requestAllStop

theorem allStopped_framing (p : Part) (l : Lockage) (o : LockageOutcome) :
    Framing (p.holding (l.ended o)) (p.allStopped l o) := requestAllStop_framing _

/-- The part once the convoy has been disposed of and the ending counted. -/
def Part.closedOut (p : Part) (l : Lockage) (o : LockageOutcome) : Part :=
  ((p.allStopped l o).dispose l o).countEnding o
    (if o.returns l.entryPassed then none else some ((p.allStopped l o).tollRecord l o))

theorem endLockage_eq (held : p.lockage = some l) (o : LockageOutcome) : p.endLockage o
    = (Part.enterMode (Part.clearReported { p.closedOut l o with lockage := none }) .rest).event
        (.ending l.number o l.headDraws l.tideWait l.late
          (if o.returns l.entryPassed then none else some (p.allStopped l o).outlets.nextSequence)
          (l.convoy.map (·.ticket)) (o.returns l.entryPassed)) := by
  have stopped : (p.stopLockageTimers.onLockage fun x => { x with outcome := some o }) = p.holding (l.ended o) := by
    rw [stopLockageTimers_holding held, onLockage_holding (p := p.holding _) rfl]
    rfl
  unfold Part.endLockage
  rw [held]
  dsimp only
  rw [stopped]
  rfl

/-- Beside the queue of a returned convoy, only outlets and messages change. -/
theorem closedOut_form (p : Part) (l : Lockage) (o : LockageOutcome) : ∃ u s, p.closedOut l o =
    (if o.returns l.entryPassed then (p.allStopped l o).returnConvoy l.direction l.convoy
      else p.allStopped l o).recording u s := by
  unfold Part.closedOut Part.dispose
  split
  · exact (countEnding_recorded _ _ _).form
  · exact ((appendRecord_recorded _ _).trans (countEnding_recorded _ _ _)).form

/-- What the end of a lockage leaves. -/
structure LockageEnded (p : Part) (l : Lockage) (o : LockageOutcome) (q : Part) : Prop where
  mode : q.mode = .rest
  lockage : q.lockage = none
  faults : q.faults = { p.faults with reported := [] }
  link : q.link = p.link
  turn : q.turn = p.turn
  navInhibit : q.navInhibit = p.navInhibit
  gates : q.gates = p.gates
  requested : ∀ f, (faceOf q.faces f).requested = .stop
  queues : ∀ d, q.queueOf d = if o.returns l.entryPassed ∧ d = l.direction then mergeConvoy l.convoy (p.queueOf d)
    else p.queueOf d
  outlets : q.outlets = (p.closedOut l o).outlets
  sent : ∃ m, p.sent.a <+: m ∧ q.sent.a = m ++ [.event (.ending l.number o l.headDraws l.tideWait l.late
    (if o.returns l.entryPassed then none else some p.outlets.nextSequence) (l.convoy.map (·.ticket))
    (o.returns l.entryPassed))]

theorem endLockage_ended (held : p.lockage = some l) (o : LockageOutcome) : LockageEnded p l o (p.endLockage o) := by
  have stopped := allStopped_framing p l o
  have requested : ∀ f, (faceOf (p.allStopped l o).faces f).requested = .stop := requestAllStop_requested _
  have gates : (p.allStopped l o).gates = p.gates := requestAllStop_gates _
  have sent : p.sent.a <+: (p.closedOut l o).sent.a := by
    have disposed := (dispose_moved (p.allStopped l o) l o).sent .a
    rw [stopped.sent] at disposed
    exact disposed.trans ((countEnding_recorded _ _ _).sent .a)
  have queues : ∀ d, (p.closedOut l o).queueOf d = if o.returns l.entryPassed ∧ d = l.direction then
      mergeConvoy l.convoy (p.queueOf d) else p.queueOf d := by
    obtain ⟨u, s, form⟩ := closedOut_form p l o
    intro d
    rw [form]
    split
    · next back =>
      have merged := queueOf_setQueue (p.allStopped l o) l.direction d
        (mergeConvoy l.convoy ((p.allStopped l o).queueOf l.direction))
      have same : Part.queueOf (((p.allStopped l o).returnConvoy l.direction l.convoy).recording u s) d
          = if d = l.direction then mergeConvoy l.convoy ((p.allStopped l o).queueOf l.direction)
            else (p.allStopped l o).queueOf d := merged
      rw [same, stopped.queueOf, stopped.queueOf]
      by_cases at_ : d = l.direction
      · rw [if_pos at_, if_pos ⟨back, at_⟩, at_]; rfl
      · rw [if_neg at_, if_neg fun h => at_ h.2]; rfl
    · next kept =>
      rw [if_neg fun h => kept h.1]
      exact stopped.queueOf d
  obtain ⟨u, s, form⟩ := closedOut_form p l o
  have framing := enterMode_framing (Part.clearReported { p.closedOut l o with lockage := none }) .rest
  have entered := enterMode_requested (Part.clearReported { p.closedOut l o with lockage := none }) .rest
  have shut := enterMode_gates (Part.clearReported { p.closedOut l o with lockage := none }) .rest
  rw [endLockage_eq held o]
  generalize Part.enterMode (Part.clearReported { p.closedOut l o with lockage := none }) .rest = z at *
  have base : (p.closedOut l o).faults = p.faults ∧ (p.closedOut l o).link = p.link ∧ (p.closedOut l o).turn = p.turn
      ∧ (p.closedOut l o).navInhibit = p.navInhibit ∧ (p.closedOut l o).gates = p.gates
      ∧ (p.closedOut l o).faces = (p.allStopped l o).faces := by
    rw [form]
    unfold Part.recording
    split
    · rw [returnConvoy_faults, returnConvoy_link, returnConvoy_turn, returnConvoy_navInhibit, returnConvoy_gates,
        returnConvoy_faces]
      exact ⟨stopped.faults, stopped.link, stopped.turn, stopped.navInhibit, gates, rfl⟩
    · exact ⟨stopped.faults, stopped.link, stopped.turn, stopped.navInhibit, gates, rfl⟩
  obtain ⟨faults, link, turn, inhibit, gates, faces⟩ := base
  exact {
    mode := framing.mode
    lockage := framing.lockage_none rfl
    faults := framing.faults.trans (congrArg (fun f : FaultHandler => { f with reported := [] }) faults)
    link := framing.link.trans link
    turn := framing.turn.trans turn
    navInhibit := framing.navInhibit.trans inhibit
    gates := shut.trans gates
    requested := fun f => (entered f).trans (faces ▸ requested f)
    queues := fun d => (framing.queueOf d).trans (queues d)
    outlets := framing.outlets
    sent := ⟨z.sent.a, by rw [framing.sent]; exact sent, by rw [event_sent_a, stopped.outlets]; rfl⟩ }

/-! ### Withdrawal (R105) -/

theorem stopOwnTransfer_framing (p : Part) (k : Sluice) : Framing p (p.stopOwnTransfer k) := by
  unfold Part.stopOwnTransfer
  split
  · exact stopTransfer_framing p k
  · exact putSluice_framing p k _

theorem stopStepTransfer_framing (p : Part) : Framing p p.stopStepTransfer := by
  unfold Part.stopStepTransfer
  split
  · split
    · exact stopOwnTransfer_framing p _
    · split
      · exact stopOwnTransfer_framing p _
      · exact .refl p
    · exact .refl p
  · exact .refl p

theorem closeEntry_framing (p : Part) (d : Direction) (c : Commander) : Framing p (p.closeEntry d c) := by
  unfold Part.closeEntry
  split
  · exact .refl p
  · exact closeGate_framing p _ c

/-- What a withdrawal leaves. -/
structure Withdrawn (p : Part) (l : Lockage) (q : Part) : Prop where
  mode : q.mode = .rest
  lockage : q.lockage = none
  faults : q.faults = { p.faults with reported := [] }
  link : q.link = p.link
  turn : q.turn = p.turn
  navInhibit : q.navInhibit = p.navInhibit
  queues : ∀ d, q.queueOf d = if d = l.direction then mergeConvoy l.convoy (p.queueOf d) else p.queueOf d
  sent : ∃ m, p.sent.a <+: m ∧ q.sent.a = m ++ [.event (.ending l.number .withdrawn l.headDraws l.tideWait l.late none
    (l.convoy.map (·.ticket)) true)]

theorem withdraw_withdrawn (held : p.lockage = some l) : Withdrawn p l p.withdraw := by
  have form : p.withdraw = ((p.holding { l with moveTimer := none, windowTimer := none }).stopStepTransfer.closeEntry
      l.direction .sequencer).endLockage .withdrawn := by
    unfold Part.withdraw
    rw [held, stopLockageTimers_holding held]
  have framing := (stopStepTransfer_framing (p.holding { l with moveTimer := none, windowTimer := none })).trans
    (closeEntry_framing _ l.direction .sequencer)
  obtain ⟨b, lockage⟩ := framing.lockage_some (l := { l with moveTimer := none, windowTimer := none }) rfl
  have ended := endLockage_ended lockage .withdrawn
  rw [form]
  generalize (p.holding { l with moveTimer := none, windowTimer := none }).stopStepTransfer.closeEntry l.direction
    .sequencer = y at *
  obtain ⟨m, before, sent⟩ := ended.sent
  exact {
    mode := ended.mode
    lockage := ended.lockage
    faults := ended.faults.trans (by rw [framing.faults]; rfl)
    link := ended.link.trans framing.link
    turn := ended.turn.trans framing.turn
    navInhibit := ended.navInhibit.trans framing.navInhibit
    queues := fun d => (ended.queues d).trans (by rw [framing.queueOf]; simp [LockageOutcome.returns]; rfl)
    sent := ⟨m, by rw [framing.sent] at before; exact before, sent⟩ }

/-! ### The watchdog's expiry (R106, R183) -/

/-- The link lost and noted. -/
def Part.linkLost (p : Part) : Part :=
  { p with link := { p.link with watchdog := none, lost := true, conditions := p.link.conditions.noteLinkLost } }

theorem entryAwaiting_of {g : Gate} {d : Direction} (held : p.lockage = some l) (working : p.mode = .working)
    (step : p.curStep = some ⟨.move g d, .entry⟩) (stage : l.stage = .awaiting) : p.entryAwaiting = some (g, d) := by
  simp [Part.entryAwaiting, held, working, step, stage]

theorem entryAwaiting_some {x : Gate × Direction} (h : p.entryAwaiting = some x) :
    ∃ l, p.lockage = some l ∧ l.stage = .awaiting := by
  unfold Part.entryAwaiting at h
  split at h
  · next l _ _ held _ =>
    split at h
    · next both => exact ⟨l, held, both.2⟩
    · cases h
  · cases h

theorem withdrawAwaiting_link (p : Part) : p.withdrawAwaiting.link = p.link := by
  unfold Part.withdrawAwaiting
  split
  · next awaits =>
    obtain ⟨l, held, -⟩ := entryAwaiting_some awaits
    exact (withdraw_withdrawn held).link
  · rfl

/-- The survey's end, where the test finds all done (R171). -/
theorem surveyTest_ends (p : Part) (survey : p.mode = .survey) (done : p.surveyDone = true) :
    ∃ z, p.surveyTest = z.event (.mode .rest none) ∧ Framing { p.clearReported with mode := .rest } z ∧ z.gates = p.gates
      ∧ ∀ f, (faceOf z.faces f).requested = (faceOf p.faces f).requested :=
  ⟨_, if_pos ⟨survey, done⟩, enterMode_framing _ _, enterMode_gates _ _, enterMode_requested _ _⟩

theorem surveyTest_stands (p : Part) (h : ¬ (p.mode = .survey ∧ p.surveyDone = true)) : p.surveyTest = p := if_neg h

/-- What the survey's test leaves of link and lockage. -/
theorem surveyTest_kept (p : Part) : p.surveyTest.link = p.link
    ∧ p.surveyTest.lockage.map Lockage.unmarked = p.lockage.map Lockage.unmarked := by
  by_cases h : p.mode = .survey ∧ p.surveyDone = true
  · obtain ⟨z, e, framing, -⟩ := surveyTest_ends p h.1 h.2
    rw [e]
    exact ⟨framing.link, framing.lockage⟩
  · rw [surveyTest_stands p h]
    exact ⟨rfl, rfl⟩

/-- While the link is lost an event ends with the survey's test alone. -/
theorem lost_settled {y : Part} (lost : y.link.lost = true) (a b : Bool) :
    y.settle a b = y.surveyTest.recompute ∧ (y.settle a b).turn.readiness = false := by
  have off := recompute_lost y.surveyTest (by rw [(surveyTest_kept y).1]; exact lost)
  have e : y.settle a b = y.surveyTest.recompute := turnArrival_idle _ _ _ off
  exact ⟨e, by rw [e]; exact off⟩

/-- Settles O33: the loss is written first, and only a waiting entry move is withdrawn for it. -/
theorem watchdogExpiryLosesTheLink : Obligations.WatchdogExpiryLosesTheLink := by
  unfold Obligations.WatchdogExpiryLosesTheLink
  intro s
  refine ⟨fun none => by simp [exec, execWatchdogExpiry, none], fun runs => ?_⟩
  have framing := refreshFaces_framing s.part.linkLost
  have run : exec .watchdogExpiry s = .next { s with part := s.part.linkLost.refreshFaces.withdrawAwaiting.settle } := by
    simp only [exec, execWatchdogExpiry, Option.isNone_iff_eq_none, if_neg runs]
    rfl
  generalize s.part.linkLost.refreshFaces = y at *
  have kept := withdrawAwaiting_link y
  obtain ⟨e, off⟩ := lost_settled (y := y.withdrawAwaiting) (by rw [kept, framing.link]; rfl) false false
  refine ⟨_, run, ?_, off, fun l g d held working stage step => ?_, fun other => ?_⟩
  · rw [e, recompute_link, (surveyTest_kept _).1, kept, framing.link]; rfl
  · obtain ⟨b, held'⟩ := framing.lockage_some (l := l) held
    have awaits := entryAwaiting_of held' (framing.mode.trans working) (framing.curStep.trans step) stage
    have withdrawn := withdraw_withdrawn held'
    have taken : y.withdrawAwaiting = y.withdraw := by rw [Part.withdrawAwaiting, awaits]
    rw [e, taken, surveyTest_other _ (by rw [withdrawn.mode]; decide)]
    obtain ⟨m, -, sent⟩ := withdrawn.sent
    refine ⟨withdrawn.mode, withdrawn.lockage, ?_, ?_⟩
    · have queue := withdrawn.queues l.direction
      rw [if_pos rfl, framing.queueOf] at queue
      exact queue
    · rw [recompute_sent, sent]
      exact List.mem_append_right m (.head _)
  · have still : y.withdrawAwaiting = y := by
      unfold Part.withdrawAwaiting
      split
      · next awaits =>
        obtain ⟨l, held, stage⟩ := entryAwaiting_some awaits
        have stages := framing.lockage_read (fun l => l.stage) fun _ _ => rfl
        rw [held] at stages
        cases before : s.part.linkLost.lockage with
        | none => rw [before] at stages; cases stages
        | some m =>
          rw [before] at stages
          exact absurd ((Option.some.inj stages).symm.trans stage) (other m before)
      · rfl
    have all : ∀ x : Option Lockage,
        x.map (fun l => (l.number, l.convoy, l.plan, l.current, l.stage, l.entry, l.exit))
          = (x.map Lockage.unmarked).map fun l => (l.number, l.convoy, l.plan, l.current, l.stage, l.entry, l.exit) :=
      fun x => by
        rw [Option.map_map]
        exact congrArg (Option.map · x) (funext fun l => (unmarked_read
          (fun l => (l.number, l.convoy, l.plan, l.current, l.stage, l.entry, l.exit)) (fun _ _ => rfl) l).symm)
    rw [e, still, recompute_lockage, all, (surveyTest_kept y).2, framing.lockage, ← all]
    rfl

end Sys2Proof.Machine
end

section
/-! PROOFS. HALT and ABANDON (R116, R119, R122, R125, R126). -/

namespace Sys2Proof.Machine

variable {p q r : Part} {l : Lockage}

/-! ### HALT (R122) -/

/-- The reply of a request stands before the events of the halt it brings. -/
theorem HaltedFrom.replied {y : Part} {k : FaultKind} {x : Subject} (tag : Tag) (d : ReplyData)
    (h : HaltedFrom p.hushed y k x) :
    HaltedFrom (p.send .a (.accepted tag (some p.link.conditions.any) d)) (p.replied tag d y) k x := by
  obtain ⟨halted, halt, sent, rest⟩ := h
  refine ⟨halted, halt, ?_, rest⟩
  rw [replied_sent_a, sent]
  exact (List.append_cons _ _ _)

/-- Settles O41: the report by the mode, behind the reply. -/
theorem haltRequestActsByTheMode : Obligations.HaltRequestActsByTheMode := by
  unfold Obligations.HaltRequestActsByTheMode
  intro tag s reply
  have taken : s.part.mode ≠ .halted → ∀ y, (s.part.hushed.report .operatorHalt .flight).settle = y →
      exec (.halt tag) s = .next { s with part := (s.part.replied tag (.halt y.mode (modeRuns s.part.mode)) y) } :=
    fun notHalted y e => exec_eq rfl ((if_neg notHalted).trans (acceptFirst_eq tag
      (fun q => (q.report .operatorHalt .flight).settle) (fun q => .halt q.mode (modeRuns s.part.mode)) e))
  refine ⟨fun halted => ?_, fun runs drives => ?_, fun rests => ?_⟩
  · have same : s.part.takeHalt tag = s.part.send .a (reply .halted false) := if_pos halted
    exact exec_eq rfl same
  · have notHalted : s.part.mode ≠ .halted := by rcases runs with m | m <;> rw [m] <;> decide
    have full := (haltFlight_halted s.part.hushed .operatorHalt .flight drives).settle _ false false
    have runs' : modeRuns s.part.mode = true := by rcases runs with m | m <;> rw [m] <;> rfl
    have run := taken notHalted _ (congrArg (fun y : Part => y.settle)
      (report_halts s.part.hushed .operatorHalt .flight runs (responseOf_fixed _ .operatorHalt (by decide))))
    rw [full.1, runs'] at run
    exact ⟨_, run, full.replied tag _⟩
  · have still : s.part.hushed.mode = .startup ∨ s.part.hushed.mode = .rest := rests.imp_right And.left
    have stands : s.part.hushed.StandsBy := rests.imp_right .inr
    have notHalted : s.part.mode ≠ .halted := by rcases still with m | m <;> (intro h; cases m.symm.trans h)
    have idle : modeRuns s.part.mode = false := by
      rcases still with m | m
      · exact (congrArg modeRuns m).trans rfl
      · exact (congrArg modeRuns m).trans rfl
    have framing := stopGates_framing s.part.hushed
    have told := framing.told .operatorHalt .flight
    have gates := (congrArg Part.gates (told_form (Gate.all.foldl Part.stopGate s.part.hushed) .operatorHalt .flight)).trans
      (stopGates_gates s.part.hushed)
    have after := stands.of (q := (Gate.all.foldl Part.stopGate s.part.hushed).told .operatorHalt .flight) told.1
      framing.navInhibit
    have reported := report_stops s.part.hushed .operatorHalt .flight (.inr rfl) still
    clear framing
    generalize (Gate.all.foldl Part.stopGate s.part.hushed).told .operatorHalt .flight = y at *
    have run := taken notHalted y.recompute ((congrArg (fun y : Part => y.settle) reported).trans (after.settle _ _))
    rw [recompute_mode, told.1, idle] at run
    have event := told.event notHalted
    refine ⟨_, run, told.1, ?_, fun g => ?_⟩
    · rw [replied_sent_a, recompute_sent, event]
      rfl
    · have same : (y.recompute).gates.get g = (s.part.gates.get g).stopped := by
        rw [recompute_gates, gates, Four.get_map]
        rfl
      exact same

end Sys2Proof.Machine
end

section
/-! PROOFS. The survey's beginning and end, START, and the end of a halt by ABANDON (R125, R126, R140, R169 to R171). -/

namespace Sys2Proof.Machine

variable {p q r : Part} {l : Lockage}

/-! ### The CLOSE command (R25) -/

/-- A gate given CLOSE. -/
def GateRec.closeCommanded (x : GateRec) (limit : Option Nat) (c : Commander) : GateRec :=
  match x.state with
  | .closed => x
  | .closing => { x with commander := c }
  | _ => { x with state := .closing, drive := .closeDrive, travelTimer := limit, openPending := false, commander := c }

theorem closeGate_gates (p : Part) (g : Gate) (c : Commander) :
    (p.closeGate g c).gates = p.gates.set g ((p.gates.get g).closeCommanded (p.travelLimit g) c) := by
  unfold Part.closeGate GateRec.closeCommanded
  cases state : (p.gates.get g).state <;> simp [state]

theorem closeCommanded_moves {x : GateRec} (notClosed : x.state ≠ .closed) (limit : Option Nat) (c : Commander) :
    (x.closeCommanded limit c).state = .closing ∧ (x.closeCommanded limit c).commander = c := by
  unfold GateRec.closeCommanded
  split
  · exact absurd ‹_› notClosed
  · exact ⟨‹_›, rfl⟩
  · exact ⟨rfl, rfl⟩

theorem closeGate_sluices (p : Part) (g : Gate) (c : Commander) : (p.closeGate g c).sluices = p.sluices := by
  unfold Part.closeGate
  dsimp only
  split
  · rfl
  · exact putGate_sluices _ _ _
  · exact putGate_sluices _ _ _

/-! ### The survey's work (R170) -/

/-- A gate the survey has looked at. -/
def GateRec.surveyed (x : GateRec) (limit : Option Nat) : GateRec :=
  match x.state with
  | .closed => x
  | .open_ => x
  | _ => x.closeCommanded limit .survey

theorem surveyGate_gates (p : Part) (g : Gate) :
    (p.surveyGate g).gates = p.gates.set g ((p.gates.get g).surveyed (p.travelLimit g)) := by
  unfold Part.surveyGate GateRec.surveyed
  cases state : (p.gates.get g).state <;> simp [closeGate_gates]

theorem surveyGate_framing (p : Part) (g : Gate) : Framing p (p.surveyGate g) := by
  unfold Part.surveyGate
  split
  · exact .refl p
  · exact .refl p
  · exact closeGate_framing p g _

theorem surveyGate_sluices (p : Part) (g : Gate) : (p.surveyGate g).sluices = p.sluices := by
  unfold Part.surveyGate
  split
  · rfl
  · rfl
  · exact closeGate_sluices p g _

/-- A sluice the survey has looked at. -/
def SluiceRec.surveyed (x : SluiceRec) (limit : Option Nat) : SluiceRec :=
  if 0 < x.position ∧ x.state ≠ .closing then x.toClose limit else x

theorem surveySluice_sluices (p : Part) (k : Sluice) :
    (p.surveySluice k).sluices = p.sluices.set k ((p.sluices.get k).surveyed (p.stepLimit k)) := by
  unfold Part.surveySluice SluiceRec.surveyed
  split
  · rw [closeSluice_eq, putSluice_sluices]
  · simp

theorem surveySluice_framing (p : Part) (k : Sluice) : Framing p (p.surveySluice k) := by
  unfold Part.surveySluice
  split
  · exact closeSluice_framing p k
  · exact .refl p

theorem surveySluice_gates (p : Part) (k : Sluice) : (p.surveySluice k).gates = p.gates := by
  unfold Part.surveySluice
  split
  · exact closeSluice_gates p k
  · rfl

theorem toClose_closing {x : SluiceRec} (above : 0 < x.position) (limit : Option Nat) : (x.toClose limit).state = .closing := by
  unfold SluiceRec.toClose
  rw [if_neg (by omega)]
  split <;> rfl

theorem surveyed_closing {x : SluiceRec} (above : 0 < x.position) (limit : Option Nat) :
    (x.surveyed limit).state = .closing := by
  unfold SluiceRec.surveyed
  split
  · exact toClose_closing above limit
  · next h => exact Decidable.not_not.mp fun other => h ⟨above, other⟩

/-- What the survey's work leaves: works and signals aside, the kinds reported are emptied. -/
theorem surveyWork_framing (p : Part) : Framing p.clearReported p.surveyWork :=
  (Framing.foldl _ surveyGate_framing _ _).trans (Framing.foldl _ surveySluice_framing _ _)

theorem surveyGates_facts (p : Part) :
    (∀ g, ∃ limit, (Gate.all.foldl Part.surveyGate p).gates.get g = (p.gates.get g).surveyed limit)
      ∧ (Gate.all.foldl Part.surveyGate p).sluices = p.sluices := by
  simp only [Gate.all, List.foldl_cons, List.foldl_nil, surveyGate_gates, surveyGate_sluices, and_true]
  intro g
  cases g <;> exact ⟨_, rfl⟩

theorem surveySluices_facts (p : Part) :
    (∀ k, ∃ limit, (Gate.all.foldl Part.surveySluice p).sluices.get k = (p.sluices.get k).surveyed limit)
      ∧ (Gate.all.foldl Part.surveySluice p).gates = p.gates := by
  simp only [Gate.all, List.foldl_cons, List.foldl_nil, surveySluice_sluices, surveySluice_gates, and_true]
  intro k
  cases k <;> exact ⟨_, rfl⟩

theorem surveyWork_gate (p : Part) (g : Gate) : ∃ limit, p.surveyWork.gates.get g = (p.gates.get g).surveyed limit := by
  unfold Part.surveyWork
  rw [(surveySluices_facts _).2]
  exact (surveyGates_facts p.clearReported).1 g

theorem surveyWork_sluice (p : Part) (k : Sluice) :
    ∃ limit, p.surveyWork.sluices.get k = (p.sluices.get k).surveyed limit := by
  unfold Part.surveyWork
  obtain ⟨limit, e⟩ := (surveySluices_facts (Gate.all.foldl Part.surveyGate p.clearReported)).1 k
  rw [(surveyGates_facts _).2] at e
  exact ⟨limit, e⟩

/-- What the works leave of a reach's class. -/
theorem Worked.cls (h : Worked p q) (x : Reach) : (q.reaches.get x).cls = (p.reaches.get x).cls := by
  have same : q.reaches.map ReachRec.reading = p.reaches.map ReachRec.reading := congrArg Part.reaches h.still
  have at_ := congrArg (fun v : Five ReachRec => (v.get x).cls) same
  simpa [ReachRec.reading] using at_

theorem Five.all_iff {α : Type} (v : Five α) (f : α → Bool) : v.all f = true ↔ ∀ x, f (v.get x) = true := by
  simp only [Five.all, Bool.and_eq_true]
  exact ⟨fun ⟨⟨⟨⟨a, b⟩, c⟩, d⟩, e⟩ x => by cases x <;> assumption,
    fun h => ⟨⟨⟨⟨h .head, h .c1⟩, h .c2⟩, h .c3⟩, h .tail⟩⟩

theorem Four.all_iff {α : Type} (v : Four α) (f : α → Bool) : v.all f = true ↔ ∀ g, f (v.get g) = true := by
  simp only [Four.all, Bool.and_eq_true]
  exact ⟨fun ⟨⟨⟨a, b⟩, c⟩, d⟩ g => by cases g <;> assumption, fun h => ⟨⟨⟨h .g0, h .g1⟩, h .g2⟩, h .g3⟩⟩

/-- The three end conditions of the survey (R171). -/
theorem surveyDone_iff (p : Part) : p.surveyDone = true ↔ (∀ r, (p.reaches.get r).cls.ordered = true)
    ∧ (∀ g, (p.gates.get g).state = .closed ∨ (p.gates.get g).state = .open_)
    ∧ ∀ k, (p.sluices.get k).state = .closed ∧ (p.sluices.get k).position = 0 := by
  simp [Part.surveyDone, Part.reachesOrdered, Five.all_iff, Four.all_iff, GateRec.atLimit, SluiceRec.shut, and_assoc]

/-- The survey is not done while a reach is in no ordered class. -/
theorem surveyDone_unordered (h : ∃ x, (p.reaches.get x).cls.ordered = false) : p.surveyDone = false := by
  obtain ⟨x, unordered⟩ := h
  rw [Bool.eq_false_iff, Ne, surveyDone_iff]
  intro done
  rw [done.1 x] at unordered
  cases unordered

/-- What a survey leaves that begins over an unordered reach, with E-STOP negated. -/
structure SurveyBegun (p q : Part) : Prop where
  mode : q.mode = .survey
  faults : q.faults = { p.faults with reported := [] }
  sent : q.sent = p.sent
  gates : ∀ g, (p.gates.get g).state ≠ .closed → (p.gates.get g).state ≠ .open_ →
    (q.gates.get g).state = .closing ∧ (q.gates.get g).commander = .survey
  sluices : ∀ k, 0 < (p.sluices.get k).position → (q.sluices.get k).state = .closing

theorem beginSurvey_begun (survey : p.mode = .survey) (negated : p.eStop = false)
    (unordered : ∃ x, (p.reaches.get x).cls.ordered = false) : SurveyBegun p (p.beginSurvey.settle) := by
  have framing := surveyWork_framing p
  have begun : p.beginSurvey = p.surveyWork := by
    unfold Part.beginSurvey Part.eStopStanding
    rw [framing.eStop]
    exact if_neg fun h => by
      have on : p.eStop = true := h.1
      rw [negated] at on
      cases on
  have gates := surveyWork_gate p
  have sluices := surveyWork_sluice p
  have unfinished : p.surveyWork.surveyDone = false := by
    obtain ⟨x, h⟩ := unordered
    exact surveyDone_unordered ⟨x, by rw [(surveyWork_worked p).cls]; exact h⟩
  rw [begun]
  generalize p.surveyWork = y at *
  have mode : y.mode = .survey := framing.mode.trans survey
  have settled : y.settle = y.recompute := by
    have still : y.surveyTest = y := surveyTest_stands y fun h => by rw [unfinished] at h; cases h.2
    unfold Part.settle
    rw [still]
    exact turnArrival_idle _ _ _ (recompute_notRest y (by rw [mode]; decide))
  rw [settled]
  exact {
    mode := mode
    faults := framing.faults
    sent := framing.sent
    gates := fun g notClosed notOpen => by
      obtain ⟨limit, e⟩ := gates g
      rw [recompute_gates, e]
      have moves := closeCommanded_moves notClosed limit .survey
      unfold GateRec.surveyed
      split
      · exact absurd ‹_› notClosed
      · exact absurd ‹_› notOpen
      · exact moves
    sluices := fun k above => by
      obtain ⟨limit, e⟩ := sluices k
      rw [recompute_sluices, e]
      exact surveyed_closing above limit }

/-! ### A change of mode -/

/-- What a change of mode leaves: the sluices' positions, the reaches' classes, the gates and what the faces ask. -/
structure Entered (p : Part) (m : Mode) (q : Part) : Prop where
  framing : Framing { p with mode := m } q
  gates : q.gates = p.gates
  positions : ∀ k, (q.sluices.get k).position = (p.sluices.get k).position
  classes : ∀ x, (q.reaches.get x).cls = (p.reaches.get x).cls
  requested : ∀ f, (faceOf q.faces f).requested = (faceOf p.faces f).requested

theorem Worked.position (h : Worked p q) (k : Sluice) : (q.sluices.get k).position = (p.sluices.get k).position := by
  have same : q.sluices.map SluiceRec.feedback = p.sluices.map SluiceRec.feedback := congrArg Part.sluices h.still
  have at_ := congrArg (fun v : Four SluiceRec => (v.get k).position) same
  simpa [SluiceRec.feedback] using at_

theorem enterMode_entered (p : Part) (m : Mode) : Entered p m (p.enterMode m) where
  framing := enterMode_framing p m
  gates := enterMode_gates p m
  positions := (enterMode_worked p m).position
  classes := (enterMode_worked p m).cls
  requested := enterMode_requested p m

/-- At REST and in WORKING a face requested STOP shows it. -/
theorem shownAspect_stop {f : Face} (mode : p.mode = .rest ∨ p.mode = .working)
    (stop : (faceOf p.faces f).requested = .stop) : p.shownAspect f = .stop := by
  rcases mode with m | m <;> simp [Part.shownAspect, m, stop]

theorem enterMode_shown (p : Part) {m : Mode} (mode : m = .rest ∨ m = .working) {f : Face}
    (stop : (faceOf p.faces f).requested = .stop) : (faceOf (p.enterMode m).faces f).shown = .stop := by
  have entered := enterMode_entered p m
  have asked := entered.requested f
  unfold Part.enterMode at asked ⊢
  have framing : Framing { p with mode := m } (Gate.all.foldl Part.closeHeld { p with mode := m }) :=
    Framing.foldl _ (fun q k => closeHeld_framing q k) _ _
  rw [refreshFaces_face] at asked ⊢
  exact shownAspect_stop (framing.mode ▸ mode) (asked.trans stop)

/-! ### START (R162, R169) -/

/-- What START names as missing, item by item. -/
theorem mem_missing (p : Part) :
    (Missing.flight ∈ p.missing ↔ p.settings.flight = none)
      ∧ (∀ r, Missing.reach r ∈ p.missing ↔ p.settings.reach.get r = none)
      ∧ (Missing.works ∈ p.missing ↔ p.settings.works = none)
      ∧ (Missing.tariff ∈ p.missing ↔ p.settings.tariff = none)
      ∧ (Missing.turns ∈ p.missing ↔ p.settings.turns = none)
      ∧ (Missing.outlets ∈ p.missing ↔ p.settings.outlets = none)
      ∧ (Missing.responses ∈ p.missing ↔ p.settings.responses = none)
      ∧ (Missing.clock ∈ p.missing ↔ p.clock = none) := by
  have all : ∀ r, r ∈ Reach.all := fun r => by cases r <;> decide
  simp only [Part.missing, List.mem_append, Option.isNone_iff_eq_none, List.mem_map, List.mem_filter, all]
  simp

theorem complete_iff (p : Part) : p.complete = true ↔ p.missing = [] := List.isEmpty_iff

/-- Settles O44: what is missing decides START, and R171's three conditions the survey's end. -/
theorem startBeginsAndReadingsEndTheSurvey : Obligations.StartBeginsAndReadingsEndTheSurvey := by
  unfold Obligations.StartBeginsAndReadingsEndTheSurvey
  intro tag s done
  refine ⟨fun other => exec_eq rfl (if_pos other), fun startup lacks => ?_, fun startup complete negated unordered => ?_,
    fun survey inhibit => ?_⟩
  · obtain ⟨flight, reach, works, tariff, turns, outlets, responses, clock⟩ := mem_missing s.part
    have incomplete : ¬ s.part.complete = true := by
      rw [complete_iff]
      intro none
      rw [none] at flight reach works tariff turns outlets responses clock
      simp only [List.not_mem_nil, false_iff] at flight reach works tariff turns outlets responses clock
      rcases lacks with h | ⟨r, h⟩ | h | h | h | h | h | h
      · exact flight h
      · exact reach r h
      · exact works h
      · exact tariff h
      · exact turns h
      · exact outlets h
      · exact responses h
      · exact clock h
    have refused : s.part.takeStart tag = s.part.refuse .a tag (.setupIncomplete s.part.missing) :=
      (if_neg (Classical.not_not.mpr startup)).trans (if_neg incomplete)
    exact ⟨_, exec_eq rfl refused, flight, reach, works, tariff, turns, outlets, responses, clock⟩
  · have taken : s.part.takeStart tag = (s.part.accept .a tag .nothing).startSurvey :=
      (if_neg (Classical.not_not.mpr startup)).trans (if_pos complete)
    have entered := enterMode_entered (s.part.accept .a tag .nothing) .survey
    have started : (s.part.accept .a tag .nothing).startSurvey
        = (((s.part.accept .a tag .nothing).enterMode .survey).event (.mode .survey none)).beginSurvey.settle := rfl
    rw [started] at taken
    generalize (s.part.accept .a tag .nothing).enterMode .survey = y at *
    have begun := beginSurvey_begun (p := y.event (.mode .survey none)) entered.framing.mode
      (entered.framing.eStop.trans negated) (unordered.imp fun x h => (congrArg ReadingClass.ordered (entered.classes x)).trans h)
    refine ⟨_, exec_eq rfl taken, begun.mode, congrArg FaultHandler.reported begun.faults, ?_, fun g notClosed notOpen => ?_,
      fun k above => ?_⟩
    · rw [begun.sent, event_sent_a, entered.framing.sent]
      exact (List.append_assoc _ _ _)
    · refine begun.gates g ?_ ?_
      · rw [event_gates, entered.gates]; exact notClosed
      · rw [event_gates, entered.gates]; exact notOpen
    · refine begun.sluices k ?_
      rw [event_sluices, entered.positions]
      exact above
  · have run : exec .surveyEnd s = .next { s with part := s.part.settle } := rfl
    have test := surveyDone_iff s.part
    refine ⟨_, run, fun all => ?_, fun some => ?_⟩
    · have entered := enterMode_entered s.part.clearReported .rest
      have ends : s.part.surveyTest = (s.part.clearReported.enterMode .rest).event (.mode .rest none) :=
        if_pos ⟨survey, test.mpr all⟩
      have faces : ∀ f, (faceOf s.part.faces f).requested = .stop →
          (faceOf (s.part.clearReported.enterMode .rest).faces f).shown = .stop := fun f stop =>
        enterMode_shown s.part.clearReported (.inl rfl) stop
      have settled : s.part.settle = s.part.surveyTest.turnArrival false false := rfl
      rw [settled, ends]
      generalize s.part.clearReported.enterMode .rest = y at *
      rw [turnArrival_idle _ _ _ (recompute_inhibited (y.event (.mode .rest none)) (entered.framing.navInhibit.trans inhibit))]
      refine ⟨entered.framing.mode, ?_, entered.framing.faults, fun f _ stop => faces f stop⟩
      rw [recompute_sent, event_sent_a, entered.framing.sent]
      rfl
    · have still := surveyTest_stands s.part fun h => some (test.mp h.2)
      have settled : s.part.settle = s.part.recompute := by
        unfold Part.settle
        rw [still]
        exact turnArrival_idle _ _ _ (recompute_inhibited _ inhibit)
      rw [settled]
      exact ⟨rfl, recompute_idle (recompute_inhibited _ inhibit)⟩

end Sys2Proof.Machine
end

section
/-! PROOFS. ABANDON (R125, R126, R140). -/

namespace Sys2Proof.Machine

variable {p q r : Part} {l : Lockage} {o : LockageOutcome}

/-! ### The record of an ending (R131, R143, R148) -/

theorem tollRecord_of (settings : q.settings = p.settings) (clock : q.clock = p.clock) (l : Lockage) (o : LockageOutcome) :
    q.tollRecord l o = p.tollRecord l o := by
  rw [Part.tollRecord, Part.tollRecord, settings, Part.clockNow, Part.clockNow, clock]

theorem allStopped_tollRecord (p : Part) (l m : Lockage) (o : LockageOutcome) :
    (p.allStopped l o).tollRecord m o = p.tollRecord m o :=
  tollRecord_of (allStopped_framing p l o).settings (allStopped_framing p l o).clock m o

/-- The record of a lockage whose convoy does not go back joins every enabled outlet. -/
theorem closedOut_records (kept : o.returns l.entryPassed = false) {x : Port}
    (enabled : (p.outlets.outlets.get x).enabled = true) :
    (p.outlets.outlets.get x).queue ++ [⟨p.outlets.nextSequence, .lockage (p.tollRecord l o)⟩]
      <+: ((p.closedOut l o).outlets.outlets.get x).queue := by
  have unit : (p.allStopped l o).outlets = p.outlets := (allStopped_framing p l o).outlets
  unfold Part.closedOut Part.dispose
  rw [kept, if_neg Bool.false_ne_true, if_neg Bool.false_ne_true, allStopped_tollRecord]
  have grows := (countEnding_recorded ((p.allStopped l o).appendRecord (.lockage (p.tollRecord l o))) o
    (some (p.tollRecord l o))).records x
  have queue : (((p.allStopped l o).appendRecord (.lockage (p.tollRecord l o))).outlets.outlets.get x).queue
      = (p.outlets.outlets.get x).queue ++ [⟨p.outlets.nextSequence, .lockage (p.tollRecord l o)⟩] := by
    rw [appendRecord_eq]
    simp only [unit, appended_get, enabled, if_true]
  rw [queue] at grows
  exact grows

/-- An abandoned lockage's record charges nothing (R140). -/
theorem tollRecord_abandoned (p : Part) (l : Lockage) :
    (p.tollRecord l .abandoned).number = l.number ∧ (p.tollRecord l .abandoned).outcome = .abandoned
      ∧ (p.tollRecord l .abandoned).total = 0 := by
  refine ⟨rfl, rfl, ?_⟩
  have total : (p.tollRecord l .abandoned).total
      = totalOf (l.convoy.map (p.settings.tariff.getD Tariff.zero).abandonedLine) := rfl
  have free : ∀ v, ((p.settings.tariff.getD Tariff.zero).abandonedLine v).lineFee = 0 := fun _ => rfl
  rw [total, totalOf_eq]
  induction l.convoy with
  | nil => rfl
  | cons v vs ih =>
    rw [List.map_cons, List.map_cons, List.sum_cons, free, Nat.zero_add]
    exact ih

/-! ### The end of a halted lockage (R125) -/

/-- While HALTED no face shows PROCEED, so that the record stands. -/
theorem halted_lockage (halted : p.mode = .halted) : p.refreshFaces.lockage = p.lockage :=
  refreshFaces_lockage fun _ shown => (proceed_requested _ shown).1 halted

theorem closeGate_halted (halted : p.mode = .halted) (g : Gate) (c : Commander) :
    (p.closeGate g c).lockage = p.lockage := by
  unfold Part.closeGate
  dsimp only
  split
  · rfl
  · exact halted_lockage (p := Part.examineIsolation { p with gates := _ }) halted
  · exact halted_lockage (p := Part.examineIsolation { p with gates := _ }) halted

theorem closeEntry_halted (halted : p.mode = .halted) (d : Direction) (c : Commander) :
    (p.closeEntry d c).lockage = p.lockage := by
  unfold Part.closeEntry
  split
  · rfl
  · exact closeGate_halted halted _ c

theorem closeEntry_moves (p : Part) (d : Direction) (c : Commander)
    (notClosed : (p.gates.get d.entryGate).state ≠ .closed) :
    ((p.closeEntry d c).gates.get d.entryGate).state = .closing := by
  unfold Part.closeEntry
  rw [if_neg notClosed, closeGate_gates, Four.get_set_self]
  exact (closeCommanded_moves notClosed _ c).1

/-- The halt record cleared. -/
def Part.unhalted (p : Part) : Part := { p with faults := { p.faults with halt := none } }

/-- The gates of a lockage abandoned before its convoy entered, or after. -/
def Part.released (p : Part) (l : Lockage) : Part :=
  if l.entryPassed then p.unhalted else p.unhalted.closeEntry l.direction .nobody

theorem released_framing (p : Part) (l : Lockage) : Framing p.unhalted (p.released l) := by
  unfold Part.released
  split
  · exact .refl _
  · exact closeEntry_framing _ _ _

theorem released_lockage (halted : p.mode = .halted) (l : Lockage) : (p.released l).lockage = p.lockage := by
  unfold Part.released
  split
  · rfl
  · exact closeEntry_halted (p := p.unhalted) halted _ _

theorem abandonFlight_lockage (held : p.lockage = some l) :
    p.abandonFlight = (((p.released l).endLockage .abandoned).event (.mode .rest none)).settle := by
  unfold Part.abandonFlight
  split
  · next m found =>
    obtain rfl := Option.some.inj (held.symm.trans found)
    rfl
  · next none => rw [held] at none; cases none

/-- Settles O43: by whether a lockage is halted, and whether its convoy has entered. -/
theorem abandonEndsTheHalt : Obligations.AbandonEndsTheHalt := by
  unfold Obligations.AbandonEndsTheHalt
  intro tag s reply
  have taken : s.part.mode = .halted → s.part.takeAbandon tag = (s.part.accept .a tag .nothing).abandonFlight :=
    fun halted => if_neg (Classical.not_not.mpr halted)
  refine ⟨fun other => exec_eq rfl (if_pos other), fun l halted held inhibit => ?_,
    fun halted none negated unordered => ?_⟩
  · have framing := released_framing (s.part.accept .a tag .nothing) l
    have lockage := (released_lockage (p := s.part.accept .a tag .nothing) halted l).trans held
    have run := exec_eq (c := .abandon tag) (s := s) rfl ((taken halted).trans (abandonFlight_lockage held))
    have before : l.entryPassed = false → ((s.part.gates.get l.direction.entryGate).state ≠ .closed →
        (((s.part.accept .a tag .nothing).released l).gates.get l.direction.entryGate).state = .closing) :=
      fun outside notClosed => by
        rw [Part.released, outside, if_neg Bool.false_ne_true]
        exact closeEntry_moves _ _ _ notClosed
    have after : l.entryPassed = true → ((s.part.accept .a tag .nothing).released l).gates = s.part.gates :=
      fun inside => by
        rw [Part.released, inside]
        rfl
    have ended := endLockage_ended lockage .abandoned
    have records := fun (kept : LockageOutcome.abandoned.returns l.entryPassed = false) (x : Port) =>
      closedOut_records (p := (s.part.accept .a tag .nothing).released l) kept (x := x)
    generalize (s.part.accept .a tag .nothing).released l = y at *
    have settled : ((y.endLockage .abandoned).event (.mode .rest none)).settle
        = ((y.endLockage .abandoned).event (.mode .rest none)).recompute :=
      settle_inhibited _ _ _ (by rw [event_mode, ended.mode]; decide)
        (by rw [event_navInhibit, ended.navInhibit, framing.navInhibit]; exact inhibit)
    rw [settled] at run
    obtain ⟨m, grew, sent⟩ := ended.sent
    rw [framing.sent] at grew
    have told : (s.part.accept .a tag .nothing).sent.a = s.part.sent.a ++ [reply] := rfl
    have messages : ((y.endLockage .abandoned).event (.mode .rest .none)).recompute.sent.a
        = m ++ [.event (.ending l.number .abandoned l.headDraws l.tideWait l.late
            (if LockageOutcome.abandoned.returns l.entryPassed then none else some y.outlets.nextSequence)
            (l.convoy.map (·.ticket)) (LockageOutcome.abandoned.returns l.entryPassed))] ++ [.event (.mode .rest .none)] := by
      rw [recompute_sent, event_sent_a, sent]
    have unit : y.outlets.nextSequence = s.part.outlets.nextSequence := by rw [framing.outlets]; rfl
    have ending : (if LockageOutcome.abandoned.returns l.entryPassed then none else some y.outlets.nextSequence)
        = if l.entryPassed then some s.part.outlets.nextSequence else none := by
      rw [unit]
      cases l.entryPassed <;> rfl
    refine ⟨_, run, ended.mode, ended.lockage, ?_, ?_, ?_, ?_, fun outside => ⟨?_, fun notClosed => ?_⟩,
      fun inside => ⟨?_, fun g => ?_, ?_⟩⟩
    · rw [recompute_faults, event_faults, ended.faults, framing.faults]
      rfl
    · rw [messages, List.append_assoc]
      exact (told ▸ grew).trans (List.prefix_append _ _)
    · rw [messages, ending]
      exact List.mem_append_left _ (List.mem_append_right m (.head _))
    · rw [messages]
      exact List.mem_append_right _ (.head _)
    · have queue := ended.queues l.direction
      rw [if_pos ⟨by rw [outside]; rfl, rfl⟩, framing.queueOf] at queue
      exact queue
    · rw [recompute_gates, event_gates, ended.gates]
      exact before outside notClosed
    · have queue := ended.queues l.direction
      rw [if_neg (fun h => by rw [inside] at h; cases h.1), framing.queueOf] at queue
      exact queue
    · rw [recompute_gates, event_gates, ended.gates, after inside]
    · obtain ⟨number, outcome, total⟩ := tollRecord_abandoned y l
      refine ⟨_, number, outcome, total, fun x enabled => ?_⟩
      rw [recompute_outlets, event_outlets, ended.outlets]
      have unit : y.outlets = s.part.outlets := framing.outlets
      have joined := records (by rw [inside]; rfl) x
      rw [unit] at joined
      exact joined enabled
  · have entered := enterMode_entered (s.part.accept .a tag .nothing).unhalted .survey
    have again : (s.part.accept .a tag .nothing).abandonFlight
        = (((s.part.accept .a tag .nothing).unhalted.enterMode .survey).event (.mode .survey .none)).beginSurvey.settle := by
      unfold Part.abandonFlight
      have nothing : (s.part.accept .a tag .nothing).lockage = .none := none
      rw [nothing]
      rfl
    have run := exec_eq (c := .abandon tag) (s := s) rfl ((taken halted).trans again)
    generalize (s.part.accept .a tag .nothing).unhalted.enterMode .survey = y at *
    have begun := beginSurvey_begun (p := y.event (.mode .survey .none)) entered.framing.mode
      (entered.framing.eStop.trans negated) (unordered.imp fun x h => (congrArg ReadingClass.ordered (entered.classes x)).trans h)
    refine ⟨_, run, begun.mode, ?_, ?_⟩
    · rw [begun.faults, event_faults, entered.framing.faults]
      rfl
    · rw [begun.sent, event_sent_a, entered.framing.sent]
      exact (List.append_assoc _ _ _)

end Sys2Proof.Machine
end

section
/-! PROOFS. REGISTER's refusals and placing, and CANCEL (R46 to R54). -/

namespace Sys2Proof.Machine

variable {p q r : Part}

/-! ### What a REGISTER's fields allow (R49) -/

theorem direction_allowed (n : Nat) : (∃ d, Direction.ofCode n = some d) ↔ n ≤ 1 := by
  match n with
  | 0 | 1 => exact ⟨fun _ => by decide, fun _ => ⟨_, rfl⟩⟩
  | n + 2 => exact ⟨fun ⟨_, h⟩ => (nomatch h), fun h => by omega⟩

theorem vesselClass_allowed (n : Nat) : (∃ c, VesselClass.ofCode n = some c) ↔ n ≤ 7 := by
  match n with
  | 0 | 1 | 2 | 3 | 4 | 5 | 6 | 7 => exact ⟨fun _ => by decide, fun _ => ⟨_, rfl⟩⟩
  | n + 8 => exact ⟨fun ⟨_, h⟩ => (nomatch h), fun h => by omega⟩

/-- The queue of a REGISTER's direction is full (R49, R51). -/
def Part.fullFor (p : Part) (code : Nat) : Prop :=
  ∃ d, Direction.ofCode code = some d ∧ 12 ≤ (p.queueOf d).length + p.reserved d

/-- Each field of a REGISTER is one R49 allows. -/
def Registrable (v : RegisterRequest) : Prop :=
  hullOk v.hull = true ∧ v.direction ≤ 1 ∧ v.cls ≤ 7 ∧ 300 ≤ v.draught ∧ v.draught ≤ 5000
    ∧ ∃ k, AccountKind.ofCode v.accountKind = some k ∧ accountOk k v.accountNumber = true

theorem registerRefusal_full {v : RegisterRequest} (mode : p.mode = .rest ∨ p.mode = .working ∨ p.mode = .halted)
    (fresh : p.hullInUse v.hull = false) (full : p.fullFor v.direction) : p.registerRefusal v = some .queueFull := by
  obtain ⟨d, direction, count⟩ := full
  have serves : ¬ (p.mode = .startup ∨ p.mode = .survey) := by rcases mode with m | m | m <;> simp [m]
  rw [Part.registerRefusal, if_neg serves, if_neg (by simp [fresh]), direction]
  exact if_pos (decide_eq_true count)

/-- R49's last two tests, where the three before them pass. -/
theorem registerRefusal_fields {v : RegisterRequest} (mode : p.mode = .rest ∨ p.mode = .working ∨ p.mode = .halted)
    (fresh : p.hullInUse v.hull = false) (room : ¬ p.fullFor v.direction) :
    (¬ Registrable v → p.registerRefusal v = some .badValue)
      ∧ (Registrable v → p.registerRefusal v = if p.usableLength < max 50 v.length then some .tooLong else none) := by
  have serves : ¬ (p.mode = .startup ∨ p.mode = .survey) := by rcases mode with m | m | m <;> simp [m]
  unfold Part.registerRefusal
  rw [if_neg serves, if_neg (by simp [fresh])]
  cases direction : Direction.ofCode v.direction with
  | none => exact ⟨fun _ => rfl, fun ok => absurd ((direction_allowed _).2 ok.2.1) (by simp [direction])⟩
  | some d =>
    have free : ¬ p.queueFull d = true := fun full => room ⟨d, direction, of_decide_eq_true full⟩
    dsimp only
    rw [if_neg free]
    cases cls : VesselClass.ofCode v.cls with
    | none => exact ⟨fun _ => rfl, fun ok => absurd ((vesselClass_allowed _).2 ok.2.2.1) (by simp [cls])⟩
    | some c =>
      cases kind : AccountKind.ofCode v.accountKind with
      | none => exact ⟨fun _ => rfl, fun ⟨_, _, _, _, _, k, h, _⟩ => nomatch kind.symm.trans h⟩
      | some k =>
        have ok : Registrable v ↔ ¬ (hullOk v.hull = false ∨ v.draught < 300 ∨ 5000 < v.draught
            ∨ accountOk k v.accountNumber = false) := by
          have codes := And.intro ((direction_allowed v.direction).1 ⟨d, direction⟩) ((vesselClass_allowed v.cls).1 ⟨c, cls⟩)
          simp [Registrable, codes, kind]
        dsimp only
        refine ⟨fun no => if_pos (Classical.not_not.1 (mt ok.2 no)), fun yes => ?_⟩
        rw [if_neg (ok.1 yes)]
        rfl

theorem takeRegister_refused {tag : Tag} {v : RegisterRequest} {x : Reason} (h : p.registerRefusal v = some x) :
    p.takeRegister tag v = p.refuse .a tag x := by
  rw [Part.takeRegister, h]

/-- Settles O46: R49's tests in the order in which they are made. -/
theorem registerRefusalsInOrder : Obligations.RegisterRefusalsInOrder := by
  unfold Obligations.RegisterRefusalsInOrder
  intro tag v s refused full valid taken
  have answer {x : Reason} (h : s.part.registerRefusal v = some x) : refused x := exec_eq rfl (takeRegister_refused h)
  have serves (mode : taken) : ¬ (s.part.mode = .startup ∨ s.part.mode = .survey) := by
    rcases mode with m | m | m <;> simp [m]
  refine ⟨fun mode => answer (if_pos ?_), fun mode used => answer ?_,
    fun mode fresh full => answer (registerRefusal_full mode fresh full),
    fun mode fresh room bad => answer ((registerRefusal_fields mode fresh room).1 bad),
    fun mode fresh room ok long => answer (((registerRefusal_fields mode fresh room).2 ok).trans (if_pos long))⟩
  · cases m : s.part.mode <;> simp_all [taken]
  · rw [Part.registerRefusal, if_neg (serves mode), if_pos used]

/-! ### The ticket (R48) -/

/-- The n-th number after t among 1..65,535. -/
def numberAfter (t n : Nat) : Nat := (t - 1 + n) % 65535 + 1

theorem numberAfter_zero {t : Nat} (h : assignable t) : numberAfter t 0 = t := by
  obtain ⟨low, high⟩ := h
  unfold numberAfter
  omega

theorem numberAfter_nextNumber {t : Nat} (h : assignable t) (n : Nat) :
    numberAfter (nextNumber t) n = numberAfter t (n + 1) := by
  obtain ⟨low, high⟩ := h
  unfold numberAfter nextNumber
  split <;> omega

/-- Where no try finds a free ticket, every number tried is in use. -/
theorem freeTicket_taken {n t : Nat} {used : List Nat} (start : assignable t) (h : freeTicket n t used ∈ used) :
    ∀ i ≤ n, numberAfter t i ∈ used := by
  induction n generalizing t with
  | zero =>
    intro i hi
    obtain rfl : i = 0 := by omega
    rw [numberAfter_zero start]
    exact h
  | succ n ih =>
    rw [freeTicket] at h
    split at h
    · next here =>
      intro i hi
      cases i with
      | zero =>
        rw [numberAfter_zero start]
        exact List.contains_iff_mem.1 here
      | succ i =>
        rw [← numberAfter_nextNumber start]
        exact ih (nextNumber_assignable t) h i (by omega)
    · next free => exact absurd (List.contains_iff_mem.2 h) free

theorem freeTicket_assignable {t : Nat} (n : Nat) (used : List Nat) (h : assignable t) :
    assignable (freeTicket n t used) := by
  induction n generalizing t with
  | zero => exact h
  | succ n ih =>
    rw [freeTicket]
    split
    · exact ih (nextNumber_assignable t)
    · exact h

theorem freeTicket_first {t : Nat} (n : Nat) {used : List Nat} (h : t ∉ used) : freeTicket n t used = t := by
  cases n with
  | zero => rfl
  | succ n => rw [freeTicket, if_neg (by simpa using h)]

/-- Fewer tickets in use than there are numbers leave the next free one: as many tries as tickets cannot all fail. -/
theorem freeTicket_free {t : Nat} {used : List Nat} (h : assignable t) (few : used.length < 65535) :
    freeTicket used.length t used ∉ used := by
  intro taken
  have distinct : ((List.range (used.length + 1)).map (numberAfter t)).Nodup := by
    refine List.pairwise_map.2 (List.pairwise_lt_range.imp_of_mem fun {i j} hi hj below same => ?_)
    rw [List.mem_range] at hi hj
    unfold numberAfter at same
    obtain ⟨low, high⟩ := h
    omega
  have all : ((List.range (used.length + 1)).map (numberAfter t)) ⊆ used := by
    intro x hx
    obtain ⟨i, hi, rfl⟩ := List.mem_map.1 hx
    exact freeTicket_taken h taken i (by rw [List.mem_range] at hi; omega)
  have count := distinct.length_le_of_subset all
  rw [List.length_map, List.length_range] at count
  omega

theorem newTicket_free (p : Part) (h : assignable p.nextTicket) (few : p.registered.length < 65535) :
    assignable p.newTicket ∧ ∀ y ∈ p.registered, y.ticket ≠ p.newTicket := by
  have length : p.registered.length = (p.registered.map (·.ticket)).length := (List.length_map _).symm
  refine ⟨freeTicket_assignable _ _ h, fun y held same => ?_⟩
  have free := freeTicket_free (used := p.registered.map (·.ticket)) h (by rwa [← length])
  rw [← length] at free
  exact free (Eq.subst (motive := (· ∈ p.registered.map (·.ticket))) same (List.mem_map_of_mem held))

/-! ### The calls (R53, R54) -/

theorem presentCalls_of (p : Part) (d : Direction) : p.presentCalls.of d = (p.callOf d, p.priorityOf d) := by
  cases d <;> rfl

theorem callOf_iff (p : Part) (d : Direction) : p.callOf d = true ↔
    ∃ v, (p.queueOf d).head? = some v ∧ p.passable [v] = true ∧ v.length ≤ p.usableLength := by
  unfold Part.callOf
  cases p.queueOf d <;> simp

theorem priorityOf_iff (p : Part) (d : Direction) : p.priorityOf d = true ↔
    p.callOf d = true ∧ ∃ v, (p.queueOf d).head? = some v ∧ v.priority = true := by
  unfold Part.priorityOf
  cases p.queueOf d <;> simp

theorem callsDerived_of (h : p.calls = p.presentCalls) : p.CallsDerived := by
  intro d
  rw [h, presentCalls_of]
  exact ⟨callOf_iff p d, priorityOf_iff p d⟩

theorem deriveCalls_queueOf (p : Part) (d : Direction) : p.deriveCalls.queueOf d = p.queueOf d := by cases d <;> rfl

theorem turned_queueOf (p : Part) (t : TurnSelector) (d : Direction) : ({ p with turn := t }).queueOf d = p.queueOf d := by
  cases d <;> rfl

/-- Calls just derived stand so whatever the turn selector then does. -/
theorem callsDerived_turned (p : Part) (t : TurnSelector) : ({ p.deriveCalls with turn := t }).CallsDerived :=
  callsDerived_of rfl

/-! ### REGISTER accepted (R47, R48, R50) -/

theorem enrol_form (x : Vessel) (p : Part) :
    (p.enrol x).mode = p.mode ∧ (p.enrol x).navInhibit = p.navInhibit ∧ (p.enrol x).lockage = p.lockage
      ∧ (p.enrol x).sent = p.sent ∧ (p.enrol x).nextTicket = nextNumber x.ticket := by
  unfold Part.enrol
  cases x.direction <;> exact ⟨rfl, rfl, rfl, rfl, rfl⟩

theorem enrol_queueOf (x : Vessel) (p : Part) (d : Direction) : (p.enrol x).queueOf d
    = if d = x.direction then placeVessel x (p.queueOf d) else p.queueOf d := by
  unfold Part.enrol
  rw [deriveCalls_queueOf]
  have ticket (y : Part) : ({ y with nextTicket := nextNumber x.ticket }).queueOf d = y.queueOf d := by cases d <;> rfl
  rw [ticket, queueOf_setQueue]
  split
  · next same => rw [same]
  · rfl

theorem takeRegister_taken {tag : Tag} {v : RegisterRequest} {d : Direction} {c : VesselClass} {k : AccountKind}
    (h : p.registerRefusal v = none) (direction : Direction.ofCode v.direction = some d)
    (cls : VesselClass.ofCode v.cls = some c) (kind : AccountKind.ofCode v.accountKind = some k) :
    p.takeRegister tag v = p.acceptRegister tag v (p.newVessel v d c k) := by
  rw [Part.takeRegister, h, direction, cls, kind]

/-- Settles O45: the tests pass, the vessel takes its place, and the ticket is the first free of as many tries as
there are tickets in use. -/
theorem registerPlacesTheVessel : Obligations.RegisterPlacesTheVessel := by
  unfold Obligations.RegisterPlacesTheVessel
  intro tag v s d c k mode fresh room direction cls kind hull low high account long
  have serves : s.part.mode = .rest ∨ s.part.mode = .working ∨ s.part.mode = .halted := by
    rcases mode with m | m | m
    · exact .inr (.inl m)
    · exact .inr (.inr m)
    · exact .inl m.1
  have allowed : Registrable v := ⟨hull, (direction_allowed _).1 ⟨d, direction⟩, (vesselClass_allowed _).1 ⟨c, cls⟩, low, high,
    k, kind, account⟩
  have free : ¬ s.part.fullFor v.direction := fun ⟨e, he, full⟩ => by
    obtain rfl := Option.some.inj (direction.symm.trans he)
    omega
  have passes := ((registerRefusal_fields serves fresh free).2 allowed).trans (if_neg (Nat.not_lt.2 long))
  have run := exec_eq (c := .register tag v) rfl (takeRegister_taken (tag := tag) passes direction cls kind)
  generalize hx : s.part.newVessel v d c k = x at run
  have fields : x = { ticket := s.part.newTicket, hull := v.hull, direction := d, cls := c, length := max 50 v.length
                      draught := v.draught, laden := v.laden, accountKind := k
                      accountNumber := if k = .cash then none else v.accountNumber
                      priority := v.priority, registered := s.part.clockNow } := hx.symm
  dsimp only [Part.acceptRegister] at run
  have reply : (s.part.accept .a tag (.register x.ticket (placePosition x (s.part.queueOf x.direction)) x.length
      (decide (v.length < 50)) (decide (x.accountKind = .cash) && v.accountNumber.isSome)))
      = s.part.accept .a tag (.register x.ticket (if v.priority then ((s.part.queueOf d).takeWhile (·.priority)).length + 1
            else (s.part.queueOf d).length + 1)
          x.length (decide (v.length < 50)) (decide (k = .cash) && v.accountNumber.isSome)) := by
    rw [fields]; rfl
  rw [reply] at run
  generalize hy : s.part.accept .a tag (.register x.ticket (if v.priority then
    ((s.part.queueOf d).takeWhile (·.priority)).length + 1 else (s.part.queueOf d).length + 1)
    x.length (decide (v.length < 50)) (decide (k = .cash) && v.accountNumber.isSome)) = y at run
  obtain ⟨modes, inhibits, lockage, sent, ticket⟩ := enrol_form x y
  obtain ⟨t, settled, -⟩ : ∃ t, (y.enrol x).settle = { y.enrol x with turn := t } ∧ TurnIdle (y.enrol x).turn t := by
    have still : y.mode = s.part.mode ∧ y.navInhibit = s.part.navInhibit := by rw [← hy]; exact ⟨rfl, rfl⟩
    rcases mode with m | m | ⟨m, n⟩
    · exact quiet_settled (by rw [modes, still.1, m]; exact ⟨by decide, by decide⟩) false false
    · exact quiet_settled (by rw [modes, still.1, m]; exact ⟨by decide, by decide⟩) false false
    · exact inhibited_settled (by rw [modes, still.1, m]; decide) (by rw [inhibits, still.2, n]) false false
  have queues : ∀ e, y.queueOf e = s.part.queueOf e := fun e => by rw [← hy]; cases e <;> rfl
  rw [settled] at run
  refine ⟨_, x, run, ?_, ?_, ?_, ticket, ?_, ?_, ?_, callsDerived_turned _ t, ?_⟩
  · rw [fields]
  · rw [fields]
    exact newTicket_free s.part
  · rw [fields]
    intro _ unused
    refine freeTicket_first _ fun held => ?_
    obtain ⟨z, hz, same⟩ := List.mem_map.1 held
    exact unused z hz same
  · rw [turned_queueOf, enrol_queueOf, if_pos (by rw [fields]), queues, placeVessel, show x.priority = v.priority by rw [fields]]
  · rw [turned_queueOf, enrol_queueOf, if_neg (by rw [fields]; exact opposite_ne d), queues]
  · exact lockage.trans (by rw [← hy]; rfl)
  · exact sent.trans (by rw [← hy]; rfl)

/-! ### CANCEL (R52) -/

/-- A lockage recorded while a survey runs, its entry move in hand. -/
def surveyedEntry : Lockage := newLockage 1 .up .b [] [⟨.move .g3 .up, .entry⟩] ⟨0, 0⟩

def waitingVessel : Vessel :=
  { ticket := 1, hull := [0x41], direction := .up, cls := .pleasure, length := 50, draught := 300, laden := false
    accountKind := .cash, accountNumber := none, priority := false, registered := ⟨0, 0⟩ }

/-- A survey whose end test finds all done, with a vessel waiting, the entry gate open and PROCEED requested there. -/
def surveyAtEnd : State :=
  { State.reset with part := { Part.initial with
      mode := .survey, navInhibit := true, lockage := some surveyedEntry, upQueue := [waitingVessel]
      reaches := Part.initial.reaches.map fun r => { r with cls := .valid }
      gates := Part.initial.gates.map fun g => { g with state := .open_ }
      faces := faceMap fun f => { FaceRec.reset f with requested := .proceed } } }

/-- Refutes O47: a CANCEL in SURVEY ends the survey that is done, and the faces shown again at REST mark the entry of a
lockage the state holds as passed, where the statement asks that the lockage stands. -/
theorem not_cancelRemovesTheRecord : ¬ Obligations.CancelRemovesTheRecord := by
  unfold Obligations.CancelRemovesTheRecord
  intro h
  obtain ⟨q, run, -, -, lockage, -⟩ := (h 0 1 surveyAtEnd).2.2 .up [] [] waitingVessel (.inr rfl) (by decide) rfl rfl
    (by decide) nofun
  have taken : surveyAtEnd.part.takeCancel 0 1 = q :=
    part_of_next (t := { surveyAtEnd with part := surveyAtEnd.part.takeCancel 0 1 }) run rfl
  subst taken
  exact absurd (congrArg (Option.map Lockage.entryPassed) lockage) (by decide)

end Sys2Proof.Machine
end

section
/-! PROOFS. Plans: their lengths, their draws and their safety (chapter 5). -/

namespace Sys2Proof.Machine

variable {f : Predicted} {x y : Draft}

/-- The state steps predict from a first one (R78). -/
def Predicted.over (f : Predicted) (steps : List PlanStep) : Predicted :=
  steps.foldl (fun p y => p.after y.work) f

/-- Every gate is predicted CLOSED. -/
def Predicted.Shut (f : Predicted) : Prop := ∀ h, f.opened.get h = false

/-- The step needs every gate predicted CLOSED at its start (R86, R88). -/
def Work.needsShut : Work → Prop
  | .transfer _ | .openGate _ => True
  | _ => False

/-- A draft that predicts what its steps do, each TRANSFER and OPEN of it at shut gates. -/
structure Draft.Sound (f : Predicted) (x : Draft) : Prop where
  flight : x.flight = f.over x.steps
  shut : ∀ i y, x.steps[i]? = some y → y.work.needsShut → (f.over (x.steps.take i)).Shut

/-- The same, with every gate predicted CLOSED after it. -/
structure Draft.Clear (f : Predicted) (x : Draft) : Prop extends Draft.Sound f x where
  closed : x.flight.Shut

/-! ### One step appended -/

theorem add_sound (h : x.Sound f) (ph : Phase) {w : Work} (safe : w.needsShut → x.flight.Shut) : (x.add ph w).Sound f where
  flight := by
    rw [Draft.add, h.flight]
    simp [Predicted.over]
  shut := by
    intro i y at_ needs
    rw [Draft.add] at at_ ⊢
    rcases Nat.lt_trichotomy i x.steps.length with before | rfl | beyond
    · rw [List.getElem?_append_left before] at at_
      rw [List.take_append_of_le_length (Nat.le_of_lt before)]
      exact h.shut i y at_ needs
    · rw [List.getElem?_concat_length] at at_
      obtain rfl := Option.some.inj at_
      rw [List.take_left, ← h.flight]
      exact safe needs
    · rw [List.getElem?_eq_none (by simp; omega)] at at_
      cases at_

theorem transfer_opened (f : Predicted) (g : Gate) : (f.after (.transfer g)).opened = f.opened := by cases g <;> rfl

theorem close_shut {g : Gate} (h : ∀ k, k ≠ g → f.opened.get k = false) : (f.after (.close g)).Shut := by
  intro k
  rw [Predicted.after, Four.get_set]
  split
  · rfl
  · next other => exact h k other

theorem add_transfer (h : x.Clear f) (ph : Phase) (g : Gate) : (x.add ph (.transfer g)).Clear f where
  toSound := add_sound h.toSound ph fun _ => h.closed
  closed := fun k => (congrArg (Four.get · k) (transfer_opened _ g)).trans (h.closed k)

theorem add_commit (h : x.Clear f) (ph : Phase) : (x.add ph .commit).Clear f where
  toSound := add_sound h.toSound ph nofun
  closed := h.closed

/-- OPEN, MOVE and CLOSE of one gate leave every gate predicted CLOSED (R82, R84). -/
theorem addAll_passGate (h : x.Clear f) (ph : Phase) (g : Gate) (d : Direction) : (x.addAll ph (passGate g d)).Clear f where
  toSound := add_sound (add_sound (add_sound h.toSound ph fun _ => h.closed) ph False.elim) ph False.elim
  closed := close_shut fun k other => by
    change (x.flight.opened.set g true).get k = false
    rw [Four.get_set, if_neg other]
    exact h.closed k

/-! ### The parts of a plan -/

/-- The TRANSFER(0) steps of a list. -/
def draws (steps : List PlanStep) : Nat :=
  (steps.filter fun s => decide (s.work = .transfer .g0)).length

/-- A draft with `n` steps more, `k` of them TRANSFER(0). -/
structure Draft.Longer (x y : Draft) (n k : Nat) : Prop where
  length : y.steps.length = x.steps.length + n
  draws : draws y.steps = draws x.steps + k

theorem Draft.Longer.trans {z : Draft} {n k m j : Nat} (a : Draft.Longer x y n k) (b : Draft.Longer y z m j) :
    Draft.Longer x z (n + m) (k + j) :=
  ⟨by rw [b.length, a.length, Nat.add_assoc], by rw [b.draws, a.draws, Nat.add_assoc]⟩

theorem addAll_steps (x : Draft) (ph : Phase) (ws : List Work) :
    (x.addAll ph ws).steps = x.steps ++ ws.map fun w => ⟨w, ph⟩ := by
  induction ws generalizing x with
  | nil => simp [Draft.addAll]
  | cons w ws ih => exact (ih (x.add ph w)).trans (by simp [Draft.add])

theorem addAll_longer (x : Draft) (ph : Phase) (ws : List Work) :
    Draft.Longer x (x.addAll ph ws) ws.length (draws (ws.map fun w => ⟨w, ph⟩)) :=
  ⟨by simp [addAll_steps], by simp [addAll_steps, draws]⟩

/-- Transfers leave every gate predicted CLOSED. -/
theorem addAll_transfers (h : x.Clear f) (ph : Phase) (gs : List Gate) : (x.addAll ph (gs.map .transfer)).Clear f := by
  induction gs generalizing x with
  | nil => exact h
  | cons g gs ih => exact ih (add_transfer h ph g)

theorem closeIfOpen_sound (h : x.Sound f) (g : Gate) : (x.closeIfOpen g).Sound f := by
  unfold Draft.closeIfOpen
  split
  · exact add_sound h .prepare False.elim
  · exact h

theorem closeIfOpen_flight (x : Draft) (g : Gate) : (x.closeIfOpen g).flight = x.flight.after (.close g) := by
  unfold Draft.closeIfOpen
  split
  · rfl
  · next shut =>
    have same : x.flight.opened.set g false = x.flight.opened := by
      refine Four.ext_get fun k => ?_
      rw [Four.get_set]
      split
      · next eq => rw [eq]; exact (Bool.eq_false_iff.2 shut).symm
      · rfl
    rw [Predicted.after, same]

theorem closeIfOpen_longer (x : Draft) (g : Gate) : ∃ n ≤ 1, Draft.Longer x (x.closeIfOpen g) n 0 := by
  unfold Draft.closeIfOpen
  split
  · exact ⟨1, Nat.le_refl 1, addAll_longer x .prepare [.close g]⟩
  · exact ⟨0, Nat.zero_le 1, rfl, rfl⟩

/-- The PREPARE part closes what is open and leaves the chambers as predicted (R79). -/
theorem prepare_clear (f : Predicted) : (Draft.prepare { flight := f, steps := [] }).Clear f where
  toSound := by
    have first : Draft.Sound f { flight := f, steps := [] } := ⟨rfl, nofun⟩
    exact closeIfOpen_sound (closeIfOpen_sound (closeIfOpen_sound (closeIfOpen_sound first .g0) .g1) .g2) .g3
  closed := by
    intro k
    simp only [Draft.prepare, Gate.all, List.foldl, closeIfOpen_flight, Predicted.after, Four.get_set]
    cases k <;> rfl

theorem prepare_chambers (x : Draft) : x.prepare.flight.c1 = x.flight.c1 ∧ x.prepare.flight.c2 = x.flight.c2
    ∧ x.prepare.flight.c3 = x.flight.c3 := by
  simp only [Draft.prepare, Gate.all, List.foldl, closeIfOpen_flight, Predicted.after, and_self]

theorem prepare_longer (x : Draft) : ∃ n ≤ 4, Draft.Longer x x.prepare n 0 := by
  obtain ⟨a, ha, la⟩ := closeIfOpen_longer x .g0
  obtain ⟨b, hb, lb⟩ := closeIfOpen_longer _ .g1
  obtain ⟨c, hc, lc⟩ := closeIfOpen_longer _ .g2
  obtain ⟨d, hd, ld⟩ := closeIfOpen_longer _ .g3
  exact ⟨a + b + c + d, by omega, ((la.trans lb).trans lc).trans ld⟩

/-- The gates whose sluices the SETTING part draws, in order (R80, R81). -/
def settingGates (f : Predicted) : Direction → List Gate
  | .up => (if f.c3 = .empty then [] else [.g3]) ++ (if f.c1 = .full then [] else [.g0])
      ++ if f.c2 = .full then [] else [.g1, .g0]
  | .down => (if f.c3 = .empty then [] else [.g3]) ++ (if f.c2 = .empty then [] else [.g2, .g3])
      ++ if f.c1 = .full then [] else [.g0]

theorem set_eq (x : Draft) (d : Direction) : x.set d = x.addAll .setting ((settingGates x.flight d).map .transfer) := by
  cases d with
  | up =>
    by_cases h1 : x.flight.c1 = .full <;> by_cases h2 : x.flight.c2 = .full <;> by_cases h3 : x.flight.c3 = .empty <;>
      simp [Draft.set, Draft.setUp, settingGates, h1, h2, h3, Draft.addAll, Draft.add, Predicted.after]
  | down =>
    by_cases h1 : x.flight.c1 = .full <;> by_cases h2 : x.flight.c2 = .empty <;> by_cases h3 : x.flight.c3 = .empty <;>
      simp [Draft.set, Draft.setDown, settingGates, h1, h2, h3, Draft.addAll, Draft.add, Predicted.after]

theorem settingGates_length (f : Predicted) (d : Direction) : (settingGates f d).length ≤ 4 := by
  cases d <;> (dsimp only [settingGates]; split <;> split <;> split) <;> decide

theorem settingGates_draws (f : Predicted) (d : Direction) (ph : Phase) :
    draws (((settingGates f d).map .transfer).map fun w => ⟨w, ph⟩) = match d with
      | .up => (if f.c1 = .full then 0 else 1) + if f.c2 = .full then 0 else 1
      | .down => if f.c1 = .full then 0 else 1 := by
  cases d <;> (dsimp only [settingGates]; split <;> split <;> split) <;> rfl

theorem commitStep_clear (h : x.Clear f) (cc : ClearanceClass) : (x.commitStep cc).Clear f := by
  unfold Draft.commitStep
  split
  · exact add_commit h .commit
  · exact h

theorem commitStep_longer (x : Draft) (cc : ClearanceClass) : ∃ n ≤ 1, Draft.Longer x (x.commitStep cc) n 0 := by
  unfold Draft.commitStep
  split
  · exact ⟨1, Nat.le_refl 1, addAll_longer x .commit [.commit]⟩
  · exact ⟨0, Nat.zero_le 1, rfl, rfl⟩

theorem carry_clear (h : x.Clear f) (d : Direction) : (x.carry d).Clear f := by
  cases d with
  | up => exact addAll_passGate (add_transfer (addAll_passGate (add_transfer (addAll_passGate (add_transfer h .carrying .g2)
      .carrying .g2 .up) .carrying .g1) .carrying .g1 .up) .carrying .g0) .exit .g0 .up
  | down => exact addAll_passGate (add_transfer (addAll_passGate (add_transfer (addAll_passGate (add_transfer h .carrying .g1)
      .carrying .g1 .down) .carrying .g2) .carrying .g2 .down) .carrying .g3) .exit .g3 .down

theorem carry_longer (x : Draft) (d : Direction) :
    Draft.Longer x (x.carry d) 12 (match d with | .up => 1 | .down => 0) := by
  cases d with
  | up => exact (addAll_longer x .carrying carryUp).trans (addAll_longer _ .exit (passGate .g0 .up))
  | down => exact (addAll_longer x .carrying carryDown).trans (addAll_longer _ .exit (passGate .g3 .down))

theorem enter_longer (x : Draft) (d : Direction) : Draft.Longer x (x.enter d) 3 0 := by
  cases d <;> exact addAll_longer x .entry _

/-- Settles O51: part by part, a plan grows by bounded numbers of steps, and each part leaves the gates shut. -/
theorem plansAreBoundedAndSafe : Obligations.PlansAreBoundedAndSafe := by
  unfold Obligations.PlansAreBoundedAndSafe
  intro f d cc plan
  have clear : (planFrom f d cc).Clear f := by
    refine carry_clear (commitStep_clear (addAll_passGate ?_ .entry _ d) cc) d
    rw [set_eq]
    exact addAll_transfers (prepare_clear f) .setting _
  obtain ⟨a, ha, prepared⟩ := prepare_longer { flight := f, steps := [] }
  have set_ := addAll_longer (Draft.prepare { flight := f, steps := [] }) .setting
    ((settingGates (Draft.prepare { flight := f, steps := [] }).flight d).map .transfer)
  rw [← set_eq, settingGates_draws, List.length_map] at set_
  have few := settingGates_length (Draft.prepare { flight := f, steps := [] }).flight d
  obtain ⟨c1, c2, -⟩ := prepare_chambers { flight := f, steps := [] }
  rw [c1, c2] at set_
  obtain ⟨b, hb, committed⟩ := commitStep_longer (((Draft.prepare { flight := f, steps := [] }).set d).enter d) cc
  have whole := (((prepared.trans set_).trans (enter_longer _ d)).trans committed).trans (carry_longer _ d)
  have length : plan.length = _ := whole.length
  have count : draws plan = _ := whole.draws
  simp only [List.length_nil] at length
  refine ⟨by omega, by omega, ?_, fun i x g at_ needs => clear.shut i x at_ ?_⟩
  · refine count.trans ?_
    cases d with
    | up => simp only [draws, List.filter_nil, List.length_nil]; omega
    | down => simp only [draws, List.filter_nil, List.length_nil]; omega
  · rcases needs with work | work <;> rw [work] <;> trivial

end Sys2Proof.Machine
end

section
/-! PROOFS. What an announced reach can change while nothing runs (R8, R28, R34). -/

namespace Sys2Proof.Machine

variable {p q r : Part}

/-! ### A part at rest -/

/-- A change while nothing runs: each chamber's record stands or has been examined with its isolation as it was. -/
structure Rests (p q : Part) : Prop where
  mode : q.mode = p.mode
  inhibit : q.navInhibit = p.navInhibit
  turn : q.turn = p.turn
  settings : q.settings = p.settings
  isolated : ∀ c, q.isolated c = p.isolated c
  readings : ∀ x, (q.reaches.get x).reading = (p.reaches.get x).reading
  pound : ∀ x : Reach, x.chamber = none → q.reaches.get x = p.reaches.get x
  records : ∀ c : Chamber, q.reaches.get c.reach = p.reaches.get c.reach ∨ q.reaches.get c.reach = p.examined c

theorem Rests.refl (p : Part) : Rests p p :=
  ⟨rfl, rfl, rfl, rfl, fun _ => rfl, fun _ => rfl, fun _ _ => rfl, fun _ => .inl rfl⟩

/-- A record that stands or was examined is examined to the same again. -/
theorem Rests.examined (h : Rests p q) (c : Chamber) : q.examined c = p.examined c := by
  have levels : q.level c.reach = p.level c.reach := level_of_reading c.reach (h.readings _) h.settings
  have isolated := h.isolated c
  rcases h.records c with same | here
  · unfold Part.examined
    rw [isolated, same, levels]
  · unfold Part.examined at here ⊢
    rw [isolated, levels]
    split
    · next iso =>
      rw [if_pos iso] at here
      rw [here]
      split
      · next both => rw [if_pos both] at *; split <;> rfl
      · rfl
    · next iso => rw [if_neg iso] at here; rw [here]

theorem Rests.trans (a : Rests p q) (b : Rests q r) : Rests p r where
  mode := b.mode.trans a.mode
  inhibit := b.inhibit.trans a.inhibit
  turn := b.turn.trans a.turn
  settings := b.settings.trans a.settings
  isolated c := (b.isolated c).trans (a.isolated c)
  readings x := (b.readings x).trans (a.readings x)
  pound x h := (b.pound x h).trans (a.pound x h)
  records c := by
    rcases b.records c with same | here
    · rw [same]
      exact a.records c
    · exact .inr (here.trans (a.examined c))

theorem Rests.foldl {α : Type} (f : Part → α → Part) (xs : List α)
    (h : ∀ q : Part, q.mode = p.mode → ∀ x, Rests q (f q x)) : Rests p (xs.foldl f p) := by
  suffices all : ∀ q : Part, q.mode = p.mode → Rests q (xs.foldl f q) from all p rfl
  induction xs with
  | nil => exact fun q _ => .refl q
  | cons x xs ih =>
    intro q mode
    have one := h q mode x
    exact one.trans (ih _ (one.mode.trans mode))

/-- A change of what no reach and no isolation reads. -/
theorem rests_same (mode : q.mode = p.mode) (inhibit : q.navInhibit = p.navInhibit) (turn : q.turn = p.turn)
    (settings : q.settings = p.settings) (reaches : q.reaches = p.reaches) (gates : q.gates = p.gates)
    (positions : ∀ k, (q.sluices.get k).position = (p.sluices.get k).position) : Rests p q :=
  ⟨mode, inhibit, turn, settings, fun c => by simp only [Part.isolated, gates, positions],
    fun x => by rw [reaches], fun x _ => by rw [reaches], fun c => .inl (by rw [reaches])⟩

/-- A sluice record at the position it has. -/
theorem putSluice_rests (p : Part) (k : Sluice) (x : SluiceRec) (position : x.position = (p.sluices.get k).position) :
    Rests p (p.putSluice k x) := by
  have isolated : ∀ c, (p.putSluice k x).isolated c = p.isolated c := fun c => by
    have same : p.isolated c = Part.isolated { p with sluices := p.sluices.set k (p.sluices.get k) } c := by
      rw [Four.set_get]
    rw [same]
    exact isolated_put p k (p.sluices.get k) x position c
  refine ⟨rfl, rfl, rfl, rfl, isolated, fun y => examineIsolation_reading _ y,
    fun y h => examineIsolation_pound _ y h, fun c => .inr ?_⟩
  exact (examineIsolation_reach _ c).trans (examined_congr c (isolated c) rfl rfl)

/-- A gate record as CLOSED as it was. -/
theorem putGate_rests (p : Part) (g : Gate) (x : GateRec)
    (closed : x.state = .closed ↔ (p.gates.get g).state = .closed) : Rests p (p.putGate g x) := by
  have isolated : ∀ c, Part.isolated { p with gates := p.gates.set g x } c = p.isolated c := fun c => by
    have same : ∀ j, decide (((p.gates.set g x).get j).state = .closed) = decide ((p.gates.get j).state = .closed) :=
      fun j => by
        rw [Four.get_set]
        split
        · next e => rw [e]; exact decide_eq_decide.mpr closed
        · rfl
    simp only [Part.isolated, same]
  refine ⟨putGate_mode p g x, putGate_navInhibit p g x, putGate_turn p g x, putGate_settings p g x, fun c => ?_,
    putGate_reading p g x, fun y h => ?_, fun c => .inr ?_⟩
  · simp only [Part.isolated, putGate_gates, putGate_sluices]
    exact isolated c
  · rw [Part.putGate, refreshFaces_reaches]
    exact examineIsolation_pound _ y h
  · rw [Part.putGate, refreshFaces_reaches]
    exact (examineIsolation_reach _ c).trans (examined_congr c (isolated c) rfl rfl)

theorem report_rests (k : FaultKind) (x : Subject) (rests : p.mode ≠ .working ∧ p.mode ≠ .survey)
    (plain : k ≠ .eStop ∧ k ≠ .operatorHalt) : Rests p (p.report k x) := by
  rw [report_told p k x rests plain]
  exact rests_same rfl rfl rfl rfl rfl rfl fun _ => rfl

/-! ### The announcement (R8) -/

theorem retestGate_rests (g : Gate) (rests : p.mode ≠ .working ∧ p.mode ≠ .survey) : Rests p (p.retestGate g) := by
  unfold Part.retestGate
  dsimp only
  split
  · exact .refl p
  · have pause : (p.gates.get g).state = .opening →
        Rests p (p.putGate g { p.gates.get g with state := .stopped, drive := .off }) := fun state =>
      putGate_rests p g _ (by simp [state])
    split
    · next c state _ =>
      have paused := pause state
      exact paused.trans (report_rests _ _ (by rw [paused.mode]; exact rests) (sensorFault_plain c))
    · next state _ =>
      split
      · exact .refl p
      · exact pause state
    · next c _ _ => exact report_rests _ _ rests (sensorFault_plain c)
    · next state _ =>
      split
      · exact putGate_rests p g _ (by simp [state])
      · exact .refl p
    · exact .refl p

theorem rampNext_rests (k : Sluice) : Rests p (p.rampNext k) := by
  rw [rampNext_eq]
  exact putSluice_rests p k _ (ramped_position _ _ _ _)

theorem beginClosing_rests (k : Sluice) : Rests p (p.beginClosing k) := by
  rw [beginClosing_eq]
  exact putSluice_rests p k _ (toClose_position _ _)

/-- An end of a transfer, or a head draw counted, moves no sluice. -/
theorem endTransfer_rests (k : Sluice) : Rests p (p.endTransfer k) := by
  unfold Part.endTransfer
  have positions : ∀ j, ((p.sluices.set k { p.sluices.get k with
      transfer := none, trim := 0, rampTimer := none, due := false }).get j).position = (p.sluices.get j).position :=
    fun j => by
      rw [Four.get_set]
      split
      · next e => rw [e]
      · rfl
  dsimp only
  split
  · split
    · exact rests_same rfl rfl rfl rfl rfl rfl positions
    · exact rests_same rfl rfl rfl rfl rfl rfl positions
  · exact rests_same rfl rfl rfl rfl rfl rfl positions

/-- A record with a transfer requested of it (R32). -/
def SluiceRec.requested (x : SluiceRec) (limit : Option Nat) (n : Nat) : SluiceRec :=
  { x with trim := 0, transfer := some ⟨.ramping, limit, n⟩, rampTimer := none, due := true, waiting := none }

theorem recordTransfer_rests (k : Sluice) (n : Nat) (rests : p.mode ≠ .working ∧ p.mode ≠ .survey) :
    Rests p (p.recordTransfer k n) := by
  unfold Part.recordTransfer
  dsimp only
  refine .trans (putSluice_rests p k ((p.sluices.get k).requested (p.transferLimit k) n) rfl) ?_
  split
  · exact beginClosing_rests k
  · next c _ =>
    have ramped := rampNext_rests 
      (p := p.putSluice k ((p.sluices.get k).requested (p.transferLimit k) n)) k
    exact ramped.trans (report_rests _ _ (by rw [ramped.mode]; exact rests) (sensorFault_plain c))
  · exact rampNext_rests k

theorem finishTransfer_rests (k : Sluice) (rests : p.mode ≠ .working ∧ p.mode ≠ .survey) : Rests p (p.finishTransfer k) := by
  have ended := endTransfer_rests (p := p) k
  have unread : ∀ (q : Part) (n : Nat), q.mode = p.mode → q.transferReported k n = q := fun q n mode =>
    transferReported_other q k n (by rw [mode]; exact rests.1)
  unfold Part.finishTransfer
  dsimp only
  split
  · split
    · next m _ =>
      have begun := recordTransfer_rests k m (p := p.endTransfer k) (by rw [ended.mode]; exact rests)
      unfold Part.startWaiting
      dsimp only
      split
      · have again := endTransfer_rests (p := (p.endTransfer k).recordTransfer k m) k
        rw [unread _ _ (again.mode.trans (begun.mode.trans ended.mode))]
        exact (ended.trans begun).trans again
      · exact ended.trans begun
    · rw [unread _ _ ended.mode]
      exact ended
    · exact .refl p
  · exact .refl p

theorem announceTransfer_rests (k : Sluice) (rests : p.mode ≠ .working ∧ p.mode ≠ .survey) : Rests p (p.announceTransfer k) := by
  unfold Part.announceTransfer
  split
  · split
    · have closing := beginClosing_rests (p := p) k
      exact closing.trans (finishTransfer_rests k (by rw [closing.mode]; exact rests))
    · next c _ =>
      have ramped := rampNext_rests (p := p) k
      exact ramped.trans (report_rests _ _ (by rw [ramped.mode]; exact rests) (sensorFault_plain c))
    · exact rampNext_rests k
  · exact .refl p

theorem announceOpen_other (x : Reach) (h : p.mode ≠ .working) : p.announceOpen x = p := by
  unfold Part.announceOpen
  split
  · split
    · exact reevaluateOpen_other p h
    · rfl
  · rfl

/-- An announced reach, while nothing runs. -/
theorem announce_rests (x : Reach) (rests : p.mode ≠ .working ∧ p.mode ≠ .survey) : Rests p (p.announce x) := by
  have gates : Rests p (x.gates.foldl Part.retestGate p) :=
    .foldl _ _ fun q mode g => retestGate_rests g (by rw [mode]; exact rests)
  have both : Rests p (x.gates.foldl Part.announceTransfer (x.gates.foldl Part.retestGate p)) :=
    gates.trans (.foldl _ _ fun q mode k => announceTransfer_rests k (by rw [mode, gates.mode]; exact rests))
  unfold Part.announce
  dsimp only
  generalize x.gates.foldl Part.announceTransfer (x.gates.foldl Part.retestGate p) = y at *
  rw [announceOpen_other x (by rw [both.mode]; exact rests.1)]
  split
  · exact both.trans (rests_same rfl rfl rfl rfl rfl rfl fun _ => rfl)
  · exact both

end Sys2Proof.Machine
end

section
/-! PROOFS. The loads of the settings groups (R65, R129, R146, R163 to R166). -/

namespace Sys2Proof.Machine

variable {p q r : Part}

/-! ### A field in its range (R163) -/

theorem clampInt_nearest {lo hi : Int} (h : lo ≤ hi) (v : Int) : clampInt lo hi v = nearest lo hi v := by
  unfold clampInt nearest
  split
  · omega
  · split <;> omega

theorem clampNat_nearest {lo hi : Nat} {a b : Int} (low : (lo : Int) = a) (high : (hi : Int) = b) (h : a ≤ b) (v : Int) :
    ((clampNat lo hi v : Nat) : Int) = nearest a b v := by
  subst low high
  rw [clampNat, clampInt_nearest h, Int.toNat_of_nonneg]
  unfold nearest
  omega

theorem loadReply_flags (flags : List Bool) : loadReply flags = flagReply flags := by
  have count : (flags.filter id).length = flags.count true := by
    induction flags with
    | nil => rfl
    | cons b flags ih => cases b <;> simp [ih]
  rw [loadReply, flagReply, count]

theorem rangeReply_flags (fields : List (Int × Int × Int)) : rangeReply fields = loadReply (fields.map outOfRange) := by
  have count : ((fields.map outOfRange).filter id).length = (fields.filter outOfRange).length := by
    rw [List.filter_map, List.length_map]
    rfl
  rw [loadReply, rangeReply, count, List.findIdx?_map]
  rfl

/-- A field that is never clamped, at the end, leaves the reply. -/
theorem loadReply_append_false (flags : List Bool) : loadReply (flags ++ [false]) = loadReply flags := by
  simp [loadReply, List.findIdx?_append]

/-! ### A load taken (R165) -/

theorem takeLoad_eq (tag : Tag) (flags : List Bool) (effect : Part → Part) {y : Part} (h : effect p.hushed = y) :
    p.takeLoad tag flags effect = p.replied tag (loadReply flags) y := acceptFirst_eq tag effect _ h

theorem ifLoads_taken {tag : Tag} (mode : p.mode = .startup ∨ p.mode = .rest) (q : Part) : p.ifLoads tag q = q := by
  rcases mode with m | m <;> simp [Part.ifLoads, modeLoads, m]

theorem ifLoads_refused {tag : Tag} (startup : p.mode ≠ .startup) (rest : p.mode ≠ .rest) (q : Part) :
    p.ifLoads tag q = p.refuse .a tag .notAtRest := by
  unfold Part.ifLoads
  cases m : p.mode <;> simp_all [modeLoads]

/-- An effect that sends nothing: its reply is the next message. -/
theorem replied_silent (tag : Tag) (d : ReplyData) {y : Part} (h : y.sent = p.hushed.sent) :
    p.replied tag d y = { y with sent := (p.send .a (.accepted tag (some p.link.conditions.any) d)).sent } := by
  unfold Part.replied
  rw [h]
  rfl

theorem takeLoad_silent (tag : Tag) (flags : List Bool) (effect : Part → Part) {y : Part} (h : effect p.hushed = y)
    (silent : y.sent = p.hushed.sent) : p.takeLoad tag flags effect
      = { y with sent := (p.send .a (.accepted tag (some p.link.conditions.any) (loadReply flags))).sent } :=
  (takeLoad_eq tag flags effect h).trans (replied_silent tag _ silent)

/-- At STARTUP, and at REST under NAV-INHIBIT, an arrival changes the turn selector alone. -/
theorem loads_settled {y : Part} (h : y.mode = .startup ∨ (y.mode = .rest ∧ y.navInhibit = true)) (a b : Bool) :
    ∃ t, y.settle a b = { y with turn := t } ∧ TurnIdle y.turn t := by
  rcases h with mode | ⟨mode, inhibit⟩
  · exact quiet_settled (by rw [mode]; exact ⟨by decide, by decide⟩) a b
  · exact inhibited_settled (by rw [mode]; decide) inhibit a b

theorem loads_mode (h : p.mode = .startup ∨ (p.mode = .rest ∧ p.navInhibit = true)) : p.mode = .startup ∨ p.mode = .rest :=
  h.imp_right And.left

theorem ofIndex_index (x : Reach) : Reach.ofIndex x.index = some x := by cases x <;> rfl

theorem ofIndex_beyond {i : Nat} (h : 4 < i) : Reach.ofIndex i = none := by
  match i with
  | n + 5 => rfl

theorem isPound_iff (x : Reach) : x.isPound = true ↔ x = .head ∨ x = .tail := by cases x <;> decide

/-! ### FLIGHT and REACH (R18, R166) -/

/-- The part with a FLIGHT group stored and the calls derived again. -/
def Part.withFlight (p : Part) (g : Flight) : Part := (p.store fun s => { s with flight := some g }).deriveCalls

theorem derived_calls (p : Part) (t : TurnSelector) (w : Three (List Msg)) :
    ({ p.deriveCalls with turn := t, sent := w }).calls = ({ p.deriveCalls with turn := t, sent := w }).presentCalls := rfl

/-- The part with a REACH group stored and its reach restarted. -/
def Part.withReach (p : Part) (x : Reach) (g : ReachGroup) : Part :=
  { p with
    settings := { p.settings with reach := p.settings.reach.set x (some g) }
    reaches := p.reaches.set x (p.reaches.get x).restarted }

theorem applyReach_eq (x : Reach) (g : ReachGroup) : p.applyReach x g
    = ((p.withReach x g).announce x).settle (decide ((p.reaches.get x).cls ≠ .settling)) := rfl

/-- A reach in SETTLING with no isolation recorded is left so by an announcement while nothing runs. -/
theorem Rests.settling (h : Rests p q) {x : Reach} (cls : (p.reaches.get x).cls = .settling)
    (level : (p.reaches.get x).isolationLevel = none) (drift : (p.reaches.get x).driftReported = false) :
    q.reaches.get x = p.reaches.get x := by
  cases chamber : x.chamber with
  | none => exact h.pound x chamber
  | some c =>
    obtain rfl : x = c.reach := by cases x <;> cases chamber <;> rfl
    rcases h.records c with same | here
    · exact same
    · rw [here, Part.examined]
      split
      · rw [if_neg (fun both => by rw [cls] at both; cases both.2)]
      · rw [← level, ← drift]

theorem reachClamped_eq (x : Reach) (v : ReachLoad) : loadReply (reachClamped v x)
    = rangeReply ([(0, 4095, v.zero), (500, 20000, v.span), (-5000, 30000, v.datum), (0, 4095, v.rmin),
        ((lowRaw v : Int), 4095, v.rmax), (0, 255, v.jump)]
      ++ if x = .head ∨ x = .tail then [] else [(10, 500, v.drift)]) := by
  rw [rangeReply_flags]
  by_cases pound : x.isPound = true
  · rw [if_pos ((isPound_iff x).1 pound), reachClamped, pound]
    exact loadReply_append_false [_, _, _, _, _, _]
  · rw [if_neg (mt (isPound_iff x).2 pound), reachClamped, Bool.eq_false_iff.2 pound]
    rfl

/-- Settles O52: each field goes to the nearest value of its range, and the announced reach stays SETTLING. -/
theorem flightAndReachLoads : Obligations.FlightAndReachLoads := by
  unfold Obligations.FlightAndReachLoads
  intro tag s m
  refine ⟨fun startup rest c load => ?_, fun still => ⟨fun v => ?_, fun x v => ?_, fun i v beyond => ?_⟩⟩
  · rcases load with ⟨_, rfl⟩ | ⟨_, _, rfl⟩ | ⟨_, rfl⟩ | ⟨_, rfl⟩ | ⟨_, rfl⟩ | ⟨_, rfl⟩ | ⟨_, rfl⟩ <;>
      exact exec_eq rfl (ifLoads_refused startup rest _)
  · obtain ⟨t, settled, idle⟩ := loads_settled (y := s.part.hushed.withFlight (storeFlight v)) still false false
    have run := exec_eq (c := .loadFlight tag v) (s := s) rfl
      ((ifLoads_taken (loads_mode still) _).trans (takeLoad_silent tag (flightClamped v) _ settled rfl))
    refine ⟨_, storeFlight v, run, ?_, clampNat_nearest rfl rfl (by decide) _, clampNat_nearest rfl rfl (by decide) _,
      clampNat_nearest rfl rfl (by decide) _, clampInt_nearest (by decide) _, clampInt_nearest (by decide) _,
      clampInt_nearest (by decide) _, clampInt_nearest (by decide) _, clampInt_nearest (by decide) _,
      clampInt_nearest (by decide) _, clampInt_nearest (by decide) _, fun k => ?_, derived_calls _ t _, idle⟩
    · rw [rangeReply_flags]
      rfl
    · refine (Four.get_map ..).trans (clampInt_nearest (by decide) _)
  · have rests := announce_rests (p := s.part.hushed.withReach x (storeReach v x)) x
      (by rcases still with mode | ⟨mode, -⟩ <;> exact ⟨mode ▸ by decide, mode ▸ by decide⟩)
    have run := exec_eq (c := .loadReach tag x.index v) (s := s) rfl (ifLoads_taken (loads_mode still) _)
    rw [ofIndex_index] at run
    dsimp only at run
    rw [takeLoad_eq tag (reachClamped v x) _ (applyReach_eq x (storeReach v x)), reachClamped_eq] at run
    have settling : (s.part.hushed.withReach x (storeReach v x)).reaches.get x = (s.part.reaches.get x).restarted :=
      Five.get_set_self ..
    have stands := rests.settling (x := x) (by rw [settling]; rfl) (by rw [settling]; rfl) (by rw [settling]; rfl)
    generalize (s.part.hushed.withReach x (storeReach v x)).announce x = y at run rests stands
    obtain ⟨t, settled, idle⟩ := loads_settled (y := y) (by rw [rests.mode, rests.inhibit]; exact still)
      (decide ((s.part.hushed.reaches.get x).cls ≠ .settling)) false
    rw [settled] at run
    refine ⟨_, storeReach v x, run, rests.settings, clampInt_nearest (by decide) _, clampInt_nearest (by decide) _,
      clampInt_nearest (by decide) _, clampNat_nearest rfl rfl (by decide) _, clampNat_nearest rfl rfl ?_ _, clampNat_nearest rfl rfl (by decide) _,
      ?_, stands.trans settling, ?_, replied_grows tag _ _⟩
    · have low := clampNat_nearest (lo := 0) (hi := 4095) rfl rfl (by decide) v.rmin
      change ((lowRaw v : Nat) : Int) ≤ 4095
      rw [lowRaw, low]
      unfold nearest
      omega
    · by_cases pound : x.isPound = true
      · rw [if_pos ((isPound_iff x).1 pound), storeReach, pound]
        rfl
      · rw [if_neg (mt (isPound_iff x).2 pound), storeReach, Bool.eq_false_iff.2 pound]
        exact congrArg some (clampInt_nearest (by decide) _)
    · exact rests.turn ▸ idle
  · refine exec_eq rfl ((ifLoads_taken (loads_mode still) _).trans ?_)
    rw [ofIndex_beyond beyond]

/-! ### WORKS and TARIFF (R129, R164) -/

theorem storeWindow_nearest (v : Int) : ((storeWindow v : Nat) : Int) = if v ≤ 0 then 0 else nearest 10 900 v := by
  unfold storeWindow
  split
  · rfl
  · exact clampNat_nearest rfl rfl (by decide) v

theorem classMap_get {α β : Type} (f : α → β) (v : PerClass α) (c : VesselClass) : (classMap f v).get c = f (v.get c) := by
  cases c <;> rfl

theorem map_clampNat {lo hi : Nat} {a b : Int} (low : (lo : Int) = a) (high : (hi : Int) = b) (h : a ≤ b) (vs : List Int) :
    (vs.map (clampNat lo hi)).map Int.ofNat = vs.map (nearest a b) := by
  rw [List.map_map]
  exact List.map_congr_left fun v _ => clampNat_nearest low high h v

/-- Settles O53: the group is stored field by field, and only settings and the reply change. -/
theorem worksAndTariffLoads : Obligations.WorksAndTariffLoads := by
  unfold Obligations.WorksAndTariffLoads
  intro tag s mode off answered
  refine ⟨fun v => ?_, fun v => ?_⟩
  · have run := exec_eq (c := .loadWorks tag v) (s := s) rfl ((ifLoads_taken mode _).trans
      (takeLoad_silent tag (worksClamped v) (fun q => q.store fun s => { s with works := some (storeWorks v) }) rfl rfl))
    rw [loadReply_flags] at run
    refine ⟨_, storeWorks v, run, rfl, fun k => ⟨?_, ?_, ?_, ?_, ?_⟩, clampNat_nearest rfl rfl (by decide) _,
      storeWindow_nearest _⟩ <;>
      exact (congrArg Int.ofNat (Four.get_map ..)).trans (clampNat_nearest rfl rfl (by decide) _)
  · have run := exec_eq (c := .loadTariff tag v) (s := s) rfl ((ifLoads_taken mode _).trans
      (takeLoad_silent tag (tariffClamped v) (fun q => q.store fun s => { s with tariff := some (storeTariff v) }) rfl rfl))
    rw [loadReply_flags] at run
    refine ⟨_, storeTariff v, run, rfl, fun c => ?_, clampNat_nearest rfl rfl (by decide) _,
      clampNat_nearest rfl rfl (by decide) _, clampNat_nearest rfl rfl (by decide) _, clampNat_nearest rfl rfl (by decide) _,
      map_clampNat rfl rfl (by decide) _, map_clampNat rfl rfl (by decide) _⟩
    have stored : (storeTariff v).classes.get c = storeClass (v.classes.get c) := classMap_get ..
    rw [stored]
    refine ⟨clampNat_nearest rfl rfl (by decide) _, clampNat_nearest rfl rfl (by decide) _,
      clampNat_nearest rfl rfl (by decide) _, clampNat_nearest rfl rfl (by decide) _, ?_⟩
    cases h : (v.classes.get c).exempt <;> simp [storeClass, h]

/-! ### TURNS, OUTLETS and RESPONSES (R65, R66, R115, R146, R182) -/

theorem storeTurns_get {v : List TurnEntryLoad} {i : Nat} {x : TurnEntryLoad} (h : v[i]? = some x) :
    (storeTurns v)[i]? = some { action := storeAction x.action i, cls := x.cls.getD .c } := by
  simp [storeTurns, storeTurnEntry, List.getElem?_zipIdx, h]

theorem turnsClamped_get {v : List TurnEntryLoad} {i : Nat} {x : TurnEntryLoad} (h : v[i]? = some x) :
    (turnsClamped v)[i]? = some (decide (x.action ≠ some (storeAction x.action i)) || x.cls.isNone) := by
  simp [turnsClamped, turnEntryClamped, List.getElem?_zipIdx, h, eq_comm]

/-- The tests of R146. -/
def OutletUnit.Busy (u : OutletUnit) (g : OutletsGroup) : Prop :=
  (g.authorityEnable ≠ u.outlets.b.enabled ∧ u.outlets.b.queue ≠ [])
    ∨ (g.quayEnable ≠ u.outlets.c.enabled ∧ u.outlets.c.queue ≠ [])
    ∨ (g.accountsDepth ≠ u.outlets.a.depth ∧ u.outlets.a.queue ≠ [])
    ∨ (g.authorityDepth ≠ u.outlets.b.depth ∧ u.outlets.b.queue ≠ [])
    ∨ (g.quayDepth ≠ u.outlets.c.depth ∧ u.outlets.c.queue ≠ [])
    ∨ (∃ forced periodic, u.tally = .pending forced periodic) ∨ (∃ n, u.tally = .outstanding n)
    ∨ (g.interval ≠ 0 ∧ g.interval ≤ u.counters.lockageRecords)

theorem inTheWay_iff (x : TallyState) :
    x.inTheWay = true ↔ (∃ forced periodic, x = .pending forced periodic) ∨ ∃ n, x = .outstanding n := by
  cases x <;> simp [TallyState.inTheWay]

theorem busy_iff (u : OutletUnit) (g : OutletsGroup) : u.busy g = true ↔ u.Busy g := by
  simp only [OutletUnit.busy, OutletUnit.Busy, Bool.or_eq_true, Bool.and_eq_true, decide_eq_true_eq, inTheWay_iff,
    Bool.not_eq_true', List.isEmpty_eq_false_iff, or_assoc]

theorem getD_halt (x : Option Response) : x.getD .halt = .continue_ ↔ x = some .continue_ := by
  rcases x with _ | _ | _ <;> simp

theorem getD_false (x : Option Bool) : x.getD false = true ↔ x = some true := by
  rcases x with _ | _ | _ <;> simp

theorem watchdogPeriod_code {n : Nat} (h : n ≤ 7) : watchdogPeriod n =
    [none, some 5000, some 10000, some 20000, some 30000, some 60000, some 120000, some 300000].getD n none := by
  match n with
  | 0 | 1 | 2 | 3 | 4 | 5 | 6 | 7 => rfl
  | n + 8 => omega

/-- The part with the TURNS group stored and the hold ended. -/
def Part.withTurns (p : Part) (ts : List TurnEntry) : Part :=
  { p with settings := { p.settings with turns := some ts }, turn := { p.turn with rejectHold := none } }

theorem applyTurns_rest (rest : p.mode = .rest) (inhibit : p.navInhibit = true) (ts : List TurnEntry) :
    ∃ t, p.applyTurns ts = { p with settings := { p.settings with turns := some ts }, turn := t }
      ∧ t.rejectHold = none ∧ TurnIdle p.turn t := by
  have settled := settle_inhibited (p.withTurns ts) false true (by change p.mode ≠ _; rw [rest]; decide) inhibit
  have idle := recompute_idle (recompute_inhibited (p.withTurns ts) inhibit)
  exact ⟨_, (if_pos rest).trans settled, rfl, idle⟩

theorem applyTurns_startup (startup : p.mode = .startup) (ts : List TurnEntry) :
    p.applyTurns ts = { p with settings := { p.settings with turns := some ts } } :=
  if_neg (by change p.mode ≠ _; rw [startup]; decide)

/-- The part with the OUTLETS group stored and taken by the outlet unit. -/
def Part.withOutlets (p : Part) (g : OutletsGroup) : Part :=
  { p with settings := { p.settings with outlets := some g }, outlets := p.outlets.configure g }

theorem applyResponses_eq (g : Responses) : p.applyResponses g = { p with
    settings := { p.settings with responses := some g }
    link := { p.link with watchdog := if p.link.armed then watchdogPeriod g.periodCode else p.link.watchdog } } := by
  by_cases armed : p.link.armed = true
  · rw [if_pos armed]
    exact if_pos armed
  · rw [if_neg armed]
    exact if_neg armed

/-- Settles O54: entry by entry, by R146's tests, and with the watchdog's period. -/
theorem turnsOutletsAndResponsesLoads : Obligations.TurnsOutletsAndResponsesLoads := by
  unfold Obligations.TurnsOutletsAndResponsesLoads
  intro tag s still off answered
  refine ⟨fun v => ?_, fun v => ?_, fun v => ?_⟩
  · have entries : ∀ (i : Nat) (x : TurnEntryLoad), v[i]? = some x →
        (storeTurns v)[i]? = some { action := storeAction x.action i, cls := x.cls.getD .c }
          ∧ (turnsClamped v)[i]? = some (decide (x.action ≠ some (storeAction x.action i)) || x.cls.isNone) :=
      fun i x h => ⟨storeTurns_get h, turnsClamped_get h⟩
    have named : ∀ (a : Option Action) (i : Nat), storeAction a i = match a with
        | some .up => if i % 2 = 1 then .up else .hold
        | some .down => if i / 2 % 2 = 1 then .down else .hold
        | some .reject => .reject
        | _ => .hold := fun a i => by rcases a with _ | _ | _ | _ | _ <;> rfl
    have taken {y : Part} (h : s.part.hushed.applyTurns (storeTurns v) = y) (silent : y.sent = s.part.hushed.sent) :
        exec (.loadTurns tag v) s = .next { s with part := { y with sent := answered (turnsClamped v) } } := by
      have run := exec_eq (c := .loadTurns tag v) (s := s) rfl ((ifLoads_taken (loads_mode still) _).trans
        (takeLoad_silent tag (turnsClamped v) (fun q => q.applyTurns (storeTurns v)) h silent))
      rw [loadReply_flags] at run
      exact run
    have lengths : (storeTurns v).length = v.length ∧ (turnsClamped v).length = v.length := by
      simp [storeTurns, turnsClamped]
    rcases still with startup | ⟨rest, inhibit⟩
    · refine ⟨_, storeTurns v, turnsClamped v, taken (applyTurns_startup (p := s.part.hushed) startup _) rfl, rfl, lengths.1, lengths.2,
        fun i x h => ?_, fun rest => ?_, fun _ => rfl⟩
      · intro action
        rw [show action = storeAction x.action i from (named x.action i).symm]
        exact entries i x h
      · rw [startup] at rest
        cases rest
    · obtain ⟨t, e, hold, idle⟩ := applyTurns_rest (p := s.part.hushed) rest inhibit (storeTurns v)
      refine ⟨_, storeTurns v, turnsClamped v, taken e rfl, rfl, lengths.1, lengths.2,
        fun i x h => ?_, fun _ => ⟨hold, idle⟩, fun startup => ?_⟩
      · intro action
        rw [show action = storeAction x.action i from (named x.action i).symm]
        exact entries i x h
      · rw [rest] at startup
        cases startup
  · refine ⟨storeOutlets v, getD_false _, getD_false _, clampNat_nearest rfl rfl (by decide) _,
      clampNat_nearest rfl rfl (by decide) _, clampNat_nearest rfl rfl (by decide) _, clampNat_nearest rfl rfl (by decide) _,
      fun busy => ?_, fun free => ?_⟩
    · exact exec_eq rfl ((ifLoads_taken (loads_mode still) _).trans (if_pos ((busy_iff _ _).2 busy)))
    · obtain ⟨t, settled, idle⟩ := loads_settled (y := s.part.hushed.withOutlets (storeOutlets v)) still false false
      have run := exec_eq (c := .loadOutlets tag v) (s := s) rfl ((ifLoads_taken (loads_mode still) _).trans
        ((if_neg (mt (busy_iff _ _).1 free)).trans
          (takeLoad_silent tag (outletsClamped v) (fun q => q.applyOutlets (storeOutlets v)) settled rfl)))
      rw [loadReply_flags] at run
      exact ⟨_, run, rfl, idle⟩
  · have run := exec_eq (c := .loadResponses tag v) (s := s) rfl ((ifLoads_taken (loads_mode still) _).trans
      (takeLoad_silent tag (responsesClamped v) (fun q => q.applyResponses (storeResponses v)) (applyResponses_eq _) rfl))
    rw [loadReply_flags] at run
    have code := clampNat_nearest (lo := 0) (hi := 7) rfl rfl (by decide) v.periodCode
    refine ⟨_, storeResponses v, run, rfl, ?_, code, getD_halt _, getD_halt _, getD_halt _, getD_halt _, getD_halt _,
      getD_halt _⟩
    rw [← watchdogPeriod_code]
    · rfl
    · change clampNat 0 7 v.periodCode ≤ 7
      unfold nearest at code
      omega

end Sys2Proof.Machine
end

section
/-! PROOFS. CAPTURE_DATUM (R19, R20). -/

namespace Sys2Proof.Machine

variable {p q r : Part}

/-! ### The request's tests (R19) -/

theorem reach_of_index {i : Nat} (h : i ≤ 4) : ∃ x : Reach, Reach.ofIndex i = some x ∧ x.index = i := by
  match i with
  | 0 => exact ⟨.head, rfl, rfl⟩
  | 1 => exact ⟨.c1, rfl, rfl⟩
  | 2 => exact ⟨.c2, rfl, rfl⟩
  | 3 => exact ⟨.c3, rfl, rfl⟩
  | 4 => exact ⟨.tail, rfl, rfl⟩
  | n + 5 => omega

theorem captureGroup_refused {x : Reach} {level : Int} (h : level < -5000 ∨ 30000 < level
    ∨ (p.reaches.get x).cls.ordered = false ∨ p.settings.reach.get x = none) : p.captureGroup x level = none := by
  unfold Part.captureGroup
  cases group : p.settings.reach.get x with
  | none => rfl
  | some g =>
    refine if_pos ?_
    rcases h with low | high | cls | unset
    · exact .inl low
    · exact .inr (.inl high)
    · exact .inr (.inr cls)
    · rw [group] at unset
      cases unset

theorem captureGroup_taken {x : Reach} {level : Int} {g : ReachGroup} {raw : Nat} (group : p.settings.reach.get x = some g)
    (ordered : (p.reaches.get x).cls.ordered = true) (last : (p.reaches.get x).previousRaw = some raw)
    (low : -5000 ≤ level) (high : level ≤ 30000) :
    p.captureGroup x level = some ({ g with zero := clampInt 0 4095 (capturedZero raw level g.datum g.span) },
      outside 0 4095 (capturedZero raw level g.datum g.span)) := by
  have tests : ¬ (level < lowLevel ∨ highLevel < level ∨ (p.reaches.get x).cls.ordered = false) := by
    rw [ordered, lowLevel, highLevel]
    simp
    omega
  unfold Part.captureGroup
  rw [group]
  refine (if_neg tests).trans ?_
  rw [last]
  rfl

theorem capturedZero_rounds (raw level datum : Int) {span : Int} (h : 0 < span) :
    RoundsAway ((level - datum) * 4096) span (raw - capturedZero raw level datum span) := by
  rw [capturedZero, Int.sub_sub_self]
  exact roundAway_roundsAway _ h

/-! ### The effect (R20) -/

/-- The part with a reach's group stored. -/
def Part.withGroup (p : Part) (x : Reach) (g : ReachGroup) : Part := p.store fun s => { s with reach := s.reach.set x (some g) }

/-- The isolation level a capture leaves in an isolated chamber's record. -/
def Part.recaptured (p : Part) (x : Reach) : Part :=
  match x.chamber with
  | some c => p.recapture c
  | none => p

/-- The part before the end of a capture's event. -/
def Part.zeroWritten (p : Part) (x : Reach) (g : ReachGroup) : Part :=
  (((p.withGroup x g).recaptured x).driftOf x).announce x

theorem applyZero_eq (x : Reach) (g : ReachGroup) : p.applyZero x g = (p.zeroWritten x g).settle := by
  unfold Part.applyZero Part.zeroWritten Part.recaptured Part.withGroup
  cases x <;> rfl

theorem recaptured_worked (p : Part) (x : Reach) : Worked p (p.recaptured x) := by
  unfold Part.recaptured
  split
  · exact recapture_worked _ _
  · exact .refl p

theorem recapture_isolated {c : Chamber} (h : p.isolated c = true) : p.recapture c = { p with
    reaches := p.reaches.set c.reach { p.reaches.get c.reach with
      isolationLevel := if (p.reaches.get c.reach).cls = .valid then p.level c.reach else none, driftReported := false } } :=
  if_pos h

/-- The level an isolation has just recorded shows no drift (R20). -/
theorem recapture_drifts {c : Chamber} {g : ReachGroup} {d : Int} (isolated : p.isolated c = true)
    (group : p.settings.reach.get c.reach = some g) (drift : g.drift = some d) (nonneg : 0 ≤ d) :
    (p.recapture c).drifts c = false := by
  have level : (p.recapture c).level c.reach = p.level c.reach := by
    rw [recapture_isolated isolated]
    exact level_of_reading c.reach (by simp [ReachRec.reading]) rfl
  have record : ((p.recapture c).reaches.get c.reach).isolationLevel
      = if (p.reaches.get c.reach).cls = .valid then p.level c.reach else none := by
    rw [recapture_isolated isolated]
    simp
  have cls : ((p.recapture c).reaches.get c.reach).cls = (p.reaches.get c.reach).cls := by
    rw [recapture_isolated isolated]
    simp
  have settings : (p.recapture c).settings = p.settings := by rw [recapture_isolated isolated]
  unfold Part.drifts
  rw [level, record, cls, settings, group]
  by_cases valid : (p.reaches.get c.reach).cls = .valid
  · rw [if_pos valid]
    cases p.level c.reach <;> simp [drift, valid, driftProven]; omega
  · rw [if_neg valid]
    cases p.level c.reach <;> rfl

/-- What an isolated chamber's capture leaves in its record, once the reach has been announced at rest. -/
theorem capture_record {c : Chamber} {g : ReachGroup} {d : Int} (isolated : p.isolated c = true)
    (group : p.settings.reach.get c.reach = some g) (drift : g.drift = some d) (nonneg : 0 ≤ d)
    (rests : p.mode ≠ .working ∧ p.mode ≠ .survey) :
    ((((p.recapture c).driftTest c).announce c.reach).reaches.get c.reach) = (p.recapture c).reaches.get c.reach := by
  have none := recapture_drifts isolated group drift nonneg
  have still : (p.recapture c).driftTest c = p.recapture c := by
    unfold Part.driftTest
    rw [if_neg (fun both => by rw [none] at both; cases both.1)]
  rw [still]
  have form := recapture_isolated isolated
  have mode : (p.recapture c).mode = p.mode := by rw [form]
  have rest := announce_rests (p := p.recapture c) c.reach (by rw [mode]; exact rests)
  rcases rest.records c with same | here
  · exact same
  · have still' : (p.recapture c).isolated c = true := by rw [form]; exact isolated
    rw [here, Part.examined, if_pos still']
    split
    · next both =>
      have level : (p.recapture c).level c.reach = p.level c.reach := by
        rw [form]
        exact level_of_reading c.reach (by simp [ReachRec.reading]) rfl
      obtain ⟨unset, valid⟩ := both
      have valid' : (p.reaches.get c.reach).cls = .valid := by
        rw [form] at valid
        simpa using valid
      have recorded : ((p.recapture c).reaches.get c.reach).isolationLevel = p.level c.reach := by
        rw [form]
        simp [valid']
      rw [level, ← recorded]
    · rfl

/-- The part with drift marked as reported (R17). -/
def Part.driftMarked (p : Part) (c : Chamber) : Part :=
  { p with reaches := p.reaches.set c.reach { p.reaches.get c.reach with driftReported := true } }

theorem driftTest_eq (c : Chamber) : p.driftTest c = if p.drifts c ∧ (p.reaches.get c.reach).driftReported = false then
    (p.driftMarked c).report .levelDrift (.chamber c) else p := rfl

theorem driftOf_mode (x : Reach) (rests : p.mode ≠ .working ∧ p.mode ≠ .survey) : (p.driftOf x).mode = p.mode := by
  unfold Part.driftOf
  split
  · next c _ =>
    rw [driftTest_eq]
    split
    · rw [report_told (p.driftMarked c) .levelDrift (.chamber c) rests ⟨by decide, by decide⟩]
      rfl
    · rfl
  · rfl

theorem zeroWritten_moved (x : Reach) (g : ReachGroup) : Moved (p.withGroup x g) (p.zeroWritten x g) :=
  (((recaptured_worked _ x).trans (driftOf_worked _ x)).onward.trans (announce_onward _ x)).toMoved

theorem zeroWritten_mode (x : Reach) (g : ReachGroup) (rest : p.mode = .rest) : (p.zeroWritten x g).mode = .rest := by
  have first : ((p.withGroup x g).recaptured x).mode = .rest := by
    have same : ((p.withGroup x g).recaptured x).mode = p.mode := by
      unfold Part.recaptured Part.recapture
      split
      · dsimp only; split <;> rfl
      · rfl
    exact same.trans rest
  have rests : ∀ q : Part, q.mode = .rest → q.mode ≠ .working ∧ q.mode ≠ .survey := fun q h => by rw [h]; decide
  have second := (driftOf_mode x (rests _ first)).trans first
  exact (announce_rests x (rests _ second)).mode.trans second

/-- What a capture leaves at REST under NAV-INHIBIT. -/
theorem applyZero_leaves (x : Reach) (g : ReachGroup) (rest : p.mode = .rest) (inhibit : p.navInhibit = true) :
    (p.applyZero x g).settings = { p.settings with reach := p.settings.reach.set x (some g) }
      ∧ p.sent.a <+: (p.applyZero x g).sent.a
      ∧ ((p.applyZero x g).reaches.get x).reading = (p.reaches.get x).reading
      ∧ ∀ c d, x.chamber = some c → p.isolated c = true → g.drift = some d → 0 ≤ d →
          ((p.applyZero x g).reaches.get x).isolationLevel
              = (if (p.reaches.get x).cls = .valid then (p.applyZero x g).level x else none)
            ∧ ((p.applyZero x g).reaches.get x).driftReported = false := by
  have moved := zeroWritten_moved (p := p) x g
  have settled := settle_inhibited (p.zeroWritten x g) false false (by rw [zeroWritten_mode x g rest]; decide)
    ((congrArg Part.navInhibit moved.base :).trans inhibit)
  have settings : (p.zeroWritten x g).settings = (p.withGroup x g).settings := (congrArg Part.settings moved.base :)
  rw [applyZero_eq, settled, recompute_settings, recompute_sent, recompute_reaches]
  refine ⟨settings, moved.sent .a, moved.reading x, fun c d chamber isolated drift nonneg => ?_⟩
  obtain rfl : x = c.reach := by cases x <;> cases chamber <;> rfl
  have record : (p.zeroWritten c.reach g).reaches.get c.reach = ((p.withGroup c.reach g).recapture c).reaches.get c.reach := by
    have same : ((p.withGroup c.reach g).recaptured c.reach).driftOf c.reach
        = ((p.withGroup c.reach g).recapture c).driftTest c := by cases c <;> rfl
    have rests : (p.withGroup c.reach g).mode ≠ .working ∧ (p.withGroup c.reach g).mode ≠ .survey := by
      change p.mode ≠ _ ∧ p.mode ≠ _
      rw [rest]
      decide
    unfold Part.zeroWritten
    rw [same]
    exact capture_record (g := g) isolated (Five.get_set_self ..) drift nonneg rests
  have level : ((p.zeroWritten c.reach g).recompute).level c.reach = (p.withGroup c.reach g).level c.reach :=
    level_of_reading c.reach (moved.reading c.reach) settings
  rw [record, recapture_isolated (p := p.withGroup c.reach g) isolated, level]
  simp only [Five.get_set_self]
  exact ⟨rfl, trivial⟩

/-- Settles O20: the tests in order, the zero of R19, and the capture's own level as the isolation's. -/
theorem captureMovesTheZero : Obligations.CaptureMovesTheZero := by
  unfold Obligations.CaptureMovesTheZero
  refine ⟨fun tag i level s => ?_, fun tag x level s g raw rest inhibit group ordered last low high span => ?_⟩
  · intro refused
    refine ⟨fun other => exec_eq rfl (if_pos other), fun rest bad => ?_⟩
    have answer (h : ∀ x, Reach.ofIndex i = some x → s.part.captureGroup x level = none) : refused .badValue := by
      refine exec_eq rfl ((if_neg (not_not_intro rest)).trans ?_)
      cases found : Reach.ofIndex i with
      | none => rfl
      | some x =>
        dsimp only
        rw [h x found]
    rcases bad with beyond | low | high | ⟨x, index, fails⟩
    · refine answer fun x found => ?_
      rw [ofIndex_beyond beyond] at found
      cases found
    · exact answer fun x _ => captureGroup_refused (.inl low)
    · exact answer fun x _ => captureGroup_refused (.inr (.inl high))
    · refine answer fun y found => ?_
      rw [← index, ofIndex_index] at found
      cases found
      exact captureGroup_refused (.inr (.inr fails))
  · generalize hz : capturedZero raw level g.datum g.span = z
    have rounds := capturedZero_rounds raw level g.datum (span := g.span) (by omega)
    have taken := captureGroup_taken group ordered last low high
    rw [hz] at taken rounds
    have run : exec (.captureDatum tag x.index level) s = .next { s with part := ((s.part.accept .a tag
        (.datum (clampInt 0 4095 z) (outside 0 4095 z))).applyZero x { g with zero := clampInt 0 4095 z }) } := by
      refine exec_eq rfl ((if_neg (not_not_intro rest)).trans ?_)
      rw [ofIndex_index]
      dsimp only
      rw [taken]
    have flag : outside 0 4095 z = decide (z < 0 ∨ 4095 < z) := (Bool.decide_or ..).symm
    rw [clampInt_nearest (by decide) z, flag] at run
    obtain ⟨settings, sent, reading, isolation⟩ := applyZero_leaves
      (p := s.part.accept .a tag (.datum (nearest 0 4095 z) (decide (z < 0 ∨ 4095 < z)))) x
      { g with zero := nearest 0 4095 z } rest inhibit
    generalize (s.part.accept .a tag (.datum (nearest 0 4095 z) (decide (z < 0 ∨ 4095 < z)))).applyZero x
      { g with zero := nearest 0 4095 z } = q at *
    have cls : (q.reaches.get x).cls = (s.part.reaches.get x).cls := (congrArg ReachRec.cls reading :)
    refine ⟨q, z, run, rounds, settings, sent, (congrArg ReachRec.window reading :),
      (congrArg ReachRec.previousRaw reading :).trans last, cls, fun c d chamber isolated drift nonneg => ?_⟩
    rw [cls]
    exact isolation c d chamber isolated drift nonneg

end Sys2Proof.Machine
end

section
/-! PROOFS. Restarts and power-on (R172, R173). -/

namespace Sys2Proof.Machine

variable {p q r : Part}

/-! ### The reset of the works (R172, step 3) -/

/-- The sluice records after a reset, with the close command to each above 0 (R29, R31). -/
def Part.sluicesReset (p : Part) : Four SluiceRec :=
  ⟨p.sluices.g0.reset.toClose (p.stepLimit .g0), p.sluices.g1.reset.toClose (p.stepLimit .g1),
    p.sluices.g2.reset.toClose (p.stepLimit .g2), p.sluices.g3.reset.toClose (p.stepLimit .g3)⟩

theorem sluicesReset_get (p : Part) (k : Sluice) :
    p.sluicesReset.get k = (p.sluices.get k).reset.toClose (p.stepLimit k) := by cases k <;> rfl

theorem resetWorks_eq (p : Part) : p.resetWorks = { p with
    gates := p.gates.map GateRec.reset, sluices := p.sluicesReset, reaches := p.resetWorks.reaches
    faces := faceMap FaceRec.reset, lamps := lampMap LampRec.reset, lampTimer := Config.lampPeriod } := by
  have closed : ∃ x, Gate.all.foldl Part.closeSluice p.worksReset
      = { p.worksReset with sluices := p.sluicesReset, reaches := x } := by
    simp only [Gate.all, List.foldl_cons, List.foldl_nil, closeSluice_eq]
    exact ⟨_, rfl⟩
  obtain ⟨x, e⟩ := closed
  have form : p.resetWorks = { Gate.all.foldl Part.closeSluice p.worksReset with
      faces := faceMap FaceRec.reset, lamps := lampMap LampRec.reset, lampTimer := Config.lampPeriod } := rfl
  rw [form, e]
  rfl

theorem reset_toClose (x : SluiceRec) (limit : Option Nat) : x.reset.toClose limit =
    { position := x.position, target := 0, trim := 0, transfer := none, rampTimer := none, due := false, waiting := none
      state := if x.position = 0 then .closed else .closing
      step := if x.position = 0 then none else some (.down, x.position - 1)
      stepTimer := if x.position = 0 then none else limit } := by
  by_cases h : x.position = 0 <;>
    simp [SluiceRec.toClose, SluiceRec.reset, SluiceRec.initial, SluiceRec.stepped, h]

/-- No gate holds both its limits. -/
def Part.LimitsPlain (p : Part) : Prop := ∀ g, ¬ ((p.gates.get g).atClosed = true ∧ (p.gates.get g).atOpen = true)

theorem reset_plain {x : GateRec} (h : ¬ (x.atClosed = true ∧ x.atOpen = true)) : x.reset =
    { state := if x.atClosed then .closed else if x.atOpen then .open_ else .stopped
      drive := .off, travelTimer := none, openPending := false, commander := .nobody
      atClosed := x.atClosed, atOpen := x.atOpen } := by
  unfold GateRec.reset limitState
  cases c : x.atClosed <;> cases o : x.atOpen <;> simp_all

/-- Without a double limit none is reported (R23, R172 step 8). -/
theorem reportDouble_plain (h : p.LimitsPlain) : Gate.all.foldl Part.reportDouble p = p := by
  have one : ∀ g, p.reportDouble g = p := fun g => by
    refine if_neg fun both => h g ?_
    simpa using both
  simp only [Gate.all, List.foldl_cons, List.foldl_nil, one]

/-! ### What R172 empties -/

/-- The outlet unit with a lockage counted lost to reset and a waiting FORCE_TALLY released (R160). -/
def OutletUnit.discarded (u : OutletUnit) (lost : Bool) : OutletUnit :=
  { u with
    counters := { u.counters with
      lostToReset := if lost then min 65535 (u.counters.lostToReset + 1) else u.counters.lostToReset }
    saturated := if lost && decide (65535 ≤ u.counters.lostToReset) then true else u.saturated
    tally := if lost && decide (u.tally = .waiting) then .pending true false else u.tally }

theorem bump_lost (u : OutletUnit) : u.bump .lostToReset 1 = { u with
    counters := { u.counters with lostToReset := min 65535 (u.counters.lostToReset + 1) }
    saturated := if 65535 ≤ u.counters.lostToReset then true else u.saturated } := by
  unfold OutletUnit.bump
  have full : Counter.lostToReset.limit < u.counters.get .lostToReset + 1 ↔ 65535 ≤ u.counters.lostToReset :=
    Nat.lt_succ_iff
  by_cases h : 65535 ≤ u.counters.lostToReset
  · rw [if_pos (full.2 h), if_pos h, Nat.min_eq_left (by omega)]
    rfl
  · rw [if_neg (mt full.1 h), if_neg h, Nat.min_eq_right (by omega)]
    rfl

theorem released_eq (x : TallyState) : x.released = if x = .waiting then .pending true false else x := by
  cases x <;> rfl

theorem discardLockage_eq (p : Part) :
    p.discardLockage = { p with lockage := none, outlets := p.outlets.discarded p.lockage.isSome } := by
  unfold Part.discardLockage
  cases held : p.lockage with
  | none =>
    exact (show ({ p with lockage := none } : Part) = p by rw [← held]).symm
  | some l =>
    simp [bump_lost, released_eq, OutletUnit.discarded]

/-- The settings a restart keeps (R172, step 5). -/
def Part.keptSettings (p : Part) : RestartKind → Settings
  | .keep => p.settings
  | .clear => Settings.unset

def Part.keptQueue (p : Part) (d : Direction) : RestartKind → List Vessel
  | .keep => p.queueOf d
  | .clear => []

/-- The part after a restart's first five steps. -/
def Part.wiped (p : Part) (kind : RestartKind) : Part :=
  { p with
    lockage := none, outlets := p.outlets.discarded p.lockage.isSome, faults := { halt := none, reported := [] }
    gates := p.gates.map GateRec.reset, sluices := p.sluicesReset
    faces := faceMap FaceRec.reset, lamps := lampMap LampRec.reset, lampTimer := Config.lampPeriod
    reaches := p.reaches.map fun _ => ReachRec.reset
    settings := p.keptSettings kind, upQueue := p.keptQueue .up kind, downQueue := p.keptQueue .down kind }

theorem emptied_eq (p : Part) (kind : RestartKind) : p.emptied kind = p.wiped kind := by
  have works : p.discardLockage.clearFaults.resetWorks.resetReaches = p.wiped .keep := by
    rw [Part.resetReaches, resetWorks_eq, discardLockage_eq]
    rfl
  cases kind with
  | keep => exact works
  | clear =>
    unfold Part.emptied
    rw [works]
    rfl

/-! ### Faces, lamps and reaches as a reset leaves them (R1, R39, R42) -/

/-- The face record a reset leaves (R39). -/
def quietFace (f : Face) : FaceRec :=
  { requested := .stop, awaited := false, shown := if f.isApproach then .outOfService else .stop }

/-- Outside REST and WORKING with no lockage, faces, lamps and reaches stand as a reset leaves them. -/
structure Part.Fresh (p : Part) : Prop where
  mode : p.mode = .startup ∨ p.mode = .survey
  idle : p.lockage = none
  reaches : ∀ x, p.reaches.get x = ReachRec.reset
  faces : ∀ f, faceOf p.faces f = quietFace f
  lamps : ∀ f k, (lampOf p.lamps f k).armed = false ∧ (lampOf p.lamps f k).failed = false
    ∧ (lampOf p.lamps f k).litLast = false

theorem Part.Fresh.congr (h : p.Fresh) (mode : q.mode = p.mode) (lockage : q.lockage = p.lockage)
    (reaches : q.reaches = p.reaches) (faces : q.faces = p.faces) (lamps : q.lamps = p.lamps) : q.Fresh :=
  ⟨mode ▸ h.mode, lockage.trans h.idle, reaches ▸ h.reaches, faces ▸ h.faces, lamps ▸ h.lamps⟩

theorem examined_fresh (h : ∀ x, p.reaches.get x = ReachRec.reset) (c : Chamber) : p.examined c = ReachRec.reset := by
  unfold Part.examined
  rw [h]
  split
  · rw [if_neg (fun both => nomatch both.2)]
  · rfl

theorem Part.Fresh.examine (h : p.Fresh) : p.examineIsolation.Fresh where
  mode := h.mode
  idle := h.idle
  reaches x := by
    cases chamber : x.chamber with
    | none => exact (examineIsolation_pound p x chamber).trans (h.reaches x)
    | some c =>
      obtain rfl : x = c.reach := by cases x <;> cases chamber <;> rfl
      exact (examineIsolation_reach p c).trans (examined_fresh h.reaches c)
  faces := h.faces
  lamps := h.lamps

theorem Part.Fresh.shown (h : p.Fresh) (f : Face) : p.shownAspect f = (quietFace f).shown := by
  unfold Part.shownAspect quietFace
  rw [h.faces f]
  rcases h.mode with mode | mode <;> by_cases approach : f.isApproach = true <;> simp [mode, approach, quietFace]

theorem follow_marks (l : LampRec) (c : LampCommand) : (l.follow c).armed = l.armed ∧ (l.follow c).failed = l.failed
    ∧ (l.follow c).litLast = l.litLast := by
  unfold LampRec.follow
  split <;> exact ⟨rfl, rfl, rfl⟩

theorem Part.Fresh.refresh (h : p.Fresh) : p.refreshFaces.Fresh := by
  have derived : p.deriveFaces.followLamps.Fresh :=
    { mode := h.mode
      idle := h.idle
      reaches := h.reaches
      faces := fun f => by
        change faceOf (faceMap fun f => { faceOf p.faces f with shown := p.shownAspect f }) f = _
        rw [faceOf_faceMap, h.shown, h.faces]
      lamps := fun f k => by
        simp only [Part.followLamps, lampOf_lampMap, follow_marks]
        exact h.lamps f k }
  have unmarked : p.refreshFaces = p.deriveFaces.followLamps := if_neg (by
    have none : p.deriveFaces.followLamps.curStep = Option.none := by rw [Part.curStep, derived.idle]
    simp [Part.entryShown, none])
  rw [unmarked]
  exact derived

theorem Part.Fresh.putGate (h : p.Fresh) (g : Gate) (x : GateRec) : (p.putGate g x).Fresh :=
  (h.congr (q := { p with gates := p.gates.set g x }) rfl rfl rfl rfl rfl).examine.refresh

theorem Part.Fresh.closeSluice (h : p.Fresh) (k : Sluice) : (p.closeSluice k).Fresh := by
  rw [closeSluice_eq]
  exact (h.congr (q := { p with sluices := p.sluices.set k ((p.sluices.get k).toClose (p.stepLimit k)) })
    rfl rfl rfl rfl rfl).examine

theorem Part.Fresh.surveyGate (h : p.Fresh) (g : Gate) : (p.surveyGate g).Fresh := by
  unfold Part.surveyGate
  split
  · exact h
  · exact h
  · unfold Part.closeGate
    dsimp only
    split
    · exact h
    · exact h.putGate g _
    · exact h.putGate g _

theorem Part.Fresh.surveySluice (h : p.Fresh) (k : Sluice) : (p.surveySluice k).Fresh := by
  unfold Part.surveySluice
  split
  · exact h.closeSluice k
  · exact h

theorem foldl_fresh {α : Type} (f : Part → α → Part) (step : ∀ p : Part, p.Fresh → ∀ x, (f p x).Fresh) (xs : List α)
    (h : p.Fresh) : (xs.foldl f p).Fresh := by
  induction xs generalizing p with
  | nil => exact h
  | cons x xs ih => exact ih (step p h x)

theorem Part.Fresh.surveyWork (h : p.Fresh) : p.surveyWork.Fresh :=
  foldl_fresh _ (fun _ h k => h.surveySluice k) _ (foldl_fresh _ (fun _ h g => h.surveyGate g) _
    (h.congr (q := p.clearReported) rfl rfl rfl rfl rfl))

/-! ### The mode after a restart (R170, R173) -/

theorem surveyGates_get (p : Part) (g : Gate) :
    (Gate.all.foldl Part.surveyGate p).gates.get g = (p.gates.get g).surveyed (p.travelLimit g) := by
  have limit : ∀ (q : Part) (h k : Gate), (q.surveyGate h).travelLimit k = q.travelLimit k := fun q h k => by
    unfold Part.travelLimit
    rw [(surveyGate_framing q h).settings]
  simp only [Gate.all, List.foldl_cons, List.foldl_nil, surveyGate_gates, limit]
  cases g <;> rfl

theorem surveyWork_gates (p : Part) (g : Gate) :
    p.surveyWork.gates.get g = (p.gates.get g).surveyed (p.travelLimit g) := by
  unfold Part.surveyWork
  rw [(surveySluices_facts _).2, surveyGates_get]
  rfl

/-- What a restart's mode leaves of the part: the survey's work, or STARTUP. -/
structure Part.Moded (p : Part) (kind : RestartKind) (q : Part) : Prop where
  mode : q.mode = if kind = .keep ∧ p.complete = true then .survey else .startup
  framing : Framing { p with mode := q.mode } q
  fresh : q.Fresh
  gates : ∀ g, q.gates.get g = if q.mode = .survey then (p.gates.get g).surveyed (p.travelLimit g) else p.gates.get g
  sluices : q.sluices = p.sluices

theorem resetMode_moded (kind : RestartKind) (h : ({ p with mode := .startup }).Fresh)
    (reported : p.faults.reported = []) (closing : ∀ k, 0 < (p.sluices.get k).position → (p.sluices.get k).state = .closing) :
    p.Moded kind (p.resetMode kind) := by
  unfold Part.resetMode
  by_cases keeps : kind = .keep ∧ p.complete = true
  · rw [if_pos keeps]
    have fresh : ({ p with mode := .survey }).Fresh := ⟨.inr rfl, h.idle, h.reaches, h.faces, h.lamps⟩
    have framing := surveyWork_framing { p with mode := .survey }
    have cleared : ({ p with mode := .survey }).clearReported = { p with mode := .survey } := by
      rw [Part.clearReported, ← reported]
    rw [cleared] at framing
    have mode : ({ p with mode := .survey }).surveyWork.mode = .survey := framing.mode
    refine ⟨mode.trans (if_pos keeps).symm, by rw [mode]; exact framing, fresh.surveyWork,
      fun g => by rw [if_pos mode]; exact surveyWork_gates _ g, Four.ext_get fun k => ?_⟩
    obtain ⟨limit, e⟩ := surveyWork_sluice { p with mode := .survey } k
    rw [e, SluiceRec.surveyed]
    exact if_neg fun both => both.2 (closing k both.1)
  · rw [if_neg keeps]
    exact ⟨(if_neg keeps).symm, .refl _, h, fun g => (if_neg (fun e => nomatch e)).symm, rfl⟩

/-! ### The outlets after a restart (R149, R156, R160) -/

/-- An outlet whose head, if any, is offered again. -/
def Outlet.reoffered (o : Outlet) : Outlet := { o with state := if o.queue = [] then .idle else .offered }

def OutletUnit.reoffered (u : OutletUnit) : OutletUnit :=
  { u with outlets := ⟨u.outlets.a.reoffered, u.outlets.b.reoffered, u.outlets.c.reoffered⟩ }

theorem offerAll_eq (p : Part) : ∃ w, [Port.a, .b, .c].foldl Part.offerHead p = p.recording p.outlets.reoffered w := by
  simp only [List.foldl_cons, List.foldl_nil, offerHead_eq]
  exact ⟨_, rfl⟩

/-- The outlet unit once heads have been offered again and a pending tally has met the room there is. -/
theorem reofferOutlets_eq (p : Part) : ∃ u w, p.reofferOutlets = p.recording u w
    ∧ (∀ forced periodic, p.outlets.reoffered.tally = .pending forced periodic → p.outlets.reoffered.Room →
        TallyAppended p.outlets.reoffered u forced periodic)
    ∧ (((∀ forced periodic, p.outlets.reoffered.tally ≠ .pending forced periodic) ∨ ¬ p.outlets.reoffered.Room) →
        u = p.outlets.reoffered) := by
  obtain ⟨w, e⟩ := offerAll_eq p
  unfold Part.reofferOutlets
  rw [e]
  generalize hy : p.recording p.outlets.reoffered w = y
  have unit : y.outlets = p.outlets.reoffered := by rw [← hy]; rfl
  have form : ∀ u v, ({ y with outlets := u, sent := v } : Part) = p.recording u v := fun u v => by rw [← hy]; rfl
  rw [← unit]
  by_cases pending : ∃ forced periodic, y.outlets.tally = .pending forced periodic
  · obtain ⟨forced, periodic, pending⟩ := pending
    by_cases room : y.outlets.Room
    · rw [tryTally_room pending room]
      refine ⟨_, _, form _ _, fun f e same _ => ?_, fun stays => ?_⟩
      · rw [pending] at same
        cases same
        exact tallied_appended y forced periodic
      · rcases stays with other | full
        · exact absurd pending (other forced periodic)
        · exact absurd room full
    · rw [tryTally_full pending room]
      exact ⟨y.outlets, y.sent, form _ _, fun _ _ _ has => absurd has room, fun _ => rfl⟩
  · rw [tryTally_none fun forced periodic h => pending ⟨forced, periodic, h⟩]
    exact ⟨y.outlets, y.sent, form _ _, fun forced periodic h => absurd ⟨forced, periodic, h⟩ pending, fun _ => rfl⟩

/-! ### RESTART (R172) -/

/-- The part before the mode after a restart is known. -/
def Part.restarted (p : Part) (kind : RestartKind) : Part := (p.wiped kind).resetTurn kind

theorem restarted_fresh (p : Part) (kind : RestartKind) : ({ p.restarted kind with mode := .startup }).Fresh where
  mode := .inl rfl
  idle := by cases kind <;> rfl
  reaches x := by
    have at_ : ∀ v : Five ReachRec, (v.map fun _ => ReachRec.reset).get x = ReachRec.reset := fun v => by cases x <;> rfl
    cases kind <;> exact at_ p.reaches
  faces f := by cases kind <;> exact faceOf_faceMap _ f
  lamps f k := by
    have lamps : ∀ kind, ({ p.restarted kind with mode := .startup }).lamps = lampMap LampRec.reset := fun kind => by
      cases kind <;> rfl
    rw [lamps, lampOf_lampMap]
    cases k <;> exact ⟨rfl, rfl, rfl⟩

/-- A part in SETTLING everywhere ends its event with the turn selector's recomputation, outside REST. -/
theorem Part.Fresh.settled (h : p.Fresh) (a b : Bool) : p.settle a b = p.recompute := by
  have rest : p.mode ≠ .rest := by rcases h.mode with mode | mode <;> rw [mode] <;> decide
  have unfinished : p.surveyDone = false := surveyDone_unordered ⟨.head, by rw [h.reaches]; rfl⟩
  have still : p.surveyTest = p := surveyTest_stands p fun both => by rw [unfinished] at both; cases both.2
  unfold Part.settle
  rw [still]
  exact turnArrival_idle _ _ _ (recompute_notRest p rest)

theorem surveyed_inputs (x : GateRec) (limit : Option Nat) :
    (x.surveyed limit).atClosed = x.atClosed ∧ (x.surveyed limit).atOpen = x.atOpen := by
  unfold GateRec.surveyed GateRec.closeCommanded
  cases x.state <;> exact ⟨rfl, rfl⟩

theorem restarted_sluices (p : Part) (kind : RestartKind) : (p.restarted kind).sluices = p.sluicesReset := by
  cases kind <;> rfl

theorem restarted_gates (p : Part) (kind : RestartKind) : (p.restarted kind).gates = p.gates.map GateRec.reset := by
  cases kind <;> rfl

/-- What a restart leaves: the part restarted and moded, with the link reset, the outlet unit as R160 says and the turn
selector recomputed. -/
theorem restart_leaves (kind : RestartKind) (negated : p.eStop = false) (plain : p.LimitsPlain) :
    ∃ y u w, (p.restarted kind).Moded kind y
      ∧ p.restart kind = ((y.resetLink (restartCause kind)).recording u w).recompute
      ∧ (∀ forced periodic, (p.outlets.discarded p.lockage.isSome).reoffered.tally = .pending forced periodic →
          (p.outlets.discarded p.lockage.isSome).reoffered.Room →
          TallyAppended (p.outlets.discarded p.lockage.isSome).reoffered u forced periodic)
      ∧ (((∀ forced periodic, (p.outlets.discarded p.lockage.isSome).reoffered.tally ≠ .pending forced periodic)
          ∨ ¬ (p.outlets.discarded p.lockage.isSome).reoffered.Room) →
          u = (p.outlets.discarded p.lockage.isSome).reoffered) := by
  have moded : (p.restarted kind).Moded kind ((p.restarted kind).resetMode kind) := by
    refine resetMode_moded kind (restarted_fresh p kind) (by cases kind <;> rfl) fun k above => ?_
    rw [restarted_sluices, sluicesReset_get, reset_toClose] at above ⊢
    exact if_neg (Nat.ne_of_gt above)
  have eStop : (p.restarted kind).eStop = false := by cases kind <;> exact negated
  have outlets : (p.restarted kind).outlets = p.outlets.discarded p.lockage.isSome := by cases kind <;> rfl
  have inputs : ∀ g, (((p.restarted kind).resetMode kind).gates.get g).atClosed = (p.gates.get g).atClosed
      ∧ (((p.restarted kind).resetMode kind).gates.get g).atOpen = (p.gates.get g).atOpen := fun g => by
    rw [moded.gates, restarted_gates, Four.get_map]
    split
    · exact surveyed_inputs _ _
    · exact ⟨rfl, rfl⟩
  have run : p.restart kind = (Gate.all.foldl Part.reportDouble
      (((p.restarted kind).resetMode kind).resetLink (restartCause kind)).eStopStanding.reofferOutlets).settle := by
    rw [restart_eq, emptied_eq]
    rfl
  generalize (p.restarted kind).resetMode kind = y at *
  have off : (y.resetLink (restartCause kind)).eStopStanding = y.resetLink (restartCause kind) := if_neg fun both => by
    have on : y.eStop = true := both.1
    rw [moded.framing.eStop] at on
    exact absurd (on.symm.trans eStop) (by decide)
  have unit : (y.resetLink (restartCause kind)).outlets = p.outlets.discarded p.lockage.isSome :=
    moded.framing.outlets.trans outlets
  obtain ⟨u, w, form, room, stays⟩ := reofferOutlets_eq (y.resetLink (restartCause kind))
  rw [unit] at room stays
  have still := reportDouble_plain (p := (y.resetLink (restartCause kind)).recording u w)
    fun g both => plain g ⟨(inputs g).1 ▸ both.1, (inputs g).2 ▸ both.2⟩
  have fresh : ((y.resetLink (restartCause kind)).recording u w).Fresh := moded.fresh.congr rfl rfl rfl rfl rfl
  rw [off, form, still, fresh.settled] at run
  exact ⟨y, u, w, moded, run, room, stays⟩

/-- A gate after a restart (R23, R170). -/
theorem restarted_gate (p : Part) (kind : RestartKind) (mode : Mode) (keeps : mode = .survey → kind = .keep) (g : Gate)
    (plain : ¬ ((p.gates.get g).atClosed = true ∧ (p.gates.get g).atOpen = true)) :
    (if mode = .survey then ((p.restarted kind).gates.get g).surveyed ((p.restarted kind).travelLimit g)
      else (p.restarted kind).gates.get g)
    = if mode = .survey ∧ (p.gates.get g).atClosed = false ∧ (p.gates.get g).atOpen = false then
        { state := .closing, drive := .closeDrive, openPending := false, commander := .survey
          travelTimer := p.travelLimit g, atClosed := false, atOpen := false }
      else { state := if (p.gates.get g).atClosed then .closed else if (p.gates.get g).atOpen then .open_ else .stopped
             drive := .off, travelTimer := none, openPending := false, commander := .nobody
             atClosed := (p.gates.get g).atClosed, atOpen := (p.gates.get g).atOpen } := by
  rw [restarted_gates, Four.get_map, reset_plain plain]
  by_cases survey : mode = .survey
  · obtain rfl := keeps survey
    have limit : (p.restarted .keep).travelLimit g = p.travelLimit g := rfl
    rw [limit]
    cases closed : (p.gates.get g).atClosed <;> cases opened : (p.gates.get g).atOpen <;>
      simp_all [GateRec.surveyed, GateRec.closeCommanded]
  · exact (if_neg survey).trans (if_neg fun both => survey both.1).symm

/-- Settles O55: step by step through R172, with the survey's work where it begins. -/
theorem restartsResetThePart : Obligations.RestartsResetThePart := by
  unfold Obligations.RestartsResetThePart
  intro tag kind s negated plain c
  have run : exec c s = .next { s with part := (s.part.accept .a tag (.restart kind)).restart kind } := by
    cases kind <;> rfl
  have lawful : SentGrows (s.part.accept .a tag (.restart kind)) ((s.part.accept .a tag (.restart kind)).restart kind) :=
    (restart_lawful (c := .restartClear tag) _ kind rfl rfl (fun _ => rfl) fun _ => rfl).framed.sent (fun _ h => nomatch h)
  obtain ⟨y, u, w, moded, form, room, stays⟩ := restart_leaves (p := s.part.accept .a tag (.restart kind)) kind negated plain
  rw [form] at run lawful
  have told := lawful .a
  have turn : y.turn = ((s.part.accept .a tag (.restart kind)).restarted kind).turn := moded.framing.turn
  have notRest : y.mode ≠ .rest := by rcases moded.fresh.mode with mode | mode <;> rw [mode] <;> decide
  have off := recompute_notRest ((y.resetLink (restartCause kind)).recording u w) notRest
  have lastUp : ((y.resetLink (restartCause kind)).recording u w).recompute.turn.pattern.lastUp = y.turn.pattern.lastUp := rfl
  have hold : ((y.resetLink (restartCause kind)).recording u w).recompute.turn.rejectHold = none := by
    change keepHold y.turn.rejectHold _ = none
    rw [turn]
    cases kind <;> rfl
  have planWait : ((y.resetLink (restartCause kind)).recording u w).recompute.turn.planWait = y.turn.planWait := rfl
  have nextLockage : ((y.resetLink (restartCause kind)).recording u w).recompute.turn.nextLockage = y.turn.nextLockage := rfl
  generalize ht : (((y.resetLink (restartCause kind)).recording u w).recompute).turn = t at *
  have recomputed : ((y.resetLink (restartCause kind)).recording u w).recompute
      = { (y.resetLink (restartCause kind)).recording u w with turn := t } := by rw [← ht]; rfl
  have modes : y.mode = if kind = .keep ∧ s.part.complete = true then .survey else .startup := by
    refine moded.mode.trans ?_
    cases kind <;> rfl
  rw [recomputed] at run
  have straps : y.straps = s.part.straps := (congrArg Part.straps moded.framing :).trans (by cases kind <;> rfl)
  have sluices (k : Sluice) : y.sluices.get k
      = (s.part.sluices.get k).reset.toClose ((s.part.accept .a tag (.restart kind)).stepLimit k) := by
    rw [moded.sluices, restarted_sluices, sluicesReset_get]
    rfl
  refine ⟨_, run, modes, moded.fresh.idle, moded.framing.faults.trans ?_, moded.fresh.reaches, moded.framing.clock.trans ?_,
    moded.framing.nextTicket.trans ?_, nextLockage.trans ?_, off, hold, planWait.trans ?_, fun keep => ?_, fun clear => ?_,
    ?_, moded.fresh.lamps, moded.fresh.faces, fun g => ?_, fun k => ?_, told, room, stays⟩
  · cases kind <;> rfl
  · cases kind <;> rfl
  · cases kind <;> rfl
  · rw [turn]
    cases kind <;> rfl
  · rw [turn]
    cases kind <;> rfl
  · subst keep
    exact ⟨moded.framing.settings, moded.framing.upQueue, moded.framing.downQueue, lastUp.trans (by rw [turn]; rfl)⟩
  · subst clear
    exact ⟨moded.framing.settings, moded.framing.upQueue, moded.framing.downQueue, lastUp.trans (by rw [turn]; rfl)⟩
  · change (y.resetLink (restartCause kind)).link = _
    rw [Part.resetLink, straps]
    cases kind <;> rfl
  · refine (moded.gates g).trans (restarted_gate _ kind y.mode (fun survey => ?_) g (plain g))
    refine Classical.byContradiction fun other => ?_
    rw [modes, if_neg fun both => other both.1] at survey
    cases survey
  · exact (sluices k).trans (reset_toClose _ _)

/-! ### Power-on (R173) -/

theorem resetWorks_fresh (h : p.worksReset.Fresh) : p.resetWorks.Fresh := by
  have closed := foldl_fresh _ (fun _ h k => Part.Fresh.closeSluice h k) Gate.all h
  have form : p.resetWorks = { Gate.all.foldl Part.closeSluice p.worksReset with
      faces := faceMap FaceRec.reset, lamps := lampMap LampRec.reset, lampTimer := Config.lampPeriod } := rfl
  rw [form]
  generalize Gate.all.foldl Part.closeSluice p.worksReset = y at closed
  exact ⟨closed.mode, closed.idle, closed.reaches, fun f => faceOf_faceMap _ f, fun f k => by
    rw [lampOf_lampMap]
    cases k <;> exact ⟨rfl, rfl, rfl⟩⟩

theorem initial_fresh (v : FieldInputs) : (Part.initial.withInputs v).worksReset.Fresh where
  mode := .inl rfl
  idle := rfl
  reaches x := by cases x <;> rfl
  faces f := faceOf_faceMap _ f
  lamps f k := by
    rw [show (Part.initial.withInputs v).worksReset.lamps = lampMap LampRec.reset from rfl, lampOf_lampMap]
    cases k <;> exact ⟨rfl, rfl, rfl⟩

/-- The part at power-on, before the turn selector is recomputed. -/
def poweredPart (v : FieldInputs) : Part := (Part.initial.withInputs v).resetWorks.resetLink .power

theorem resetLink_fresh (h : p.Fresh) (c : RestartCause) : (p.resetLink c).Fresh := h.congr rfl rfl rfl rfl rfl

theorem powered_fresh (v : FieldInputs) : (poweredPart v).Fresh := by
  unfold poweredPart
  exact resetLink_fresh (resetWorks_fresh (initial_fresh v)) _

theorem resetLink_works (p : Part) (c : RestartCause) : (p.resetWorks.resetLink c).gates = p.gates.map GateRec.reset
    ∧ (p.resetWorks.resetLink c).sluices = p.sluicesReset := by
  rw [resetWorks_eq]
  exact ⟨rfl, rfl⟩

theorem powered_gate (v : FieldInputs) (g : Gate) : (poweredPart v).gates.get g
    = GateRec.reset { GateRec.initial with atClosed := v.closedLimit.get g, atOpen := v.openLimit.get g } := by
  unfold poweredPart
  rw [(resetLink_works _ _).1, Four.get_map]
  cases g <;> rfl

theorem powered_sluice (v : FieldInputs) (k : Sluice) : (poweredPart v).sluices.get k
    = (SluiceRec.reset { SluiceRec.initial with position := (v.feedback.get k).val }).toClose none := by
  unfold poweredPart
  rw [(resetLink_works _ _).2, sluicesReset_get]
  cases k <;> rfl

/-- What power-on leaves beside works, faces and lamps. -/
structure Powered (v : FieldInputs) (q : Part) : Prop where
  mode : q.mode = .startup
  settings : q.settings = Settings.unset
  clock : q.clock = none
  queues : q.upQueue = [] ∧ q.downQueue = []
  nextTicket : q.nextTicket = 1
  calls : q.calls = ⟨false, false, false, false⟩
  turn : q.turn = Part.initial.turn
  faults : q.faults = { halt := none, reported := [] }
  outlets : q.outlets = OutletUnit.initial
  sent : q.sent = ⟨[], [], []⟩
  inputs : q.eStop = v.eStop ∧ q.navInhibit = v.navInhibit ∧ q.straps = v.straps
  link : q.link = { receivers := ⟨.hunting, .hunting, .hunting⟩, checkErrors := ⟨0, 0, 0⟩
                    conditions := { Conditions.empty with restarted := some .power }
                    armed := false, watchdog := none, lost := false, rate := v.straps }

theorem powered (v : FieldInputs) : Powered v (poweredPart v) := by
  unfold poweredPart
  rw [resetWorks_eq]
  exact ⟨rfl, rfl, rfl, ⟨rfl, rfl⟩, rfl, rfl, rfl, rfl, rfl, rfl, ⟨rfl, rfl, rfl⟩, rfl⟩

/-- Settles O56: power-on reads nothing of the state before it, and its reset is worked out from an empty part. -/
theorem powerOnStartsFromTheField : Obligations.PowerOnStartsFromTheField := by
  unfold Obligations.PowerOnStartsFromTheField
  intro v plain
  have run : Part.powerOn v = (Gate.all.foldl Part.reportDouble (poweredPart v)).settle := rfl
  have fresh := powered_fresh v
  have gates := powered_gate v
  have sluices := powered_sluice v
  have state := powered v
  generalize poweredPart v = y at *
  rw [reportDouble_plain (p := y) (fun g both => plain g (by rw [gates] at both; exact both)), fresh.settled] at run
  have off := recompute_notRest y (by rw [state.mode]; decide)
  have pattern : y.recompute.turn = { y.turn with
      pattern := y.composePattern, rejectHold := keepHold y.turn.rejectHold y.composePattern
      readiness := y.recompute.turn.readiness } := rfl
  rw [off, Part.composePattern, state.calls, state.turn] at pattern
  exact ⟨y.recompute, fun s => exec_eq rfl run, state.mode, state.settings, state.clock, state.queues.1, state.queues.2, fresh.idle,
    state.nextTicket, state.calls, pattern, state.faults, state.outlets, state.sent, state.inputs.1, state.inputs.2.1,
    state.inputs.2.2, state.link, fresh.reaches, fresh.faces, fresh.lamps,
    fun g => (gates g).trans (reset_plain (plain g)), fun k => (sluices k).trans ((reset_toClose _ _).trans (by simp))⟩

end Sys2Proof.Machine
end

section
/-! PROOFS. The queries and the condition rule (R180, R181). -/

namespace Sys2Proof.Machine

variable {p q r : Part}

theorem critical_iff (c : Conditions) : c.critical = true ↔ c.restarted ≠ none ∨ 0 < c.badMessage ∨ c.linkLost = true
    ∨ ∃ f, c.fault = some f ∧ f.halting = true := by
  unfold Conditions.critical
  cases c.fault <;> simp [Option.isSome_iff_ne_none, or_assoc]

/-- The part once its condition record has been shown and cleared (R179). -/
def Part.conditionsShown (p : Part) (tag : Tag) : Part :=
  { p with
    sent := p.sent.set .a (p.sent.a ++ [.condition tag p.link.conditions])
    link := { p.link with conditions := Conditions.empty } }

theorem showConditions_eq (tag : Tag) : p.showConditions tag = p.conditionsShown tag := rfl

theorem query_critical {tag : Tag} {d : ReplyData} (h : p.link.conditions.critical = true) :
    p.query tag d = p.conditionsShown tag := if_pos h

theorem query_plain {tag : Tag} {d : ReplyData} (h : ¬ p.link.conditions.critical = true) :
    p.query tag d = p.send .a (.accepted tag (some p.link.conditions.any) d) := if_neg h

/-! ### The views, field by field -/

theorem pattern_index (b : Pattern) : b.index = b.up.toNat + 2 * b.down.toNat + 4 * b.upPriority.toNat
    + 8 * b.downPriority.toNat + 16 * b.lastUp.toNat := by
  obtain ⟨up, down, upPriority, downPriority, lastUp⟩ := b
  cases up <;> cases down <;> cases upPriority <;> cases downPriority <;> cases lastUp <;> rfl

theorem sluiceView_caps (p : Part) (k : Sluice) : (p.sluiceView k).effectiveCap = p.settings.works.map fun w =>
    (max 1 (min 15 ((w.cap.get k : Int) + (p.sluices.get k).trim))).toNat := by
  unfold Part.sluiceView Part.effectiveCap
  cases p.settings.works with
  | none => rfl
  | some w =>
    have cap := congrArg Int.toNat (clampCap_eq (w.cap.get k) (p.sluices.get k).trim)
    rw [Int.toNat_natCast] at cap
    exact congrArg some cap

theorem atLimit_iff (x : GateRec) : x.atLimit = true ↔ x.state = .closed ∨ x.state = .open_ := by
  simp [GateRec.atLimit]

/-- The QUERY_FLIGHT survey data (R174). -/
theorem surveyView_lists (p : Part) : (∀ x, x ∈ p.surveyView.reaches ↔ (p.reaches.get x).cls.ordered = false)
    ∧ (∀ g, g ∈ p.surveyView.gates ↔ (p.gates.get g).state ≠ .closed ∧ (p.gates.get g).state ≠ .open_)
    ∧ (∀ k, k ∈ p.surveyView.sluices ↔ (p.sluices.get k).position ≠ 0) := by
  have reaches : ∀ x : Reach, x ∈ Reach.all := fun x => by cases x <;> decide
  have gates : ∀ g : Gate, g ∈ Gate.all := fun g => by cases g <;> decide
  refine ⟨fun x => ?_, fun g => ?_, fun k => ?_⟩
  · simp [Part.surveyView, reaches]
  · simp [Part.surveyView, gates, GateRec.atLimit]
  · simp [Part.surveyView, gates]

theorem Five.not_all_iff {α : Type} (v : Five α) (f : α → Bool) : (!v.all f) = true ↔ ∃ x, f (v.get x) = false := by
  rw [Bool.not_eq_true', ← Bool.not_eq_true, Five.all_iff, Classical.not_forall]
  simp only [Bool.not_eq_true]

theorem Four.not_all_iff {α : Type} (v : Four α) (f : α → Bool) : (!v.all f) = true ↔ ∃ g, f (v.get g) = false := by
  rw [Bool.not_eq_true', ← Bool.not_eq_true, Four.all_iff, Classical.not_forall]
  simp only [Bool.not_eq_true]

theorem surveyView_fails (p : Part) :
    (p.surveyView.readingsFail = true ↔ ∃ x, (p.reaches.get x).cls.ordered = false)
      ∧ (p.surveyView.gatesFail = true ↔ ∃ g, (p.gates.get g).state ≠ .closed ∧ (p.gates.get g).state ≠ .open_)
      ∧ (p.surveyView.sluicesFail = true ↔ ∃ k, (p.sluices.get k).state ≠ .closed ∨ (p.sluices.get k).position ≠ 0) := by
  refine ⟨Five.not_all_iff _ _, (Four.not_all_iff _ _).trans (exists_congr fun g => ?_),
    (Four.not_all_iff _ _).trans (exists_congr fun k => ?_)⟩
  · rw [← Bool.not_eq_true, atLimit_iff, not_or]
  · simp [SluiceRec.shut, Decidable.imp_iff_not_or]

theorem mem_unsetGroups (p : Part) (m : Missing) : m ∈ p.unsetGroups ↔ m ∈ p.missing ∧ m ≠ .clock := by
  simp [Part.unsetGroups]

theorem readyView_iff (p : Part) : (p.readyView.modeRest = true ↔ p.mode = .rest)
    ∧ (p.readyView.noInhibit = true ↔ p.navInhibit = false) ∧ (p.readyView.notFlooded = true ↔ p.flood = .navigable)
    ∧ (p.readyView.linkUp = true ↔ p.link.lost = false) ∧ (p.readyView.outletsFree = true ↔ p.outlets.Room)
    ∧ (p.readyView.noTally = true ↔ p.outlets.tally = .none ∨ p.outlets.tally = .waiting)
    ∧ (p.readyView.noForceWaiting = true ↔ p.outlets.tally ≠ .waiting)
    ∧ (p.readyView.noRejectHold = true ↔ p.turn.rejectHold ≠ some p.turn.pattern) := by
  have tally : p.readyView.noTally = true ↔ p.outlets.tally = .none ∨ p.outlets.tally = .waiting := by
    unfold Part.readyView
    cases p.outlets.tally <;> simp [TallyState.inTheWay]
  exact ⟨decide_eq_true_iff, (Bool.not_eq_true' _).to_iff, decide_eq_true_iff, (Bool.not_eq_true' _).to_iff, allRoom_iff _, tally,
    decide_eq_true_iff, decide_eq_true_iff⟩

/-- What the view of a queue shows (R51, R53, R60). -/
theorem queueView_iff (p : Part) (d : Direction) : (p.lockage = none → (p.queueView d).reserved = 0)
    ∧ (∀ l, p.lockage = some l → (p.queueView d).reserved
        = if l.direction = d ∧ l.entryPassed = false then l.convoy.length else 0)
    ∧ ((p.queueView d).call = true ↔ ∃ y, (p.queueOf d).head? = some y ∧ p.passable [y] = true
        ∧ y.length ≤ p.usableLength)
    ∧ ((p.queueView d).priority = true ↔ (p.queueView d).call = true
        ∧ ∃ y, (p.queueOf d).head? = some y ∧ y.priority = true) := by
  refine ⟨fun h => ?_, fun l h => ?_, callOf_iff p d, priorityOf_iff p d⟩ <;>
    simp only [Part.queueView, Part.reserved, h]

/-- Settles O57: the rule for each query, and its view read off field by field. -/
theorem queriesFollowTheConditionRule : Obligations.QueriesFollowTheConditionRule := by
  unfold Obligations.QueriesFollowTheConditionRule
  intro tag s r shown critical answers
  have rule {c : Instr} {d : ReplyData} (run : exec c s = .next { s with part := s.part.query tag d }) : answers c d :=
    ⟨fun h => exec_eq run (query_critical ((critical_iff r).2 h)),
      fun h => exec_eq run (query_plain (mt (critical_iff r).1 h))⟩
  refine ⟨rfl, ⟨s.part.flightView, rule rfl, ?_⟩, ⟨s.part.queuesView, rule rfl, ?_, rfl, rfl⟩, rule rfl,
    ⟨s.part.outlets.view, rule rfl, ?_, rfl, rfl, rfl, rfl, rfl, rfl⟩, rule rfl, rule rfl⟩
  · obtain ⟨flight, reach, works, tariff, turns, outlets, responses, -⟩ := mem_missing s.part
    have unset {m : Missing} {P : Prop} (other : m ≠ .clock) (h : m ∈ s.part.missing ↔ P) :
        m ∈ s.part.flightView.unset ↔ P :=
      (mem_unsetGroups _ _).trans ⟨fun both => h.1 both.1, fun hp => ⟨h.2 hp, other⟩⟩
    obtain ⟨modeRest, noInhibit, notFlooded, linkUp, outletsFree, noTally, noForce, noHold⟩ := readyView_iff s.part
    refine ⟨fun x => by cases x <;> rfl, rfl, rfl, rfl, rfl, fun g => Four.get_map .., fun k => ?_,
      fun f => faceOf_faceMap _ f, fun f c => lampOf_lampMap _ f c, ⟨pattern_index _, ?_⟩, rfl, rfl, rfl,
      modeRest, noInhibit, notFlooded, linkUp, outletsFree, noTally, noForce, noHold, rfl, rfl, rfl, rfl, rfl, rfl,
      unset (by decide) flight, fun x => unset nofun (reach x), unset (by decide) works, unset (by decide) tariff,
      unset (by decide) turns, unset (by decide) outlets, unset (by decide) responses,
      fun h => ((mem_unsetGroups _ _).1 h).2 rfl, fun other => if_neg other, fun survey => ⟨_, if_pos survey, ?_⟩⟩
    · have at_ : s.part.flightView.sluices.get k = s.part.sluiceView k := by cases k <;> rfl
      rw [at_]
      exact (congrArg (fun x => { s.part.sluiceView k with effectiveCap := x }) (sluiceView_caps s.part k) :)
    · exact congrArg (Option.map · s.part.turn.rejectHold) (funext pattern_index)
    · obtain ⟨reaches, gates, sluices⟩ := surveyView_lists s.part
      exact ⟨reaches, gates, sluices, surveyView_fails s.part⟩
  · intro d x
    have view : x = s.part.queueView d := by cases d <;> rfl
    rw [view]
    exact ⟨rfl, rfl, queueView_iff s.part d⟩
  · intro x
    cases x <;> rfl

end Sys2Proof.Machine
end

section
/-! PROOFS. The receivers (R176). -/

namespace Sys2Proof.Machine

variable {p q r : Part} {x : Port}

/-! ### A byte by the receiver's state (R176) -/

theorem receive_hunting (b : Byte) (h : p.link.receivers.get x = .hunting) : p.receive x b = p.hunt x b := by
  rw [Part.receive, h]

theorem receive_late {len : Option Nat} {bytes : List Byte} {gap : Nat} (b : Byte)
    (h : p.link.receivers.get x = .inFrame len bytes gap) (late : 50 < gap) :
    p.receive x b = (p.dropFrame x).hunt x b := by
  rw [Part.receive, h]
  exact if_pos late

theorem receive_len {bytes : List Byte} {gap : Nat} (b : Byte) (h : p.link.receivers.get x = .inFrame none bytes gap)
    (timely : gap ≤ 50) : p.receive x b = p.takeLen x b := by
  rw [Part.receive, h]
  exact if_neg (Nat.not_lt.2 timely)

theorem receive_body {n : Nat} {bytes : List Byte} {gap : Nat} (b : Byte)
    (h : p.link.receivers.get x = .inFrame (some n) bytes gap) (timely : gap ≤ 50) :
    p.receive x b = p.frameByte x n bytes b := by
  rw [Part.receive, h]
  exact if_neg (Nat.not_lt.2 timely)

theorem frameByte_more {n : Nat} {bytes : List Byte} (b : Byte) (h : bytes.length + 1 < n + 2) :
    p.frameByte x n bytes b = p.setReceiver x (.inFrame (some n) (bytes ++ [b]) 0) :=
  if_neg (by rw [List.length_append]; exact Nat.ne_of_lt h)

theorem frameByte_last {n : Nat} {bytes : List Byte} (b : Byte) (h : bytes.length + 1 = n + 2) :
    p.frameByte x n bytes b = p.completeFrame x n (bytes ++ [b]) :=
  if_pos (by rw [List.length_append]; exact h)

/-- Settles O58: each state of the receiver with each byte. -/
theorem receiversTakeBytes : Obligations.ReceiversTakeBytes := by
  unfold Obligations.ReceiversTakeBytes
  intro x b s now put drop takes
  have runs {q : Part} (h : s.part.receive x b = q) : takes q := exec_eq rfl h
  refine ⟨fun hunting first => runs ((receive_hunting b hunting).trans (if_pos first)),
    fun hunting other => runs ((receive_hunting b hunting).trans (if_neg other)), fun gap h timely => ?_,
    fun n bytes gap h timely more => runs ((receive_body b h timely).trans (frameByte_more b more)),
    fun n bytes gap h timely last wrong => runs ((receive_body b h timely).trans ((frameByte_last b last).trans ?_)),
    fun len bytes gap h late other => runs ((receive_late b h late).trans (if_neg other)),
    fun len bytes gap h late first => runs ((receive_late b h late).trans ((if_pos first).trans ?_)), fun hunting => ?_,
    fun len bytes gap h => ?_⟩
  · split
    · next inRange => exact runs ((receive_len b h timely).trans (if_pos inRange))
    · next outside => exact runs ((receive_len b h timely).trans (if_neg outside))
  · exact if_neg (by rw [wrong]; decide)
  · unfold Part.setReceiver
    have twice : ((s.part.dropFrame x).link.receivers.set x (.inFrame none [] 0))
        = s.part.link.receivers.set x (.inFrame none [] 0) := Three.set_set ..
    rw [twice]
    rfl
  · simp only [exec, execGapTimeout]
    rw [show s.part.link.receivers.get x = .hunting from hunting]
  · simp only [exec, execGapTimeout]
    rw [show s.part.link.receivers.get x = .inFrame len bytes gap from h]
    rfl

end Sys2Proof.Machine
end

section
/-! PROOFS. The frames and the records' layout (R178, R185, R186). -/

namespace Sys2Proof.Machine

/-! ### A frame's check (R176, R185) -/

theorem frame_checked (k : MessageKind) (tag : Tag) (body : List Byte) :
    ∃ rest, frame k tag body = 0xA5#8 :: BitVec.ofNat 8 (body.length + 2) :: rest
      ∧ rest.length = body.length + 4 ∧ rest.take (body.length + 2) = Config.kindCode k :: tag :: body
      ∧ frameOk (body.length + 2) rest = true := by
  generalize hc : crc16 (BitVec.ofNat 8 (body.length + 2) :: Config.kindCode k :: tag :: body) = crc
  have core : (Config.kindCode k :: tag :: body).length = body.length + 2 := rfl
  have taken : ((Config.kindCode k :: tag :: body) ++ bytesOf 2 crc.toNat).take (body.length + 2)
      = Config.kindCode k :: tag :: body := List.take_left' core
  have dropped : ((Config.kindCode k :: tag :: body) ++ bytesOf 2 crc.toNat).drop (body.length + 2)
      = bytesOf 2 crc.toNat := List.drop_left' core
  refine ⟨(Config.kindCode k :: tag :: body) ++ bytesOf 2 crc.toNat, ?_, ?_, taken, ?_⟩
  · rw [← hc]
    rfl
  · rw [List.length_append, bytesOf_length, core]
  · rw [frameOk, taken, dropped, hc, natOf_bytesOf 2 _ crc.isLt, BitVec.ofNat_toNat, BitVec.setWidth_eq]
    exact decide_eq_true rfl

/-! ### A reply's parts (R185) -/

/-- The parts into which a reply's data is cut. -/
def replyChunks (bs : List Byte) : List (List Byte) :=
  (List.range (partCount bs)).map fun i => (bs.drop (236 * i)).take 236

theorem flatten_chunks (bs : List Byte) (n : Nat) :
    ((List.range n).map fun i => (bs.drop (236 * i)).take 236).flatten = bs.take (236 * n) := by
  induction n with
  | zero => rfl
  | succ n ih =>
    rw [List.range_succ, List.map_append, List.flatten_append, ih, Nat.mul_succ, List.take_add]
    simp

theorem replyChunks_flatten (bs : List Byte) : (replyChunks bs).flatten = bs := by
  rw [replyChunks, flatten_chunks]
  exact List.take_of_length_le (by unfold partCount; omega)

theorem replyFrames_chunks (tag : Tag) (bs : List Byte) : replyFrames tag bs = (replyChunks bs).zipIdx.map fun x =>
    frame .accepted tag (BitVec.ofNat 8 (x.2 + 1) :: BitVec.ofNat 8 (replyChunks bs).length :: x.1) := by
  have length : (replyChunks bs).length = partCount bs := by simp [replyChunks]
  rw [length]
  refine List.ext_getElem (by simp [replyFrames, length]) fun i _ _ => ?_
  simp [replyFrames, replyChunks, bytesOf]

/-! ### Fields of a record (R186) -/

/-- A part of a body stands behind the parts before it. -/
theorem part_at {parts : List (List Byte)} {rest part : List Byte} {i offset n : Nat} (at_ : parts[i]? = some part)
    (before : ((parts.take i).map List.length).sum = offset) (length : part.length = n) :
    ((parts.flatten ++ rest).drop offset).take n = part := by
  subst before length
  induction parts generalizing i with
  | nil => cases at_
  | cons y parts ih =>
    cases i with
    | zero =>
      obtain rfl := Option.some.inj at_
      simp
    | succ i =>
      have past : ((List.take (i + 1) (y :: parts)).map List.length).sum
          = y.length + ((parts.take i).map List.length).sum := by simp
      rw [past, List.flatten_cons, List.append_assoc, ← List.drop_drop, List.drop_left]
      exact ih (by simpa using at_)

/-- A number's part holds it where it fits. -/
theorem field_at {parts : List (List Byte)} {rest : List Byte} {widths : List Nat}
    (lengths : parts.map List.length = widths) (i : Nat) {offset n w v : Nat} (at_ : parts[i]? = some (bytesOf n w))
    (before : (widths.take i).sum = offset) (same : w = v) : v < 256 ^ n →
    (((parts.flatten ++ rest).drop offset).take n).foldl (fun (m : Nat) (b : Byte) => 256 * m + b.toNat) 0 = v := by
  intro fits
  subst same lengths
  rw [part_at at_ ((congrArg List.sum List.map_take).trans before) (bytesOf_length n w)]
  exact natOf_bytesOf n w fits

/-- Flags summed, the i-th counting 2 to the i (R186). -/
def flagSum (bs : List Bool) : Nat := (bs.zipIdx.map fun x => if x.1 then 2 ^ x.2 else 0).sum

theorem flagByte_two (a b : Bool) : flagByte [a, b] = bytesOf 1 (flagSum [a, b]) := by cases a <;> cases b <;> rfl

theorem flagByte_three (a b c : Bool) : flagByte [a, b, c] = bytesOf 1 (flagSum [a, b, c]) := by
  cases a <;> cases b <;> cases c <;> rfl

theorem flagByte_four (a b c d : Bool) : flagByte [a, b, c, d] = bytesOf 1 (flagSum [a, b, c, d]) := by
  cases a <;> cases b <;> cases c <;> cases d <;> rfl

/-- The parts of a LOCKAGE body before its lines (R186). -/
def lockageParts (sequence : Nat) (r : LockageRecord) : List (List Byte) :=
  [bytesOf 1 1, bytesOf 2 sequence, bytesOf 2 r.number, bytesOf 1 r.direction.code, bytesOf 1 r.cls.code,
    bytesOf 1 r.outcome.code, bytesOf 2 r.turnTime.day, bytesOf 4 r.turnTime.second, bytesOf 2 r.endTime.day,
    bytesOf 4 r.endTime.second, bytesOf 1 r.headDraws, bytesOf 4 r.waterDue, bytesOf 4 r.waterCharged,
    bytesOf 4 r.waterWaived, bytesOf 1 (flagSum [r.tideWait, r.late]), bytesOf 4 r.total, bytesOf 1 r.lines.length]

theorem lockageParts_widths (sequence : Nat) (r : LockageRecord) :
    (lockageParts sequence r).map List.length = [1, 2, 2, 1, 1, 1, 2, 4, 2, 4, 1, 4, 4, 4, 1, 4, 1] := by
  simp [lockageParts]

theorem lockageBytes_parts (sequence : Nat) (r : LockageRecord) :
    lockageBytes sequence r = (lockageParts sequence r).flatten ++ r.lines.flatMap lineBytes := by
  simp [lockageBytes, lockageHead, lockageParts, clockBytes, flagByte_two]

/-- The parts of a vessel line (R186). -/
def lineParts (x : Line) : List (List Byte) :=
  [bytesOf 2 x.ticket, hullBytes x.hull, bytesOf 1 x.cls.index, bytesOf 2 x.length, bytesOf 1 x.accountKind.code,
    bytesOf 4 (x.accountNumber.getD 0), bytesOf 4 x.tariffFee, bytesOf 4 x.waterShare, bytesOf 4 x.lineFee,
    bytesOf 1 (flagSum [x.roundedUp, x.capped, x.exempt, x.creditFloored])]

theorem lineParts_widths (x : Line) : (lineParts x).map List.length = [2, 8, 1, 2, 1, 4, 4, 4, 4, 1] := by
  simp [lineParts]

theorem lineBytes_parts (x : Line) : lineBytes x = (lineParts x).flatten ++ [] := by
  simp [lineBytes, lineParts, flagByte_four]

/-- The parts of a TALLY body (R186). -/
def tallyParts (sequence : Nat) (r : TallyRecord) : List (List Byte) :=
  [bytesOf 1 2, bytesOf 2 sequence, bytesOf 2 r.number, bytesOf 1 (flagSum [r.forced, r.periodic, r.saturated]),
    bytesOf 2 r.counts.lockageRecords, bytesOf 2 r.counts.vessels, bytesOf 2 r.counts.completed,
    bytesOf 2 r.counts.completedLate, bytesOf 2 r.counts.returned, bytesOf 2 r.counts.withdrawn,
    bytesOf 2 r.counts.abandoned, bytesOf 2 r.counts.lostToReset, bytesOf 2 r.counts.headDraws,
    bytesOf 4 r.counts.tollSum]

theorem tallyParts_widths (sequence : Nat) (r : TallyRecord) :
    (tallyParts sequence r).map List.length = [1, 2, 2, 1, 2, 2, 2, 2, 2, 2, 2, 2, 2, 4] := by
  simp [tallyParts]

theorem tallyBytes_parts (sequence : Nat) (r : TallyRecord) :
    tallyBytes sequence r = (tallyParts sequence r).flatten ++ [] := by
  simp [tallyBytes, countBytes, tallyParts, flagByte_three]

/-- A line stands behind the head and the lines before it (R186). -/
theorem lockageBytes_line (sequence : Nat) (r : LockageRecord) {i : Nat} {x : Line} (at_ : r.lines[i]? = some x) :
    ((lockageBytes sequence r).drop (39 + 31 * i)).take 31 = lineBytes x := by
  rw [lockageBytes, ← List.drop_drop, List.drop_left' (lockageHead_length sequence r)]
  exact linesBytes_get r.lines i x at_

/-- Settles O60: the check, the parts and every place of the two layouts. -/
theorem framesPassTheirCheck : Obligations.FramesPassTheirCheck := by
  unfold Obligations.FramesPassTheirCheck
  refine ⟨fun k tag body _ => frame_checked k tag body, fun tag mark d => ⟨replyChunks (dataBytes mark d), ?_, ?_,
    replyChunks_flatten _, replyFrames_chunks _ _⟩, fun tag mark r c e x => ⟨⟨_, rfl⟩, ⟨_, rfl⟩, ⟨_, rfl⟩, rfl⟩,
    fun mark n => ⟨_, fun x => rfl⟩, ?_⟩
  · have some_part := partCount_pos (dataBytes mark d)
    intro none
    have length := congrArg List.length none
    simp only [replyChunks, List.length_map, List.length_range, List.length_nil] at length
    omega
  · intro chunk held
    obtain ⟨i, -, rfl⟩ := List.mem_map.1 held
    exact List.length_take_le _ _
  intro field flags
  refine ⟨fun sequence r => ?_, fun sequence r => ?_⟩
  · intro body
    have direction : r.direction.code = match r.direction with | .up => 0 | .down => 1 := by cases r.direction <;> rfl
    have cls : r.cls.code = match r.cls with | .a => 0 | .b => 1 | .c => 2 := by cases r.cls <;> rfl
    have outcome : r.outcome.code = match r.outcome with
      | .completed => 0 | .completedLate => 1 | .returned => 2 | .withdrawn => 3 | .abandoned => 4 := by
      cases r.outcome <;> rfl
    have widths := lockageParts_widths sequence r
    have parts : body = (lockageParts sequence r).flatten ++ r.lines.flatMap lineBytes := lockageBytes_parts sequence r
    refine ⟨lockageBytes_length _ _, ?_⟩
    rw [parts]
    refine ⟨field_at widths 0 rfl rfl rfl, field_at widths 1 rfl rfl rfl, field_at widths 2 rfl rfl rfl,
      field_at widths 3 rfl rfl direction, field_at widths 4 rfl rfl cls, field_at widths 5 rfl rfl outcome,
      field_at widths 6 rfl rfl rfl, field_at widths 7 rfl rfl rfl, field_at widths 8 rfl rfl rfl,
      field_at widths 9 rfl rfl rfl, field_at widths 10 rfl rfl rfl, field_at widths 11 rfl rfl rfl,
      field_at widths 12 rfl rfl rfl, field_at widths 13 rfl rfl rfl, field_at widths 14 rfl rfl rfl,
      field_at widths 15 rfl rfl rfl, field_at widths 16 rfl rfl rfl, fun i x at_ => ?_⟩
    intro line
    have kind : x.accountKind.code = match x.accountKind with | .cash => 0 | .account => 1 | .pass => 2 := by
      cases x.accountKind <;> rfl
    have vessel : x.cls.index = match x.cls with
      | .pleasure => 0 | .passenger => 1 | .dryCargo => 2 | .tanker => 3 | .pushTow => 4 | .workCraft => 5
      | .authority => 6 | .rescue => 7 := by cases x.cls <;> rfl
    have widths := lineParts_widths x
    have here : line = (lineParts x).flatten ++ [] := by
      rw [← lineBytes_parts, ← lockageBytes_line sequence r at_, lockageBytes_parts]
    have length : line.length = 31 := by rw [here, ← lineBytes_parts, lineBytes_length]
    refine ⟨length, ?_⟩
    rw [here]
    exact ⟨field_at widths 0 rfl rfl rfl,
      fun short => (part_at (parts := lineParts x) (i := 1) rfl (by simp [lineParts])
        (hullBytes_length _)).trans (hullBytes_short _ short),
      field_at widths 2 rfl rfl vessel, field_at widths 3 rfl rfl rfl, field_at widths 4 rfl rfl kind,
      field_at widths 5 rfl rfl rfl, field_at widths 6 rfl rfl rfl, field_at widths 7 rfl rfl rfl,
      field_at widths 8 rfl rfl rfl, field_at widths 9 rfl rfl rfl⟩
  · intro body c
    have widths := tallyParts_widths sequence r
    have parts : body = (tallyParts sequence r).flatten ++ [] := tallyBytes_parts sequence r
    refine ⟨tallyBytes_length _ _, ?_⟩
    rw [parts]
    exact ⟨field_at widths 0 rfl rfl rfl, field_at widths 1 rfl rfl rfl, field_at widths 2 rfl rfl rfl,
      field_at widths 3 rfl rfl rfl, field_at widths 4 rfl rfl rfl, field_at widths 5 rfl rfl rfl,
      field_at widths 6 rfl rfl rfl, field_at widths 7 rfl rfl rfl, field_at widths 8 rfl rfl rfl,
      field_at widths 9 rfl rfl rfl, field_at widths 10 rfl rfl rfl, field_at widths 11 rfl rfl rfl,
      field_at widths 12 rfl rfl rfl, field_at widths 13 rfl rfl rfl⟩

end Sys2Proof.Machine
end

section
/-! PROOFS. What the condition record keeps (R179): outside a refresh, a query and the link's own rows an event writes
only its fault and its rejected pattern. -/

namespace Sys2Proof.Machine

variable {p q r : Part}

/-- The entries of the condition record that a fault or a rejected turn leaves (R179). -/
def Conditions.lasting (c : Conditions) : Conditions := { c with fault := none, turnRejected := none }

/-- The record's other entries stand. -/
def Noted (p q : Part) : Prop := q.link.conditions.lasting = p.link.conditions.lasting

theorem Noted.refl (p : Part) : Noted p p := rfl

theorem Noted.trans (a : Noted p q) (b : Noted q r) : Noted p r := Eq.trans b a

theorem Noted.reaches (h : Noted p q) : q.link.conditions.reaches = p.link.conditions.reaches :=
  (congrArg Conditions.reaches h :)

theorem Noted.linkRestored (h : Noted p q) : q.link.conditions.linkRestored = p.link.conditions.linkRestored :=
  (congrArg Conditions.linkRestored h :)

theorem Framing.noted (h : Framing p q) : Noted p q := by
  unfold Noted
  rw [h.link]

theorem foldl_noted {α : Type} (f : Part → α → Part) (h : ∀ q x, Noted q (f q x)) (xs : List α) (p : Part) :
    Noted p (xs.foldl f p) := by
  induction xs generalizing p with
  | nil => exact .refl p
  | cons x xs ih => exact (h p x).trans (ih _)

/-! ### Faults -/

theorem enterMode_noted (p : Part) (m : Mode) : Noted p (p.enterMode m) := (enterMode_framing p m).noted

theorem haltFlight_noted (p : Part) (k : FaultKind) (x : Subject) : Noted p (p.haltFlight k x) := by
  rw [haltFlight_eq]
  have works : Noted p (p.haltedWorks k x) := (haltedWorks_framing p k x).noted
  generalize p.haltedWorks k x = y at works ⊢
  exact works

theorem continueFault_noted (p : Part) (k : FaultKind) (x : Subject) : Noted p (p.continueFault k x) := by
  unfold Part.continueFault
  split <;> exact .refl p

theorem stopTravelling_noted (p : Part) (k : FaultKind) : Noted p (p.stopTravelling k) := by
  unfold Part.stopTravelling
  split
  · exact (stopGates_framing p).noted
  · exact .refl p

theorem report_noted (p : Part) (k : FaultKind) (x : Subject) : Noted p (p.report k x) := by
  unfold Part.report
  split
  · split
    · exact haltFlight_noted p k x
    · exact continueFault_noted p k x
  · split
    · exact haltFlight_noted p k x
    · exact continueFault_noted p k x
  · exact .refl p
  · exact stopTravelling_noted p k

theorem eStopStanding_noted (p : Part) : Noted p p.eStopStanding := by
  unfold Part.eStopStanding
  split
  · exact report_noted _ _ _
  · exact .refl p

theorem lampDecision_noted (p : Part) (f : Face) : Noted p (p.lampDecision f) := by
  unfold Part.lampDecision
  have awaited : Noted p (p.setAwaited f true).refreshFaces := (refreshFaces_framing (p.setAwaited f true)).noted
  have reported := awaited.trans (report_noted _ .lampFailed (.face f))
  exact reported.trans (refreshFaces_framing ((Part.report _ _ _).setAwaited f false)).noted

theorem requestProceed_noted (p : Part) (f : Face) : Noted p (p.requestProceed f) := by
  unfold Part.requestProceed
  split
  · exact lampDecision_noted (p.setRequested f .proceed) f
  · exact (requestAspect_framing p f _).noted

/-! ### The works -/

theorem putGate_report_noted (p : Part) (g : Gate) (x : GateRec) (k : FaultKind) (y : Subject) :
    Noted p ((p.putGate g x).report k y) := (putGate_framing p g x).noted.trans (report_noted _ _ _)

theorem retestGate_noted (p : Part) (g : Gate) : Noted p (p.retestGate g) := by
  unfold Part.retestGate
  simp only
  split
  · exact .refl p
  · split
    · exact putGate_report_noted p g _ _ _
    · split
      · exact .refl p
      · exact (putGate_framing p g _).noted
    · exact report_noted p _ _
    · split
      · exact (putGate_framing p g _).noted
      · exact .refl p
    · exact .refl p

theorem retestBeside_noted (p : Part) (g : Gate) : Noted p (p.retestBeside g) :=
  foldl_noted _ (fun q h => (retestGate_noted q h).trans (retestRamp_framing _ h).noted) _ p

theorem beginClosing_noted (p : Part) (k : Sluice) : Noted p (p.beginClosing k) := (closeSluice_framing _ k).noted

theorem recordTransfer_noted (p : Part) (k : Sluice) (n : Nat) : Noted p (p.recordTransfer k n) := by
  unfold Part.recordTransfer
  simp only
  split
  · exact beginClosing_noted (p.putSluice k _) k
  · exact (rampNext_framing (p.putSluice k _) k).noted.trans (report_noted _ _ _)
  · exact (rampNext_framing (p.putSluice k _) k).noted

theorem startTransfer_noted (p : Part) (k : Sluice) (n : Nat) : Noted p (p.startTransfer k n) := by
  unfold Part.startTransfer
  simp only
  split
  · split <;> exact .refl p
  · exact recordTransfer_noted p k n

theorem endTransfer_noted (p : Part) (k : Sluice) : Noted p (p.endTransfer k) := by
  unfold Part.endTransfer
  simp only
  split
  · split <;> exact .refl p
  · exact .refl p

theorem moveUnderWay_noted (p : Part) (g : Gate) (d : Direction) : Noted p (p.moveUnderWay g d) := by
  unfold Part.moveUnderWay
  exact requestProceed_noted _ _

/-! ### The lockage -/

theorem recorded_noted (h : Recorded p q) : Noted p q := by
  obtain ⟨u, s, rfl⟩ := h.form
  exact .refl p

theorem dispose_noted (p : Part) (l : Lockage) (o : LockageOutcome) : Noted p (p.dispose l o) := by
  unfold Part.dispose
  split
  · unfold Noted
    simp
  · exact recorded_noted (appendRecord_recorded p _)

theorem makeCurrent_noted (p : Part) (i : Nat) : Noted p (p.makeCurrent i) := by
  unfold Part.makeCurrent
  split
  · exact .refl p
  · split
    · exact .refl p
    · exact (refreshFaces_framing _).noted

theorem endLockage_noted (p : Part) (o : LockageOutcome) : Noted p (p.endLockage o) := by
  unfold Part.endLockage
  split
  · exact .refl p
  · next l _ =>
    simp only
    have stopped : Noted p (p.stopLockageTimers.onLockage fun x => { x with outcome := some o }).requestAllStop :=
      (requestAllStop_framing (p.stopLockageTimers.onLockage fun x => { x with outcome := some o })).noted
    generalize (p.stopLockageTimers.onLockage fun x => { x with outcome := some o }).requestAllStop = p1 at stopped ⊢
    have counted := (stopped.trans (dispose_noted p1 l o)).trans (recorded_noted (countEnding_recorded (p1.dispose l o) o
      (if o.returns l.entryPassed = true then none else some (p1.tollRecord l o))))
    generalize (p1.dispose l o).countEnding o
      (if o.returns l.entryPassed = true then none else some (p1.tollRecord l o)) = p2 at counted ⊢
    exact counted.trans (enterMode_noted ({ p2 with lockage := none } : Part).clearReported .rest)

theorem withdraw_noted (p : Part) : Noted p p.withdraw := by
  unfold Part.withdraw
  split
  · exact .refl p
  · exact ((stopStepTransfer_framing p.stopLockageTimers).noted.trans (closeEntry_framing _ _ _).noted).trans
      (endLockage_noted _ _)

theorem waitTide_noted (p : Part) (g : Gate) : Noted p (p.waitTide g) := by
  unfold Part.waitTide
  split
  · exact .refl p
  · split <;> exact .refl p

theorem levelTest_noted (p : Part) (g : Gate) (ph : Phase) (n : Nat) : Noted p (p.levelTest g ph n).1 := by
  unfold Part.levelTest
  split
  · split
    · exact .refl p
    · exact (openGate_framing (p.reachTravel ph) g).noted
    · exact .refl p
  · exact report_noted (p.setStage .level) _ _
  · exact startTransfer_noted (p.setStage .levelling) _ _

theorem evaluateOpen_noted (p : Part) (l : Lockage) (g : Gate) (ph : Phase) : Noted p (p.evaluateOpen l g ph).1 := by
  unfold Part.evaluateOpen
  split
  · exact .refl p
  · split
    · exact waitTide_noted p _
    · exact levelTest_noted p g ph _

theorem beginStep_noted (p : Part) : Noted p p.beginStep.1 := by
  unfold Part.beginStep
  split
  · split
    · exact (closeGate_framing _ _ _).noted
    · unfold Part.beginTransfer
      simp only
      split
      · exact (startTransfer_noted p _ _).trans (endTransfer_noted _ _)
      · exact startTransfer_noted p _ _
    · exact evaluateOpen_noted p _ _ _
    · unfold Part.beginMove
      split
      · split
        · exact withdraw_noted p
        · exact .refl p
      · exact moveUnderWay_noted p _ _
    · unfold Part.beginCommit
      split <;> exact .refl p
  · exact .refl p

theorem nextStep_noted (p : Part) : Noted p p.nextStep.1 := by
  unfold Part.nextStep
  split
  · split
    · exact (makeCurrent_noted p.stopLockageTimers _).trans (beginStep_noted _)
    · exact endLockage_noted p _
  · exact .refl p

theorem advanceBy_noted (n : Nat) (p : Part) : Noted p (Part.advanceBy n p) := by
  induction n generalizing p with
  | zero => exact .refl p
  | succ n ih =>
    unfold Part.advanceBy
    split
    · exact (nextStep_noted p).trans (ih _)
    · exact nextStep_noted p

theorem advance_noted (p : Part) : Noted p p.advance := advanceBy_noted _ p

theorem carryOn_noted {x : Part × Bool} (h : Noted p x.1) : Noted p (Part.carryOn x) := by
  unfold Part.carryOn
  split
  · exact h.trans (advance_noted _)
  · exact h

theorem reevaluateOpen_noted (p : Part) : Noted p p.reevaluateOpen := by
  unfold Part.reevaluateOpen
  split
  · split
    · exact carryOn_noted (evaluateOpen_noted p _ _ _)
    · exact .refl p
  · exact .refl p

theorem transferReported_noted (p : Part) (k : Sluice) (n : Nat) : Noted p (p.transferReported k n) := by
  unfold Part.transferReported
  split
  · split
    · split
      · split
        · exact advance_noted p
        · exact .refl p
      · split
        · exact carryOn_noted (evaluateOpen_noted p _ _ _)
        · exact .refl p
      · exact .refl p
    · exact .refl p
  · exact .refl p

theorem finishTransfer_noted (p : Part) (k : Sluice) : Noted p (p.finishTransfer k) := by
  unfold Part.finishTransfer
  simp only
  split
  · split
    · next m _ =>
      unfold Part.startWaiting
      simp only
      refine (endTransfer_noted p k).trans ?_
      split
      · exact ((recordTransfer_noted _ k m).trans (endTransfer_noted _ k)).trans (transferReported_noted _ k m)
      · exact recordTransfer_noted _ k m
    · exact (endTransfer_noted p k).trans (transferReported_noted _ k _)
    · exact .refl p
  · exact .refl p

theorem announceTransfer_noted (p : Part) (k : Sluice) : Noted p (p.announceTransfer k) := by
  unfold Part.announceTransfer
  split
  · split
    · exact (beginClosing_noted p k).trans (finishTransfer_noted _ k)
    · exact (rampNext_framing p k).noted.trans (report_noted _ _ _)
    · exact (rampNext_framing p k).noted
  · exact .refl p

theorem announceOpen_noted (p : Part) (x : Reach) : Noted p (p.announceOpen x) := by
  unfold Part.announceOpen
  split
  · split
    · exact reevaluateOpen_noted p
    · exact .refl p
  · exact .refl p

theorem announce_noted (p : Part) (x : Reach) : Noted p (p.announce x) := by
  unfold Part.announce
  have told := ((foldl_noted _ retestGate_noted x.gates p).trans
    (foldl_noted _ announceTransfer_noted x.gates _)).trans (announceOpen_noted _ x)
  simp only
  split
  · exact told
  · exact told

/-! ### The turn selector and the survey -/

theorem setUpLockage_noted (p : Part) (l : Lockage) (b : Pattern) : Noted p (p.setUpLockage l b) := by
  unfold Part.setUpLockage
  have entered := enterMode_noted { p with lockage := some l, turn := { p.turn with planWait := false } } .working
  generalize Part.enterMode _ _ = y at entered ⊢
  have asked : Noted y (y.requestEntryReady l.direction) := (refreshFaces_framing _).noted
  exact (Noted.trans (p := p) entered asked).trans (makeCurrent_noted _ 1)

theorem latch_noted (p : Part) (d : Direction) (cc : ClearanceClass) : Noted p (p.latch d cc) := by
  have latched : Noted p (p.latched d) := by unfold Noted; simp
  unfold Part.latch
  simp only
  split
  · unfold Part.startLockage
    simp only
    refine latched.trans ?_
    have begun := (setUpLockage_noted (p.latched d) (newLockage p.turn.nextLockage d cc (p.formConvoy d) ‹_› p.clockNow)
      p.turn.pattern).trans (eStopStanding_noted _)
    split
    · exact begun.trans (carryOn_noted (beginStep_noted _))
    · exact begun
  · refine latched.trans ?_
    unfold Noted
    simp

theorem turnArrival_noted (p : Part) (a b : Bool) : Noted p (p.turnArrival a b) := by
  unfold Part.turnArrival
  simp only
  split
  · unfold Part.evaluateTurn
    split
    · exact .refl p
    · exact .refl p
    · exact latch_noted p.recompute _ _
    · exact latch_noted p.recompute _ _
  · exact .refl p

theorem surveyTest_noted (p : Part) : Noted p p.surveyTest := by
  unfold Part.surveyTest
  split
  · exact enterMode_noted p.clearReported .rest
  · exact .refl p

theorem settle_noted (p : Part) (a b : Bool) : Noted p (p.settle a b) :=
  (surveyTest_noted p).trans (turnArrival_noted _ a b)

end Sys2Proof.Machine
end

section
/-! PROOFS. Valid frames and the requests they carry (R176 to R185). -/

namespace Sys2Proof.Machine

variable {p q r : Part} {x : Port} {k : RequestKind} {tag kind : Byte} {body : List Byte} {c : Instr}

/-! ### From a frame to its request (R177, R185) -/

/-- A body spells a command of its frame's kind, tag and port. -/
theorem requestOf_requested (h : requestOf x tag k body = some c) : c.RequestedBy x tag k := by
  unfold requestOf at h
  split at h
  case h_24 =>
    split at h <;> cases h
    · exact .inl rfl
    · exact .inr rfl
  all_goals
    cases h
    first
      | exact rfl
      | exact ⟨_, rfl⟩
      | exact ⟨_, _, rfl⟩

/-- What a body spells is a request. -/
theorem requestOf_isRequest (h : requestOf x tag k body = some c) : isRequest c = true := by
  unfold requestOf at h
  split at h
  case h_24 => split at h <;> cases h <;> rfl
  all_goals
    cases h
    rfl

theorem kindAllowed_iff : kindAllowed x k = true ↔ x = .a ∨ k = .taken ∨ k = .peek := by
  cases x <;> simp [kindAllowed]

theorem badMessage_eq (p : Part) (x : Port) (tag : Tag) : p.badMessage x tag =
    { p with
      link := { p.link with conditions := p.link.conditions.noteBadMessage }
      sent := (p.send x (.refused tag (if x = .a then some true else none) .badMessage)).sent } := by
  have noted : p.link.conditions.noteBadMessage.any = true :=
    decide_eq_true fun none => by
      have count : min 255 (p.link.conditions.badMessage + 1) = 0 := (congrArg Conditions.badMessage none :)
      omega
  have mark : (p.note Conditions.noteBadMessage).mark x = if x = .a then some true else none := by
    unfold Part.mark
    rw [show (p.note Conditions.noteBadMessage).link.conditions.any = true from noted]
  rw [Part.badMessage, Part.refuse, mark]
  rfl

/-- The part once a valid frame is complete and, on port A, the watchdog is fed (R182). -/
def Part.fed (p : Part) (x : Port) : Part :=
  { p with link := { p.link with
    receivers := p.link.receivers.set x .hunting
    armed := if x = .a then true else p.link.armed
    watchdog := if x = .a then p.period else p.link.watchdog } }

theorem receive_valid {b : Byte} {bytes : List Byte} {gap : Nat}
    (h : p.link.receivers.get x = .inFrame (some (body.length + 2)) bytes gap) (timely : gap ≤ 50)
    (length : (bytes ++ [b]).length = body.length + 4)
    (taken : (bytes ++ [b]).take (body.length + 2) = kind :: tag :: body)
    (ok : frameOk (body.length + 2) (bytes ++ [b]) = true) :
    p.receive x b = (p.setReceiver x .hunting).validFrame x (kind :: tag :: body) := by
  rw [receive_body b h timely, frameByte_last b (by simpa using length), Part.completeFrame]
  simp only [ok, if_true, taken]

/-- On a port that restores no link the frame is judged at once. -/
theorem validFrame_plain (h : x ≠ .a ∨ p.link.lost = false) :
    (p.setReceiver x .hunting).validFrame x (kind :: tag :: body) = (p.fed x).judge x kind tag body := by
  by_cases a : x = .a
  · subst a
    have up : p.link.lost = false := h.resolve_left fun n => n rfl
    rw [Part.validFrame, if_pos rfl, frameOnA_up (p.setReceiver .a .hunting) _ _ _ up,
      Part.feedWatchdog,
      restoreLink_up (p.setReceiver .a .hunting) up]
    rfl
  · rw [Part.validFrame, if_neg a, Part.fed, if_neg a, if_neg a]
    rfl

/-! ### The REGISTER body (R185) -/

theorem hullOf_filled {hull : List Byte} {n : Nat} (plain : hull.getLast? ≠ some 0) :
    hullOf (hull ++ List.replicate n 0) = hull := by
  have kept : hull.reverse.dropWhile (fun b => decide (b = 0)) = hull.reverse := by
    cases e : hull.reverse with
    | nil => rfl
    | cons y ys =>
      have last : hull.getLast? = some y := by rw [← List.head?_reverse, e]; rfl
      exact List.dropWhile_cons_of_neg fun zero => plain (last.trans (congrArg some (of_decide_eq_true zero)))
  have zeros : (List.replicate n (0 : Byte)).dropWhile (fun b => decide (b = 0)) = [] := by
    rw [List.dropWhile_replicate]
    rfl
  rw [hullOf, List.reverse_append, List.reverse_replicate, List.dropWhile_append, zeros]
  simp only [List.isEmpty_nil, if_true]
  rw [kept, List.reverse_reverse]

theorem slice_behind {first rest : List Byte} {n : Nat} (length : first.length = n) (offset count : Nat) :
    slice (first ++ rest) (n + offset) count = slice rest offset count := by
  subst length
  rw [slice, ← List.drop_drop, List.drop_left]
  rfl

theorem registerOf_fields (d c l1 l0 w1 w0 laden kind a3 a2 a1 a0 priority : Byte) (hull : List Byte)
    (short : hull.length ≤ 8) (plain : hull.getLast? ≠ some 0) :
    let account := 16777216 * a3.toNat + 65536 * a2.toNat + 256 * a1.toNat + a0.toNat
    registerOf (hull ++ List.replicate (8 - hull.length) 0
      ++ [d, c, l1, l0, w1, w0, laden, kind, a3, a2, a1, a0, priority]) =
      { hull := hull, direction := d.toNat, cls := c.toNat, length := 256 * l1.toNat + l0.toNat
        draught := 256 * w1.toNat + w0.toNat, laden := decide (laden ≠ 0), accountKind := kind.toNat
        accountNumber := if account = 0 then none else some account, priority := decide (priority ≠ 0) } := by
  intro account
  have eight : (hull ++ List.replicate (8 - hull.length) (0 : Byte)).length = 8 := by simp; omega
  have mark := hullOf_filled (n := 8 - hull.length) plain
  generalize hull ++ List.replicate (8 - hull.length) 0 = first at eight mark ⊢
  generalize fields : [d, c, l1, l0, w1, w0, laden, kind, a3, a2, a1, a0, priority] = rest
  have at_ (offset count : Nat) : slice (first ++ rest) (8 + offset) count
      = slice [d, c, l1, l0, w1, w0, laden, kind, a3, a2, a1, a0, priority] offset count := by
    rw [slice_behind eight, fields]
  have mark_at : slice (first ++ rest) 0 8 = first := List.take_left' eight
  have account_at : natOf (slice (first ++ rest) 16 4) = account := by
    rw [show slice (first ++ rest) 16 4 = [a3, a2, a1, a0] from at_ 8 4]
    change 256 * (256 * (256 * (256 * 0 + a3.toNat) + a2.toNat) + a1.toNat) + a0.toNat = account
    omega
  have flag (b : Byte) : flagOf [b] = decide (b ≠ 0) := by
    rw [flagOf, decide_eq_decide]
    exact not_congr ⟨fun h => BitVec.eq_of_toNat_eq (by simpa [natOf] using h), fun h => by rw [h]; rfl⟩
  have one (b : Byte) : natOf [b] = b.toNat := by simp [natOf]
  have two (b1 b0 : Byte) : natOf [b1, b0] = 256 * b1.toNat + b0.toNat := by simp [natOf]
  simp only [registerOf, mark_at, mark, account_at]
  rw [show slice (first ++ rest) 8 1 = [d] from at_ 0 1, show slice (first ++ rest) 9 1 = [c] from at_ 1 1,
    show slice (first ++ rest) 10 2 = [l1, l0] from at_ 2 2, show slice (first ++ rest) 12 2 = [w1, w0] from at_ 4 2,
    show slice (first ++ rest) 14 1 = [laden] from at_ 6 1, show slice (first ++ rest) 15 1 = [kind] from at_ 7 1,
    show slice (first ++ rest) 20 1 = [priority] from at_ 12 1, flag, flag, one, one, one, two, two]

/-! ### A restored link (R183) -/

/-- The part with its link up again, noted, and its faces derived anew. -/
def Part.linkUp (p : Part) : Part := (p.setLost false).note Conditions.noteLinkRestored

theorem feedWatchdog_lost (h : p.link.lost = true) : p.feedWatchdog =
    { p.linkUp.settle with
      link := { p.linkUp.settle.link with armed := true, watchdog := p.linkUp.settle.period } } := by
  unfold Part.feedWatchdog Part.restoreLink
  rw [if_pos h]
  rfl

theorem linkUp_form (p : Part) : p.linkUp = { p with
    link := { p.link with lost := false, conditions := { p.link.conditions with linkRestored := true } }
    faces := p.linkUp.faces, lamps := p.linkUp.lamps, lockage := p.linkUp.lockage } := by
  obtain ⟨v, w, l, e⟩ := refreshFaces_form { p with link := { p.link with lost := false } }
  unfold Part.linkUp Part.setLost
  rw [e]
  rfl

theorem linkUp_face (p : Part) (f : Face) : faceOf p.linkUp.faces f = { faceOf p.faces f with
    shown := ({ p with link := { p.link with lost := false } } : Part).shownAspect f } :=
  refreshFaces_face { p with link := { p.link with lost := false } } f

theorem shownAspect_ready {f : Face} (working : p.mode = .working) (up : p.link.lost = false)
    (ready : (faceOf p.faces f).requested = .ready) (decided : (faceOf p.faces f).awaited = false) :
    p.shownAspect f = .ready := by
  simp [Part.shownAspect, working, up, ready, decided]

/-- A face asks what it asked, and READY shows again in WORKING (R40, R183). -/
theorem linkUp_shows (p : Part) (f : Face) : (faceOf p.linkUp.faces f).requested = (faceOf p.faces f).requested
    ∧ (p.mode = .working → (faceOf p.faces f).requested = .ready → (faceOf p.faces f).awaited = false →
      (faceOf p.linkUp.faces f).shown = .ready) := by
  rw [linkUp_face]
  exact ⟨rfl, fun working ready decided =>
    shownAspect_ready (p := { p with link := { p.link with lost := false } }) working rfl ready decided⟩

/-- What the turn selector and the survey leave once the link is up. -/
theorem feedWatchdog_restored (h : p.link.lost = true) : p.feedWatchdog.settings = p.settings
    ∧ p.feedWatchdog.link.lost = false ∧ p.feedWatchdog.link.conditions.linkRestored = true
    ∧ p.sent.a <+: p.feedWatchdog.sent.a := by
  have on := settle_onward p.linkUp false false
  have noted := settle_noted p.linkUp false false
  have form := linkUp_form p
  rw [feedWatchdog_lost h]
  generalize p.linkUp.settle = z at *
  have framed := on.framed .turnEvaluate
  have link := framed.link rfl
  rw [form] at link noted framed
  refine ⟨framed.settings rfl, (congrArg Link.lost link :), noted.linkRestored, framed.sent nofun .a⟩

/-- Where no turn can follow, a restored link only writes what R183 says. -/
theorem feedWatchdog_quiet (h : p.link.lost = true)
    (quiet : quietMode p.mode ∨ (p.mode = .rest ∧ p.navInhibit = true)) :
    ∃ t, p.feedWatchdog = { p.linkUp with
        link := { p.linkUp.link with armed := true, watchdog := p.period }, turn := t } ∧ TurnIdle p.turn t := by
  have form := linkUp_form p
  rw [feedWatchdog_lost h]
  generalize p.linkUp = y at *
  have settled : ∃ t, y.settle = { y with turn := t } ∧ TurnIdle y.turn t := by
    have mode : y.mode = p.mode := by rw [form]
    rcases quiet with quiet | ⟨rest, inhibit⟩
    · exact quiet_settled (mode ▸ quiet) false false
    · exact inhibited_settled (by rw [mode, rest]; decide) (by rw [form]; exact inhibit) false false
  obtain ⟨t, e, idle⟩ := settled
  refine ⟨t, ?_, by rw [form] at idle; exact idle⟩
  rw [e, form]
  rfl

/-! ### The frame that restores the link (R184) -/

theorem takesRestart_none (h : requestKind kind body = none) : takesRestart kind tag body = false := by
  rw [takesRestart, h]

/-- An unknown frame's refusal precedes what the restored link brings. -/
theorem frameOnA_unknown (grown : p.sent.a <+: p.feedWatchdog.sent.a) (unknown : requestKind kind body = none) :
    p.sent.a ++ [.refused tag (some true) .badMessage] <+: (p.frameOnA kind tag body).sent.a := by
  obtain ⟨events, split⟩ := grown
  have judged : p.feedWatchdog.judge .a kind tag body = p.feedWatchdog.badMessage .a tag := by
    rw [Part.judge, unknown]
  have told : (p.feedWatchdog.judge .a kind tag body).sent.a
      = p.sent.a ++ events ++ [.refused tag (some true) .badMessage] := by
    rw [judged, badMessage_eq, split]
    rfl
  have held : p.feedWatchdog.sent.a.length - p.sent.a.length = events.length := by
    rw [← split, List.length_append, Nat.add_sub_cancel_left]
  have sent : (p.frameOnA kind tag body).sent.a
      = replyFirst p.sent.a.length events.length (p.feedWatchdog.judge .a kind tag body).sent.a := by
    simp only [Part.frameOnA, takesRestart_none unknown, Bool.false_eq_true, if_false]
    rw [Part.holdBack, held]
    rfl
  rw [sent, told, replyFirst_reply]
  exact ⟨events, by simp⟩

/-- A RESTART's reply follows what was sent before the frame; its reset overtakes the rest. -/
theorem overtaken_restarts (p : Part) (tag : Tag) (kind : RestartKind)
    (restored : p.link.conditions.linkRestored = true) :
    p.sent.a ++ [.accepted tag (some true) (.restart kind)] <+: (p.takeRestart tag kind).sent.a := by
  have mark : p.mark .a = some true := by
    rw [Part.mark, if_pos rfl]
    exact congrArg some (decide_eq_true fun none => by
      rw [none] at restored
      cases restored)
  have first : (p.accept .a tag (.restart kind)).sent.a = p.sent.a ++ [.accepted tag (some true) (.restart kind)] := by
    rw [Part.accept, mark]
    rfl
  have grows : SentGrows (p.accept .a tag (.restart kind)) ((p.accept .a tag (.restart kind)).restart kind) :=
    (restart_lawful (c := .restartClear tag) _ kind rfl rfl (fun _ => rfl) fun _ => rfl).framed.sent fun _ h => nomatch h
  rw [← first]
  exact grows .a

/-- Settles O59: the frame by its port and the link's state, its kind by the request it spells. -/
theorem validFramesReachTheirBlocks : Obligations.ValidFramesReachTheirBlocks := by
  unfold Obligations.ValidFramesReachTheirBlocks
  refine ⟨fun x b kind tag body bytes gap s receiver timely length taken ok => ?_,
    fun x tag k body c h => requestOf_requested h,
    fun x tag d c l1 l0 w1 w0 laden kind a3 a2 a1 a0 priority hull short plain =>
      congrArg (fun v => some (Instr.register tag v))
      (registerOf_fields d c l1 l0 w1 w0 laden kind a3 a2 a1 a0 priority hull short plain)⟩
  have received := receive_valid receiver timely length taken ok
  intro fed refusal bad judged
  have bads (p : Part) : p.badMessage x tag = bad p := badMessage_eq p x tag
  have judges (p : Part) : judged p (p.judge x kind tag body) := by
    simp only [judged]
    rw [Part.judge]
    cases requestKind kind body with
    | none => exact bads p
    | some k =>
      simp only [Bool.and_eq_true, kindAllowed_iff, decide_eq_true_eq]
      split
      · rw [Part.route]
        cases h : requestOf x tag k body with
        | none => rfl
        | some c => exact exec_request { s with part := p } (requestOf_isRequest h)
      · exact bads p
  have plainly (h : x ≠ .a ∨ s.part.link.lost = false) : s.part.receive x b = (s.part.fed x).judge x kind tag body :=
    received.trans (validFrame_plain h)
  refine ⟨fun h => ⟨_, exec_eq rfl (plainly h), judges _⟩, fun ⟨m, code⟩ h => exec_eq rfl ((plainly h).trans ?_),
    fun a lost quiet => ?_, fun a lost unknown => ?_, fun a lost => ⟨_, rfl, fun c restart long spelt => ?_⟩⟩
  · rw [Part.judge, code, requestKind_sent]
    exact bads (s.part.fed x)
  all_goals subst a
  all_goals have onA : s.part.receive .a b = (s.part.setReceiver .a .hunting).frameOnA kind tag body := received
  · obtain ⟨t, e, idle⟩ := feedWatchdog_quiet (p := s.part.setReceiver .a .hunting) lost quiet
    have form := linkUp_form (s.part.setReceiver .a .hunting)
    have face := linkUp_shows (s.part.setReceiver .a .hunting)
    have kept : LockageKept s.part.lockage (s.part.setReceiver .a .hunting).linkUp.lockage :=
      (refreshFaces_framing { s.part.setReceiver .a .hunting with
        link := { (s.part.setReceiver .a .hunting).link with lost := false } }).kept
    generalize (s.part.setReceiver .a .hunting).linkUp = y at *
    have silent : (s.part.setReceiver .a .hunting).feedWatchdog.sent.a = (s.part.setReceiver .a .hunting).sent.a := by
      rw [e, form]
    have judgedOnA : s.part.receive .a b = (s.part.setReceiver .a .hunting).feedWatchdog.judge .a kind tag body := by
      rw [onA, Part.frameOnA]
      simp only [overtaken_nothing _ _ silent, ite_self]
      exact holdBack_nothing _ _ _ silent
    refine ⟨_, _, exec_eq rfl judgedOnA, judges _, ?_, ?_, ?_, fun f => ?_⟩
    · rw [e, form]
      rfl
    · rw [e]
      exact kept
    · rw [e]
      exact idle
    · rw [e]
      exact face f
  · obtain ⟨-, -, -, grown⟩ := feedWatchdog_restored (p := s.part.setReceiver .a .hunting) lost
    have first := frameOnA_unknown (tag := tag) grown unknown
    generalize (s.part.setReceiver .a .hunting).frameOnA kind tag body = z at *
    exact ⟨z, exec_eq rfl onA, first⟩
  · obtain ⟨settings, up, restored, -⟩ := feedWatchdog_restored (p := s.part.setReceiver .a .hunting) lost
    have takes : takesRestart kind tag body = true := by
      rw [takesRestart, restart, spelt]
      exact (Bool.and_true _).trans (decide_eq_true long)
    have routed (p : Part) : p.judge .a kind tag body = p.request c := by
      rw [Part.judge, restart]
      simp only [kindAllowed_iff.2 (.inl rfl), decide_eq_true long, Bool.and_self, if_true]
      rw [Part.route, spelt]
    rw [frameOnA_restart _ _ _ _ takes, routed] at onA
    have sent : ((s.part.setReceiver .a .hunting).feedWatchdog.overtaken (s.part.setReceiver .a .hunting)).sent.a
      = s.part.sent.a := overtaken_sent _ _
    have settings : ((s.part.setReceiver .a .hunting).feedWatchdog.overtaken (s.part.setReceiver .a .hunting)).settings
      = s.part.settings := settings
    have up : ((s.part.setReceiver .a .hunting).feedWatchdog.overtaken (s.part.setReceiver .a .hunting)).link.lost
      = false := up
    have restored : ((s.part.setReceiver .a .hunting).feedWatchdog.overtaken
      (s.part.setReceiver .a .hunting)).link.conditions.linkRestored = true := restored
    generalize (s.part.setReceiver .a .hunting).feedWatchdog.overtaken (s.part.setReceiver .a .hunting) = z at *
    rw [onA]
    have run : exec c { s with part := z } = .next { s with part := z.request c } :=
      exec_request _ (requestOf_isRequest spelt)
    have first (kind : RestartKind) (e : z.request c = z.takeRestart tag kind) :
        s.part.sent.a ++ [.accepted tag (some true) (.restart kind)] <+: (z.request c).sent.a := by
      rw [e, ← sent]
      exact overtaken_restarts z tag kind restored
    rcases requestOf_requested spelt with named | named
    · exact ⟨z, .keep, run, sent, settings, up, restored, first .keep (by rw [named]; rfl)⟩
    · exact ⟨z, .clear, run, sent, settings, up, restored, first .clear (by rw [named]; rfl)⟩

end Sys2Proof.Machine
end

section
/-! PROOFS. Missed periods, class changes and drift (R7, R8, R16, R17). -/

namespace Sys2Proof.Machine

variable {p q r : Part}

/-! ### What a sample leaves of a record -/

/-- The fields of a record that isolation writes (R16, R17). -/
def ReachRec.isolation (x : ReachRec) : Option Int × Bool := (x.isolationLevel, x.driftReported)

theorem tested_isolation (x : ReachRec) (g : ReachGroup) (raw : Nat) : (x.tested g raw).isolation = x.isolation := by
  unfold ReachRec.tested
  split
  · split <;> rfl
  · rfl

theorem extended_isolation (x : ReachRec) (g : ReachGroup) (raw : Nat) : (x.extended g raw).isolation = x.isolation := by
  unfold ReachRec.extended
  split
  · split <;> rfl
  · rfl

theorem recovering_isolation (x : ReachRec) (g : ReachGroup) (raw : Nat) : (x.recovering g raw).isolation = x.isolation := by
  unfold ReachRec.recovering
  have extended := extended_isolation x g raw
  dsimp only
  split
  · exact extended
  · exact extended

theorem sampled_isolation (x : ReachRec) (g : ReachGroup) (raw : Nat) : (x.sampled g raw).isolation = x.isolation := by
  unfold ReachRec.sampled
  split
  · unfold ReachRec.settled
    dsimp only
    split <;> rfl
  · rfl
  · exact recovering_isolation x g raw
  · exact tested_isolation x g raw
  · exact tested_isolation x g raw
  · exact tested_isolation x g raw

theorem arrival_isolation (x : ReachRec) (g : Option ReachGroup) (raw : Nat) : (x.arrival g raw).isolation = x.isolation := by
  cases g with
  | none => rfl
  | some g => exact sampled_isolation x g raw

/-- A record is its reading with its isolation. -/
theorem reading_eq {x y : ReachRec} (h : x.reading = y.reading) : x =
    { y with isolationLevel := x.isolationLevel, driftReported := x.driftReported } := by
  have whole : ∀ z : ReachRec, z = { z.reading with isolationLevel := z.isolationLevel, driftReported := z.driftReported } :=
    fun z => rfl
  calc x = { x.reading with isolationLevel := x.isolationLevel, driftReported := x.driftReported } := whole x
    _ = { y with isolationLevel := x.isolationLevel, driftReported := x.driftReported } := by rw [h]; rfl

theorem ordered_iff (c : ReadingClass) : c.ordered = true ↔ c = .valid ∨ c = .limitedLow ∨ c = .limitedHigh := by
  cases c <;> simp [ReadingClass.ordered]

theorem notedClass_iff (c : ReadingClass) : notedClass c = true ↔ ¬ (c = .valid ∨ c = .settling) := by
  cases c <;> simp [notedClass]

/-! ### The note of a class change (R8) -/

/-- The entries of the record with a reach's new class where R8 notes it. -/
theorem noteClass_reaches (p : Part) (x : Reach) (was : ReadingClass) : (p.noteClass x was).link.conditions.reaches =
    if (p.reaches.get x).cls = was ∨ (p.reaches.get x).cls = .valid ∨ (p.reaches.get x).cls = .settling
    then p.link.conditions.reaches else p.link.conditions.reaches.set x (some (p.reaches.get x).cls) := by
  unfold Part.noteClass
  dsimp only
  by_cases same : (p.reaches.get x).cls = was
  · rw [if_neg fun h => h.1 same, if_pos (.inl same)]
  · by_cases plain : (p.reaches.get x).cls = .valid ∨ (p.reaches.get x).cls = .settling
    · rw [if_neg fun h => (notedClass_iff _).1 h.2 plain, if_pos (.inr plain)]
    · rw [if_pos ⟨same, (notedClass_iff _).2 plain⟩, if_neg fun h => h.elim same plain]
      rfl

theorem examineReach_noted (p : Part) (x : Reach) : Noted p (p.examineReach x) := by
  unfold Part.examineReach
  split <;> exact .refl p

theorem driftOf_noted (p : Part) (x : Reach) : Noted p (p.driftOf x) := by
  unfold Part.driftOf
  split
  · next c _ =>
    rw [driftTest_eq]
    split
    · exact report_noted (p.driftMarked c) _ _
    · exact .refl p
  · exact .refl p

/-- The part with a reach's record as a sample or a missed period leaves it. -/
def Part.withRecord (p : Part) (x : Reach) (y : ReachRec) : Part := { p with reaches := p.reaches.set x y }

theorem withRecord_cls (x : Reach) (y : ReachRec) : ((p.withRecord x y).reaches.get x).cls = y.cls := by
  rw [Part.withRecord, Five.get_set_self]

/-- What follows a sample's record (R8). -/
def Part.sampleFollows (p : Part) (x : Reach) (was : ReadingClass) (b : Bool) : Part :=
  ((((p.noteClass x was).examineReach x).driftOf x).announce x).settle b

theorem sampleFollows_onward (p : Part) (x : Reach) (was : ReadingClass) (b : Bool) :
    Onward p (p.sampleFollows x was b) :=
  ((((noteClass_worked p x was).trans (examineReach_worked _ x)).trans (driftOf_worked _ x)).onward.trans
    (announce_onward _ x)).trans (settle_onward _ b _)

theorem sampleFollows_noted (p : Part) (x : Reach) (was : ReadingClass) (b : Bool) :
    Noted (p.noteClass x was) (p.sampleFollows x was b) :=
  (((examineReach_noted _ x).trans (driftOf_noted _ x)).trans (announce_noted _ x)).trans (settle_noted _ b _)

/-- What follows a missed period that changes the class (R7, R8). -/
def Part.missFollows (p : Part) (x : Reach) (was : ReadingClass) : Part :=
  ((p.noteClass x was).announce x).settle true

theorem missFollows_onward (p : Part) (x : Reach) (was : ReadingClass) : Onward p (p.missFollows x was) :=
  (noteClass_worked p x was).onward.trans ((announce_onward _ x).trans (settle_onward _ true _))

theorem missFollows_noted (p : Part) (x : Reach) (was : ReadingClass) :
    Noted (p.noteClass x was) (p.missFollows x was) := (announce_noted _ x).trans (settle_noted _ true _)

theorem sampleArrival_part (x : Reach) (raw : Fin 4096) (s : State) : ∃ b, exec (.sampleArrival x raw) s = .next { s with
    part := (s.part.withRecord x ((s.part.reaches.get x).arrival (s.part.settings.reach.get x) raw.val)).sampleFollows x
      (s.part.reaches.get x).cls b } := ⟨_, rfl⟩

theorem sampleTimer_part (x : Reach) (s : State) : exec (.sampleTimerExpiry x) s = .next { s with
    part := if (s.part.reaches.get x).missedPeriod.cls = (s.part.reaches.get x).cls
      then s.part.withRecord x (s.part.reaches.get x).missedPeriod
      else (s.part.withRecord x (s.part.reaches.get x).missedPeriod).missFollows x (s.part.reaches.get x).cls } := by
  simp only [exec, execSampleTimerExpiry, Five.get_set_self]
  split
  · rfl
  · rfl

/-- The entries of the record with a reach's class in it where R8 notes a change. -/
def noteReached (v : Five (Option ReadingClass)) (x : Reach) (was now : ReadingClass) : Five (Option ReadingClass) :=
  if now = was ∨ now = .valid ∨ now = .settling then v else v.set x (some now)

/-- What a sample or a missed period leaves in the record of conditions. -/
theorem sample_notes {x : Reach} {s : State} {c : Instr} (h : c = .sampleTimerExpiry x ∨ ∃ raw, c = .sampleArrival x raw) :
    ∃ q, exec c s = .next { s with part := q } ∧ q.link.conditions.reaches
      = noteReached s.part.link.conditions.reaches x (s.part.reaches.get x).cls (q.reaches.get x).cls := by
  have noted (y : ReachRec) {z : Part} (on : Onward (s.part.withRecord x y) z)
      (note : Noted ((s.part.withRecord x y).noteClass x (s.part.reaches.get x).cls) z) : z.link.conditions.reaches
      = noteReached s.part.link.conditions.reaches x (s.part.reaches.get x).cls (z.reaches.get x).cls := by
    have cls : (z.reaches.get x).cls = ((s.part.withRecord x y).reaches.get x).cls :=
      (congrArg ReachRec.cls (on.toMoved.reading x) :)
    rw [note.reaches, noteClass_reaches, cls]
    rfl
  rcases h with rfl | ⟨raw, rfl⟩
  · refine ⟨_, sampleTimer_part x s, ?_⟩
    split
    · next same =>
      rw [withRecord_cls, noteReached, if_pos (.inl same)]
      rfl
    · exact noted _ (missFollows_onward _ x _) (missFollows_noted _ x _)
  · obtain ⟨b, run⟩ := sampleArrival_part x raw s
    exact ⟨_, run, noted _ (sampleFollows_onward _ x _ b) (sampleFollows_noted _ x _ b)⟩

/-! ### Drift of an isolated chamber (R16, R17) -/

theorem foldl_stands {α : Type} {f : Part → α → Part} (h : ∀ x, f p x = p) (xs : List α) : xs.foldl f p = p := by
  induction xs with
  | nil => rfl
  | cons x xs ih => rw [List.foldl_cons, h, ih]

/-- With no transfer ramping and no gate waiting, an announcement beside a chamber reaches nothing. -/
theorem announce_idle (c : Chamber) (ramps : ∀ k, p.ramping k = false) (pending : ∀ h, (p.gates.get h).openPending = false)
    (notWorking : p.mode ≠ .working) : p.announce c.reach = p := by
  have gates : c.reach.gates.foldl Part.retestGate p = p :=
    foldl_stands (fun g => if_pos (pending g)) _
  have transfers : c.reach.gates.foldl Part.announceTransfer p = p :=
    foldl_stands (fun k => if_neg (by rw [ramps k]; exact Bool.false_ne_true)) _
  rw [Part.announce, gates, transfers, announceOpen_other _ notWorking]
  cases c <;> rfl

/-- The part with a sample at a chamber stored, noted and its isolation examined (R8, R16). -/
def Part.sampledAt (p : Part) (c : Chamber) (raw : Nat) : Part :=
  ((p.withRecord c.reach ((p.reaches.get c.reach).arrival (p.settings.reach.get c.reach) raw)).noteClass c.reach
    (p.reaches.get c.reach).cls).examineReach c.reach

theorem noteClass_form (p : Part) (x : Reach) (was : ReadingClass) : ∃ u, p.noteClass x was =
    { p with link := { p.link with conditions := { p.link.conditions with reaches := u } } } := by
  unfold Part.noteClass
  dsimp only
  split
  · exact ⟨_, rfl⟩
  · exact ⟨_, rfl⟩

theorem examineReach_chamber (p : Part) (c : Chamber) : p.examineReach c.reach = p.withRecord c.reach (p.examined c) := by
  cases c <;> rfl

theorem driftOf_chamber (p : Part) (c : Chamber) : p.driftOf c.reach = p.driftTest c := by cases c <;> rfl

/-- A sample at an isolated chamber changes its record and the note alone. -/
theorem sampledAt_form (p : Part) (c : Chamber) (raw : Nat) (isolated : p.isolated c = true) : ∃ u y,
    p.sampledAt c raw = { p with
      reaches := (p.sampledAt c raw).reaches
      link := { p.link with conditions := { p.link.conditions with reaches := u } } }
    ∧ (p.sampledAt c raw).reaches.get c.reach = y
    ∧ y.isolationLevel = (if (p.reaches.get c.reach).isolationLevel = none ∧ y.cls = .valid
        then (p.sampledAt c raw).level c.reach else (p.reaches.get c.reach).isolationLevel)
    ∧ y.driftReported = (p.reaches.get c.reach).driftReported := by
  have kept := arrival_isolation (p.reaches.get c.reach) (p.settings.reach.get c.reach) raw
  unfold Part.sampledAt
  generalize (p.reaches.get c.reach).arrival (p.settings.reach.get c.reach) raw = y at *
  have iso : y.isolationLevel = (p.reaches.get c.reach).isolationLevel := (congrArg Prod.fst kept :)
  have reported : y.driftReported = (p.reaches.get c.reach).driftReported := (congrArg Prod.snd kept :)
  obtain ⟨u, noted⟩ := noteClass_form (p.withRecord c.reach y) c.reach (p.reaches.get c.reach).cls
  rw [noted, examineReach_chamber]
  generalize withY : ({ p.withRecord c.reach y with link := { (p.withRecord c.reach y).link with
    conditions := { (p.withRecord c.reach y).link.conditions with reaches := u } } } : Part) = z
  have record : z.reaches.get c.reach = y := by rw [← withY]; exact Five.get_set_self _ _ _
  have still : z.isolated c = true := by rw [← withY]; exact isolated
  have reading : ((z.withRecord c.reach (z.examined c)).reaches.get c.reach).reading = (z.reaches.get c.reach).reading := by
    rw [Part.withRecord, Five.get_set_self, examined_reading]
  have level : (z.withRecord c.reach (z.examined c)).level c.reach = z.level c.reach := level_of_reading c.reach reading rfl
  refine ⟨u, z.examined c, by rw [← withY]; rfl, Five.get_set_self _ _ _, ?_, ?_⟩
  · rw [level, ← iso, Part.examined, if_pos still, record]
    split
    · rfl
    · rfl
  · rw [← reported, Part.examined, if_pos still, record]
    split <;> rfl

/-- A chamber's drift as its class's row of R17 proves it. -/
def Part.driftProved (p : Part) (c : Chamber) (was : Option Int) (d : Int) : Prop :=
  ∃ i, was = some i ∧ ∃ n, p.level c.reach = some n
    ∧ (((p.reaches.get c.reach).cls = .valid ∧ (d < n - i ∨ d < i - n))
      ∨ ((p.reaches.get c.reach).cls = .limitedHigh ∧ d < n - i)
      ∨ ((p.reaches.get c.reach).cls = .limitedLow ∧ d < i - n))

theorem driftProven_iff (u : ReadingClass) (n i d : Int) : driftProven u n i d = true ↔
    (u = .valid ∧ (d < n - i ∨ d < i - n)) ∨ (u = .limitedHigh ∧ d < n - i) ∨ (u = .limitedLow ∧ d < i - n) := by
  cases u <;> simp [driftProven]

theorem drifts_iff {c : Chamber} {g : ReachGroup} {d : Int} {was : Option Int}
    (group : p.settings.reach.get c.reach = some g) (drift : g.drift = some d) (nonneg : 0 ≤ d)
    (isolated : p.isolated c = true)
    (iso : (p.reaches.get c.reach).isolationLevel
      = if was = none ∧ (p.reaches.get c.reach).cls = .valid then p.level c.reach else was) :
    p.drifts c = true ↔ p.driftProved c was d := by
  have limit : (p.settings.reach.get c.reach).bind (·.drift) = some d := by rw [group]; exact drift
  have now : p.drifts c = true ↔ ∃ n i, p.level c.reach = some n ∧ (p.reaches.get c.reach).isolationLevel = some i
      ∧ driftProven (p.reaches.get c.reach).cls n i d = true := by
    unfold Part.drifts
    rw [limit, isolated]
    cases p.level c.reach with
    | none => simp
    | some n => cases (p.reaches.get c.reach).isolationLevel <;> simp
  rw [now]
  constructor
  · rintro ⟨n, i, level, at_, proven⟩
    have row := (driftProven_iff _ _ _ _).1 proven
    cases was with
    | some w =>
      rw [if_neg fun h => nomatch h.1] at iso
      exact ⟨i, iso ▸ at_, n, level, row⟩
    | none =>
      by_cases valid : (p.reaches.get c.reach).cls = .valid
      · rw [if_pos ⟨rfl, valid⟩, level] at iso
        obtain rfl : n = i := Option.some.inj (iso.symm.trans at_)
        simp only [valid] at row
        rcases row with ⟨-, far | far⟩ | ⟨no, -⟩ | ⟨no, -⟩
        · omega
        · omega
        · cases no
        · cases no
      · rw [if_neg fun h => valid h.2, at_] at iso
        cases iso
  · rintro ⟨i, rfl, n, level, row⟩
    rw [if_neg fun h => nomatch h.1] at iso
    exact ⟨n, i, level, iso, (driftProven_iff _ _ _ _).2 row⟩

/-- A record on which the drift was reported keeps its reading and its isolation level. -/
theorem driftMarked_reading (p : Part) (c : Chamber) : (((p.driftMarked c).reaches.get c.reach).reading
    = (p.reaches.get c.reach).reading) := by
  rw [Part.driftMarked, Five.get_set_self]
  rfl

/-- While nothing runs a sample at an isolated chamber ends with the drift test (R17, R117). -/
theorem sampleFollows_stands {c : Chamber} {was : ReadingClass} {b : Bool} {e : Part}
    (sampled : (p.noteClass c.reach was).examineReach c.reach = e) (stands : e.StandsBy)
    (ramps : ∀ k, e.ramping k = false) (pending : ∀ h, (e.gates.get h).openPending = false) :
    p.sampleFollows c.reach was b = if e.drifts c = true ∧ (e.reaches.get c.reach).driftReported = false
      then ((e.driftMarked c).told .levelDrift (.chamber c)).recompute else e.recompute := by
  rw [Part.sampleFollows, sampled, driftOf_chamber, driftTest_eq]
  split
  · have marked : (e.driftMarked c).StandsBy := stands.of rfl rfl
    rw [report_told _ _ _ marked.rests ⟨by decide, by decide⟩,
      announce_idle (p := (e.driftMarked c).told .levelDrift (.chamber c)) c ramps pending marked.rests.1]
    exact Part.StandsBy.settle (p := (e.driftMarked c).told .levelDrift (.chamber c)) marked _ _
  · rw [announce_idle c ramps pending stands.rests.1]
    exact stands.settle _ _

theorem halted_pending (x : GateRec) (h : x.openPending = false) : x.halted.openPending = false := by
  cases state : x.state <;> simp [GateRec.halted, state, h]

/-- A drift that halts the flight (R17, R119). -/
theorem sampleFollows_halts {c : Chamber} {was : ReadingClass} {b : Bool} {e : Part}
    (sampled : (p.noteClass c.reach was).examineReach c.reach = e) (drifts : e.drifts c = true)
    (fresh : (e.reaches.get c.reach).driftReported = false) (runs : e.mode = .working ∨ e.mode = .survey)
    (response : e.responseOf .levelDrift = .halt) (drives : e.DrivesMatch)
    (pending : ∀ h, (e.gates.get h).openPending = false) :
    HaltedFrom e (p.sampleFollows c.reach was b) .levelDrift (.chamber c) := by
  rw [Part.sampleFollows, sampled, driftOf_chamber, driftTest_eq, if_pos ⟨drifts, fresh⟩,
    report_halts (e.driftMarked c) .levelDrift (.chamber c) runs response]
  have halted := haltFlight_halted (e.driftMarked c) .levelDrift (.chamber c) drives
  have gates := haltFlight_gates (e.driftMarked c) .levelDrift (.chamber c)
  generalize (e.driftMarked c).haltFlight .levelDrift (.chamber c) = z at *
  have mode : z.mode = .halted := halted.1
  obtain ⟨-, -, -, -, -, -, -, -, -, -, ramps⟩ := id halted
  have still : ∀ h, (z.gates.get h).openPending = false := fun h => by
    rw [gates, Four.get_map]
    exact halted_pending _ (pending h)
  rw [announce_idle c ramps still (by rw [mode]; decide)]
  exact HaltedFrom.settle (p := e) (halted.before _ rfl rfl rfl rfl rfl rfl rfl) _ _

/-- Settles O16: the missed period, the note of a class change, and the drift test of an isolated chamber. -/
theorem missedPeriodsAndClassChanges : Obligations.MissedPeriodsAndClassChanges := by
  unfold Obligations.MissedPeriodsAndClassChanges
  refine ⟨fun r s => ⟨?_, fun raw unset => ?_⟩, fun r s c h => sample_notes h, fun c raw s g d group drift nonneg isolated
    ramps pending => ?_⟩
  · obtain ⟨q, run, reading, same⟩ := sampleTimer_leaves r s
    refine ⟨q, run, ?_, fun plain => ?_⟩
    · rw [missedPeriod_eq] at reading
      exact reading_eq reading
    · have stands : (s.part.reaches.get r).missedPeriod.cls = (s.part.reaches.get r).cls := by
        rw [missedPeriod_eq]
        exact if_neg fun h => by rw [plain h.1] at h; exact absurd h.2 Bool.false_ne_true
      have e := same stands
      rw [e, Five.get_set_self]
  · obtain ⟨q, run, reading⟩ := sampleArrival_reading r raw s
    rw [unset] at reading
    exact ⟨q, run, reading_eq reading⟩
  intro x
  obtain ⟨b, run⟩ := sampleArrival_part c.reach raw s
  obtain ⟨u, z, form, record, iso, reported⟩ := sampledAt_form s.part c raw.val isolated
  have first := (noteClass_worked (s.part.withRecord c.reach ((s.part.reaches.get c.reach).arrival
    (s.part.settings.reach.get c.reach) raw.val)) c.reach (s.part.reaches.get c.reach).cls).trans
    (examineReach_worked _ c.reach)
  have on := sampleFollows_onward (s.part.withRecord c.reach
    ((s.part.reaches.get c.reach).arrival (s.part.settings.reach.get c.reach) raw.val)) c.reach
    (s.part.reaches.get c.reach).cls b
  have stands := fun e sampled => sampleFollows_stands (b := b) (e := e) (p := s.part.withRecord c.reach
    ((s.part.reaches.get c.reach).arrival (s.part.settings.reach.get c.reach) raw.val)) (c := c)
    (was := (s.part.reaches.get c.reach).cls) sampled
  have halts := fun e sampled => sampleFollows_halts (b := b) (e := e) (p := s.part.withRecord c.reach
    ((s.part.reaches.get c.reach).arrival (s.part.settings.reach.get c.reach) raw.val)) (c := c)
    (was := (s.part.reaches.get c.reach).cls) sampled
  have sampled : ((s.part.withRecord c.reach ((s.part.reaches.get c.reach).arrival (s.part.settings.reach.get c.reach)
    raw.val)).noteClass c.reach (s.part.reaches.get c.reach).cls).examineReach c.reach = s.part.sampledAt c raw.val := rfl
  rw [sampled] at first
  replace stands := stands _ sampled
  replace halts := halts _ sampled
  generalize Part.sampleFollows _ _ _ b = q at *
  generalize s.part.sampledAt c raw.val = e at *
  have reading : (q.reaches.get c.reach).reading = (e.reaches.get c.reach).reading :=
    (on.toMoved.reading c.reach).trans (first.onward.toMoved.reading c.reach).symm
  have settings : q.settings = e.settings :=
    (congrArg Part.settings on.base).trans (congrArg Part.settings first.onward.base).symm
  have level := level_of_reading c.reach reading settings
  have cls : (q.reaches.get c.reach).cls = (e.reaches.get c.reach).cls := (congrArg ReachRec.cls reading :)
  have drifts := drifts_iff (p := e) (was := x.isolationLevel) (by rw [form]; exact group) drift nonneg
    (by rw [form]; exact isolated) (by rw [record]; exact iso)
  have now : (e.reaches.get c.reach).driftReported = x.driftReported := (congrArg ReachRec.driftReported record).trans reported
  have kept : (e.reaches.get c.reach).isolationLevel
      = if x.isolationLevel = none ∧ (e.reaches.get c.reach).cls = .valid then e.level c.reach else x.isolationLevel := by
    rw [record]
    exact iso
  refine ⟨q, run, ?_⟩
  intro y proven
  have proved : proven ↔ e.drifts c = true := by
    rw [drifts]
    simp only [proven, y, Part.driftProved, level, cls]
  refine ⟨fun standsBy => ?_, fun runs drives response proves fresh => ?_⟩
  · have left := stands (standsBy.of (by rw [form]) (by rw [form])) (by rw [form]; exact ramps) (by rw [form]; exact pending)
    by_cases told : e.drifts c = true ∧ (e.reaches.get c.reach).driftReported = false
    · rw [if_pos told] at left
      have marked : y = { e.reaches.get c.reach with driftReported := true } := by
        simp only [y]
        rw [left]
        exact Five.get_set_self _ _ _
      refine ⟨?_, ?_, fun quiet => absurd ⟨proved.2 told.1, now.symm.trans told.2⟩ quiet, fun _ _ => ?_⟩
      · rw [marked, level]
        exact kept
      · rw [marked]
        exact iff_of_true rfl (.inr (proved.2 told.1))
      · rw [left, form]
        exact ⟨rfl, rfl⟩
    · rw [if_neg told] at left
      have same : y = e.reaches.get c.reach := by
        simp only [y]
        rw [left]
        rfl
      refine ⟨?_, ?_, fun _ => ?_, fun proves fresh => absurd ⟨proved.1 proves, now.trans fresh⟩ told⟩
      · rw [same, level]
        exact kept
      · rw [same, now, proved]
        refine ⟨.inl, fun h => h.elim id fun drifting => ?_⟩
        cases was : x.driftReported with
        | true => rfl
        | false => exact absurd ⟨drifting, now.trans was⟩ told
      · rw [left, form]
        rfl
  · have halted := halts (proved.1 proves) (now.trans fresh) (by rw [form]; exact runs) (by rw [form]; exact response)
      (by rw [form]; exact drives) (by rw [form]; exact pending)
    have link := halted.2.2.2.1
    have reaches : q.link.conditions.reaches = u := by
      rw [link, form]
    rw [reaches]
    rw [form] at halted
    exact halted

end Sys2Proof.Machine
end

section
/-! PROOFS. Arrivals in WORKING, and the ending they bring (R93 to R97, R153 to R159). -/

namespace Sys2Proof.Machine

variable {p q r : Part} {l : Lockage} {o : LockageOutcome}

/-! ### The counts of an ending (R153, R154) -/

theorem bump_counters (u : OutletUnit) (k : Counter) (n : Nat) :
    (u.bump k n).counters = u.counters.set k (min k.limit (u.counters.get k + n)) := by
  unfold OutletUnit.bump
  split
  · next beyond => rw [Nat.min_eq_left (Nat.le_of_lt beyond)]
  · next inside => rw [Nat.min_eq_right (Nat.not_lt.1 inside)]

theorem bump_form (u : OutletUnit) (k : Counter) (n : Nat) :
    ∃ b, u.bump k n = { u with counters := (u.bump k n).counters, saturated := b } := by
  unfold OutletUnit.bump
  split
  · exact ⟨_, rfl⟩
  · exact ⟨_, rfl⟩

/-- An ending's counts write the counters and the saturated mark alone. -/
theorem countEnding_form (u : OutletUnit) (o : LockageOutcome) (r : Option LockageRecord) :
    ∃ b, u.countEnding o r = { u with counters := (u.countEnding o r).counters, saturated := b } := by
  unfold OutletUnit.countEnding
  obtain ⟨b1, e1⟩ := bump_form u o.counter 1
  cases r with
  | none => exact ⟨b1, e1⟩
  | some x =>
    obtain ⟨b2, e2⟩ := bump_form (u.bump o.counter 1) .lockageRecords 1
    obtain ⟨b3, e3⟩ := bump_form ((u.bump o.counter 1).bump .lockageRecords 1) .vessels x.lines.length
    obtain ⟨b4, e4⟩ := bump_form (((u.bump o.counter 1).bump .lockageRecords 1).bump .vessels x.lines.length) .tollSum
      x.total
    refine ⟨b4, ?_⟩
    dsimp only
    generalize ((((u.bump o.counter 1).bump .lockageRecords 1).bump .vessels x.lines.length).bump .tollSum x.total)
      = u4 at *
    rw [e4, e3, e2, e1]

/-- The counters an ending with a record leaves. -/
theorem countEnding_counters (u : OutletUnit) (o : LockageOutcome) (x : LockageRecord) :
    (u.countEnding o (some x)).counters = { u.counters.set o.counter (min 65535 (u.counters.get o.counter + 1)) with
      lockageRecords := min 65535 (u.counters.lockageRecords + 1)
      vessels := min 65535 (u.counters.vessels + x.lines.length)
      tollSum := min 99999999 (u.counters.tollSum + x.total) } := by
  simp only [OutletUnit.countEnding, bump_counters]
  cases o <;> rfl

/-- The unit with an ending's record appended and counted, before its tally is tried. -/
def OutletUnit.closedWith (u : OutletUnit) (o : LockageOutcome) (x : LockageRecord) : OutletUnit :=
  let v := OutletUnit.countEnding { u with
    nextSequence := nextNumber u.nextSequence
    outlets := u.outlets.map (Outlet.appended ⟨u.nextSequence, .lockage x⟩) } o (some x)
  { v with tally := v.dueTally }

theorem closedOut_outlets (kept : o.returns l.entryPassed = false) : ∃ y : Part, y.outlets
    = p.outlets.closedWith o (p.tollRecord l o) ∧ (p.closedOut l o).outlets = y.tryTally.outlets := by
  have unit : (p.allStopped l o).outlets = p.outlets := (allStopped_framing p l o).outlets
  unfold Part.closedOut Part.dispose
  rw [kept, if_neg Bool.false_ne_true, if_neg Bool.false_ne_true, allStopped_tollRecord, Part.countEnding]
  refine ⟨_, ?_, rfl⟩
  rw [appendRecord_eq, unit]
  rfl

/-- What the ending's tally makes of the unit (R155 to R159). -/
theorem closedWith_leaves (u : OutletUnit) (o : LockageOutcome) (x : LockageRecord) :
    let v := u.closedWith o x
    v.nextSequence = nextNumber u.nextSequence
      ∧ v.outlets = u.outlets.map (Outlet.appended ⟨u.nextSequence, .lockage x⟩)
      ∧ v.counters = { u.counters.set o.counter (min 65535 (u.counters.get o.counter + 1)) with
          lockageRecords := min 65535 (u.counters.lockageRecords + 1)
          vessels := min 65535 (u.counters.vessels + x.lines.length)
          tollSum := min 99999999 (u.counters.tollSum + x.total) }
      ∧ v.tally = (OutletUnit.dueTally { u with counters := v.counters }) := by
  intro v
  obtain ⟨b, form⟩ := countEnding_form { u with
    nextSequence := nextNumber u.nextSequence
    outlets := u.outlets.map (Outlet.appended ⟨u.nextSequence, .lockage x⟩) } o (some x)
  have counters := countEnding_counters { u with
    nextSequence := nextNumber u.nextSequence
    outlets := u.outlets.map (Outlet.appended ⟨u.nextSequence, .lockage x⟩) } o x
  simp only [v, OutletUnit.closedWith]
  generalize OutletUnit.countEnding _ o (some x) = w at *
  rw [form]
  exact ⟨rfl, rfl, counters, rfl⟩

/-- The records of an interval reached (R155). -/
theorem periodicDue_iff (u : OutletUnit) :
    u.periodicDue = true ↔ u.interval ≠ 0 ∧ u.interval ≤ u.counters.lockageRecords := by
  simp [OutletUnit.periodicDue]

theorem dueTally_idle {u : OutletUnit} (h : u.tally = .none) :
    u.dueTally = if u.periodicDue = true then .pending false true else .none := by
  rw [OutletUnit.dueTally, h]

theorem dueTally_waiting {u : OutletUnit} (h : u.tally = .waiting) : u.dueTally = .pending true u.periodicDue := by
  rw [OutletUnit.dueTally, h]

/-! ### What the gates and sluices beside a passage do at REST -/

/-- A change of works, messages and notes that leaves what the faces ask. -/
structure Restful (p q : Part) : Prop where
  framing : Framing { p with sent := q.sent, link := q.link } q
  requested : ∀ f, (faceOf q.faces f).requested = (faceOf p.faces f).requested

theorem Restful.refl (p : Part) : Restful p p := ⟨.refl p, fun _ => rfl⟩

theorem Restful.trans (a : Restful p q) (b : Restful q r) : Restful p r where
  framing := by
    have first := congrArg (fun x : Part => { x with sent := r.sent, link := r.link }) a.framing
    exact Eq.trans b.framing first
  requested f := (b.requested f).trans (a.requested f)

theorem Restful.mode (h : Restful p q) : q.mode = p.mode := h.framing.mode

theorem Framing.restful (h : Framing p q) (faces : ∀ f, (faceOf q.faces f).requested = (faceOf p.faces f).requested) :
    Restful p q where
  framing := by
    have same : ({ p with sent := q.sent, link := q.link } : Part) = p := by rw [h.sent, h.link]
    rw [same]
    exact h
  requested := faces

theorem told_restful (p : Part) (k : FaultKind) (x : Subject) : Restful p (p.told k x) := ⟨.refl _, fun _ => rfl⟩

theorem putGate_restful (p : Part) (g : Gate) (x : GateRec) : Restful p (p.putGate g x) := by
  refine (putGate_framing p g x).restful fun f => ?_
  rw [Part.putGate, refreshFaces_face]
  rfl

theorem rampNext_restful (p : Part) (k : Sluice) : Restful p (p.rampNext k) :=
  (rampNext_framing p k).restful fun f => by rw [rampNext_eq, putSluice_faces]

theorem retestGate_restful (g : Gate) (rests : p.mode ≠ .working ∧ p.mode ≠ .survey) : Restful p (p.retestGate g) := by
  unfold Part.retestGate
  dsimp only
  have told (q : Part) (c : UnorderedCause) (mode : q.mode = p.mode) : Restful q (q.report (sensorFault c) (.gate g)) := by
    rw [report_told q _ _ (by rw [mode]; exact rests) (sensorFault_plain c)]
    exact told_restful q _ _
  split
  · exact .refl p
  · split
    · exact (putGate_restful p g _).trans (told _ _ (putGate_mode _ _ _))
    · split
      · exact .refl p
      · exact putGate_restful p g _
    · exact told p _ rfl
    · split
      · exact putGate_restful p g _
      · exact .refl p
    · exact .refl p

theorem retestRamp_restful (p : Part) (k : Sluice) : Restful p (p.retestRamp k) := by
  unfold Part.retestRamp
  split
  · exact rampNext_restful p k
  · exact .refl p

theorem retestBeside_restful (g : Gate) (rests : p.mode ≠ .working ∧ p.mode ≠ .survey) : Restful p (p.retestBeside g) := by
  unfold Part.retestBeside
  suffices all : ∀ (xs : List Gate) (q : Part), q.mode = p.mode →
      Restful q (xs.foldl (fun q h => (q.retestGate h).retestRamp h) q) from all _ p rfl
  intro xs
  induction xs with
  | nil => exact fun q _ => .refl q
  | cons h xs ih =>
    intro q mode
    have one := (retestGate_restful (p := q) h (by rw [mode]; exact rests)).trans (retestRamp_restful _ h)
    exact one.trans (ih _ (one.mode.trans mode))

/-! ### An arrival in WORKING (R26, R97) -/

/-- What follows the arrival of a gate (R28, R33, R97, R170). -/
def Part.arrivalFollows (p : Part) (g : Gate) (was : GateState) : Part :=
  (((p.retestBeside g).reevaluateOpen).surveyStopped g was).settle

theorem arrivalFollows_sends {m : List Msg} (h : m <+: p.sent.a) (g : Gate) (was : GateState) :
    m <+: (p.arrivalFollows g was).sent.a :=
  sends_settle (h.trans ((((retestBeside_worked p g).onward.trans (reevaluateOpen_onward _)).trans
    (surveyStopped_worked _ g was).onward).sent .a)) false false

/-- At REST under NAV-INHIBIT only works, messages and the turn selector follow. -/
theorem arrivalFollows_rests (g : Gate) (was : GateState) (rest : p.mode = .rest) (inhibit : p.navInhibit = true) :
    ∃ z t, p.arrivalFollows g was = { z with turn := t } ∧ Restful p z := by
  have beside := retestBeside_restful (p := p) g (by rw [rest]; decide)
  have mode : (p.retestBeside g).mode = .rest := beside.mode.trans rest
  unfold Part.arrivalFollows
  rw [reevaluateOpen_other _ (by rw [mode]; decide), surveyStopped_other _ _ _ (by rw [mode]; decide)]
  obtain ⟨t, e, -⟩ := inhibited_settled (y := p.retestBeside g) (by rw [mode]; decide)
    (beside.framing.navInhibit.trans inhibit) false false
  exact ⟨_, t, e, beside⟩

theorem limitInput_run {g : Gate} {l : Limit} {b : Bool} {s : State} (change : (s.part.gates.get g).input l ≠ b) :
    exec (.limitInputChange g l b) s = .next { s with
      part := (((s.part.putGate g (((s.part.gates.get g).withInput l b).limitChanged l b)).limitReport g
        (s.part.gates.get g)).arrivalFollows g (s.part.gates.get g).state) } := by
  simp only [exec, execLimitInputChange, if_neg change]
  rfl

/-- A closing gate's record at its closed limit (R26). -/
def GateRec.shut (x : GateRec) : GateRec :=
  { x with atClosed := true, state := .closed, drive := .off, travelTimer := none }

/-- An opening gate's record at its open limit (R26). -/
def GateRec.thrown (x : GateRec) : GateRec :=
  { x with atOpen := true, state := .open_, drive := .off, travelTimer := none, openPending := false }

theorem shut_of {x : GateRec} (closing : x.state = .closing) (notOpen : x.atOpen = false) :
    (x.withInput .closedLimit true).limitChanged .closedLimit true = x.shut := by
  simp [GateRec.limitChanged, GateRec.withInput, GateRec.asserted, GateRec.rest, GateRec.shut, closing, notOpen]

theorem thrown_of {x : GateRec} (opening : x.state = .opening) (notClosed : x.atClosed = false) :
    (x.withInput .openLimit true).limitChanged .openLimit true = x.thrown := by
  simp [GateRec.limitChanged, GateRec.withInput, GateRec.asserted, GateRec.rest, GateRec.thrown, opening, notClosed]

theorem limitReport_shut {g : Gate} {x : GateRec} (written : p.gates.get g = x.shut) (mine : x.commander = .sequencer)
    (closing : x.state = .closing) (notOpen : x.atOpen = false) : p.limitReport g x = p.arrivedClosed g := by
  simp [Part.limitReport, written, GateRec.shut, mine, closing, notOpen]

theorem limitReport_thrown {g : Gate} {x : GateRec} (written : p.gates.get g = x.thrown) (mine : x.commander = .sequencer)
    (pending : x.openPending = true) (notClosed : x.atClosed = false) : p.limitReport g x = p.arrivedOpen g := by
  simp [Part.limitReport, written, GateRec.thrown, mine, pending, notClosed]

theorem arrivedClosed_advances {g : Gate} {ph : Phase} (working : p.mode = .working)
    (step : p.curStep = some ⟨.close g, ph⟩) : p.arrivedClosed g = p.advance := by
  rw [Part.arrivedClosed, step]
  exact if_pos ⟨working, rfl⟩

theorem arrivedOpen_advances {g : Gate} {ph : Phase} (working : p.mode = .working) (held : p.lockage = some l)
    (step : p.curStep = some ⟨.openGate g, ph⟩) (stage : l.stage = .travel) : p.arrivedOpen g = p.advance := by
  rw [Part.arrivedOpen, openInHand_of held working step]
  exact if_pos ⟨rfl, stage⟩

/-- The last step in hand ends the lockage (R93). -/
theorem nextStep_ends_lockage {s : PlanStep} (held : p.lockage = some l) (step : p.curStep = some s)
    (last : l.current = l.plan.length) : p.advance = p.endLockage (l.finalOutcome s) := by
  have ends : p.nextStep = (p.endLockage (l.finalOutcome s), false) := by
    unfold Part.nextStep
    rw [held, step]
    exact if_neg (by omega)
  rw [advance_once (by rw [ends]), ends]

theorem finalOutcome_kept (l : Lockage) (s : PlanStep) (b : Bool) : (l.finalOutcome s).returns b = false := by
  unfold Lockage.finalOutcome
  split
  · rfl
  · split <;> rfl

theorem finalOutcome_recorded (l : Lockage) (s : PlanStep) : l.finalOutcome s ≠ .withdrawn := by
  unfold Lockage.finalOutcome
  split
  · decide
  · split <;> decide

/-- The counter of an outcome among those of a plan run to its end (R153). -/
theorem finalOutcome_counts (l : Lockage) (s : PlanStep) (c : Counters) :
    let o := l.finalOutcome s
    let plus := fun (k : Nat) (d : Bool) => if d then min 65535 (k + 1) else k
    c.set o.counter (min 65535 (c.get o.counter + 1)) = { c with
      completed := plus c.completed (decide (o = .completed))
      completedLate := plus c.completedLate (decide (o = .completedLate))
      returned := plus c.returned (decide (o = .returned)) } := by
  unfold Lockage.finalOutcome
  split
  · rfl
  · split <;> rfl

/-- Room for a tally behind a record appended to every enabled outlet (R152, R156). -/
theorem appended_room (u : OutletUnit) (x : Record) {v : OutletUnit} (h : v.outlets = u.outlets.map (Outlet.appended x)) :
    v.Room ↔ ∀ y, (u.outlets.get y).enabled = true → (u.outlets.get y).queue.length + 1 < (u.outlets.get y).depth := by
  unfold OutletUnit.Room
  refine forall_congr' fun y => ?_
  rw [h, appended_get]
  cases enabled : (u.outlets.get y).enabled with
  | false => simp [enabled]
  | true => simp [enabled]

/-- Settles O22: the arrival advances the step; the last CLOSE ends the lockage, counts it and tries its tally. -/
theorem arrivalsEndTheStep : Obligations.ArrivalsEndTheStep := by
  unfold Obligations.ArrivalsEndTheStep
  refine ⟨fun g s l ph x working held next mine notClosed notOpen => ⟨fun step closing => ?_,
    fun step stage opening pending => ?_⟩,
    fun g s l ph working inhibit held last step mine closing notClosed notOpen => ?_⟩
  · have framing := putGate_framing s.part g (s.part.gates.get g).shut
    have run := limitInput_run (s := s) (g := g) (l := .closedLimit) (b := true) (by simp [GateRec.input, notClosed])
    have report := limitReport_shut (p := s.part.putGate g (s.part.gates.get g).shut)
      (by rw [putGate_gates, Four.get_set_self]) mine closing notOpen
    rw [shut_of closing notOpen, report] at run
    generalize s.part.putGate g (s.part.gates.get g).shut = y at *
    have step' : y.curStep = some ⟨.close g, ph⟩ := framing.curStep.trans ((curStep_of held).trans step)
    have held' := (framing.lockage_same (noEntryMove_of ((curStep_of held).trans step) (.inr nofun))).trans held
    have sends := advance_sends held' step' next
    rw [framing.sent, framing.clock] at sends
    rw [arrivedClosed_advances (framing.mode.trans working) step'] at run
    exact ⟨_, run, arrivalFollows_sends sends g _⟩
  · have framing := putGate_framing s.part g (s.part.gates.get g).thrown
    have run := limitInput_run (s := s) (g := g) (l := .openLimit) (b := true) (by simp [GateRec.input, notOpen])
    have report := limitReport_thrown (p := s.part.putGate g (s.part.gates.get g).thrown)
      (by rw [putGate_gates, Four.get_set_self]) mine pending notClosed
    rw [thrown_of opening notClosed, report] at run
    generalize s.part.putGate g (s.part.gates.get g).thrown = y at *
    have step' : y.curStep = some ⟨.openGate g, ph⟩ := framing.curStep.trans ((curStep_of held).trans step)
    have held' := (framing.lockage_same (noEntryMove_of ((curStep_of held).trans step) (.inr nofun))).trans held
    have sends := advance_sends held' step' next
    rw [framing.sent, framing.clock] at sends
    rw [arrivedOpen_advances (framing.mode.trans working) held' step' stage] at run
    exact ⟨_, run, arrivalFollows_sends sends g _⟩
  · intro o r u c plus records reached
    have framing := putGate_framing s.part g (s.part.gates.get g).shut
    have run := limitInput_run (s := s) (g := g) (l := .closedLimit) (b := true) (by simp [GateRec.input, notClosed])
    have report := limitReport_shut (p := s.part.putGate g (s.part.gates.get g).shut)
      (by rw [putGate_gates, Four.get_set_self]) mine closing notOpen
    rw [shut_of closing notOpen, report] at run
    generalize s.part.putGate g (s.part.gates.get g).shut = y at *
    have step' : y.curStep = some ⟨.close g, ph⟩ := framing.curStep.trans ((curStep_of held).trans step)
    have held' := (framing.lockage_same (noEntryMove_of ((curStep_of held).trans step) (.inr nofun))).trans held
    have outcome : l.finalOutcome ⟨.close g, ph⟩ = o := rfl
    have kept : ∀ b, o.returns b = false := finalOutcome_kept l ⟨.close g, ph⟩
    have ran : o ≠ .withdrawn := finalOutcome_recorded l ⟨.close g, ph⟩
    have counts : c.set o.counter (min 65535 (c.get o.counter + 1)) = { c with
      completed := plus c.completed (decide (o = .completed))
      completedLate := plus c.completedLate (decide (o = .completedLate))
      returned := plus c.returned (decide (o = .returned)) } := finalOutcome_counts l ⟨.close g, ph⟩ c
    rw [arrivedClosed_advances (framing.mode.trans working) step', nextStep_ends_lockage held' step' last, outcome] at run
    have ended := endLockage_ended held' o
    have unit : y.outlets = u := framing.outlets
    have record : y.tollRecord l o = r := tollRecord_of framing.settings framing.clock l o
    have joins := fun x => closedOut_records (p := y) (o := o) (l := l) (kept _) (x := x)
    obtain ⟨w, counted, tried⟩ := closedOut_outlets (p := y) (o := o) (kept l.entryPassed)
    have leaves := closedWith_leaves u o r
    rw [unit, record] at counted joins
    have vessels : r.lines.length = l.convoy.length := lines_length _ _ _ _ ran
    clear_value o r
    generalize y.endLockage o = e at *
    obtain ⟨z, t, rests, restful⟩ := arrivalFollows_rests (p := e) g (s.part.gates.get g).state ended.mode
      (ended.navInhibit.trans (framing.navInhibit.trans inhibit))
    have sends := arrivalFollows_sends (p := e) List.prefix_rfl g (s.part.gates.get g).state
    rw [rests] at run sends
    have outlets : z.outlets = w.tryTally.outlets := restful.framing.outlets.trans (ended.outlets.trans tried)
    obtain ⟨sequence, queues, counters, tally⟩ := leaves
    rw [← counted] at sequence queues counters tally
    rw [vessels] at counters
    replace counters := counters.trans (congrArg (fun k : Counters => { k with
      lockageRecords := records
      vessels := min 65535 (c.vessels + l.convoy.length)
      tollSum := min 99999999 (c.tollSum + r.total) }) counts)
    have dueIff : (OutletUnit.periodicDue { u with counters := w.outlets.counters }) = true ↔ reached := by
      rw [periodicDue_iff, counters]
    refine ⟨_, run, restful.mode.trans ended.mode, restful.framing.lockage_none ended.lockage,
      fun f => (restful.requested f).trans (ended.requested f), ?_, fun x enabled => ?_, fun idle early => ?_,
      fun forced periodic due => ?_⟩
    · obtain ⟨m, -, sent⟩ := ended.sent
      rw [kept, unit] at sent
      refine sends.subset ?_
      rw [sent]
      exact List.mem_append_right _ (.head _)
    · have grows := joins x enabled
      rw [← ended.outlets, ← restful.framing.outlets] at grows
      exact grows
    · have stays : w.outlets.tally = .none := by
        rw [tally, dueTally_idle (u := { u with counters := w.outlets.counters }) idle]
        exact if_neg fun h => early (dueIff.1 h)
      have same : w.tryTally = w := tryTally_none fun forced periodic h => by rw [stays] at h; cases h
      rw [same] at outlets
      refine ⟨(congrArg OutletUnit.tally outlets).trans stays, (congrArg OutletUnit.nextSequence outlets).trans sequence,
        (congrArg OutletUnit.counters outlets).trans counters⟩
    · have pends : w.outlets.tally = .pending forced periodic := by
        rw [tally]
        rcases due with ⟨idle, met, rfl, rfl⟩ | ⟨waits, rfl, iffDue⟩
        · rw [dueTally_idle (u := { u with counters := w.outlets.counters }) idle]
          exact if_pos (dueIff.2 met)
        · rw [dueTally_waiting (u := { u with counters := w.outlets.counters }) waits]
          exact congrArg _ (Bool.eq_iff_iff.2 (dueIff.trans iffDue.symm))
      have room := appended_room u ⟨u.nextSequence, .lockage r⟩ queues
      refine ⟨fun ⟨x, enabled, full⟩ => ?_, fun free => ?_⟩
      · rw [tryTally_full pends fun h => absurd (room.1 h x enabled) (Nat.not_lt.2 full)] at outlets
        exact (congrArg OutletUnit.tally outlets).trans pends
      · rw [tryTally_room pends (room.2 free)] at outlets
        exact ⟨(congrArg OutletUnit.tally outlets).trans (congrArg TallyState.outstanding sequence),
          congrArg OutletUnit.counters outlets⟩

end Sys2Proof.Machine
end

section
/-! PROOFS. Entry clearances in WORKING (R100, R103 to R105). -/

namespace Sys2Proof.Machine

variable {p q r : Part} {l : Lockage} {g : Gate} {d : Direction} {ph : Phase}

/-! ### A move under way (R40, R41, R100) -/

theorem faceServing_gate (g : Gate) (d : Direction) : (faceServing g d).gate = g := by cases d <;> rfl

theorem faceServing_direction (g : Gate) (d : Direction) : (faceServing g d).direction = d := by cases d <;> rfl

theorem movesThrough_of (step : p.curStep = some ⟨.move g d, ph⟩) : p.movesThrough (faceServing g d) = true := by
  rw [Part.movesThrough, step, faceServing_gate, faceServing_direction]
  exact decide_eq_true rfl

/-- In WORKING PROCEED shows once it is asked of the face of the move in hand, its gate OPEN and nothing awaited. -/
theorem shownAspect_moves {f : Face} (working : p.mode = .working) (asked : (faceOf p.faces f).requested = .proceed)
    (decided : (faceOf p.faces f).awaited = false) (isOpen : (p.gates.get f.gate).state = .open_)
    (moves : p.movesThrough f = true) : p.shownAspect f = .proceed := by
  simp [Part.shownAspect, working, asked, decided, isOpen, moves]

/-- Where the face of the move in hand shows PROCEED, an entry has passed (R100). -/
theorem refreshFaces_marks (held : p.lockage = some l) (step : p.curStep = some ⟨.move g d, ph⟩)
    (shows : p.shownAspect (faceServing g d) = .proceed) :
    p.refreshFaces.lockage = some { l with entryPassed := if ph = .entry then true else l.entryPassed } := by
  have shown : (faceOf p.deriveFaces.followLamps.faces (faceServing g d)).shown = .proceed := by
    rw [← shows]
    exact congrArg FaceRec.shown (faceOf_faceMap _ _)
  have cur : p.deriveFaces.followLamps.curStep = some ⟨.move g d, ph⟩ := step
  have held' : p.deriveFaces.followLamps.lockage = some l := held
  unfold Part.refreshFaces Part.markEntry
  generalize p.deriveFaces.followLamps = y at *
  by_cases entry : ph = .entry
  · subst entry
    have marked : y.entryShown = true := by
      rw [Part.entryShown, cur]
      exact decide_eq_true shown
    rw [if_pos marked, onLockage_holding held', if_pos rfl]
    rfl
  · have plain : ¬ y.entryShown = true := fun marked => by
      obtain ⟨_, _, e⟩ := entryShown_step y marked
      rw [cur] at e
      cases e
      exact entry rfl
    rw [if_neg plain, if_neg entry]
    exact held'

/-- The part with its move under way, before its face is asked for PROCEED. -/
def Part.movingOff (p : Part) (l : Lockage) : Part := p.holding { l with stage := .underWay, moveTimer := p.moveLimit }

/-- A move sent off with its gate OPEN and its lamps sound shows PROCEED, and an entry has then passed (R100, R40). -/
theorem moveUnderWay_shows (held : p.lockage = some l) (working : p.mode = .working)
    (step : p.curStep = some ⟨.move g d, ph⟩) (isOpen : (p.gates.get g).state = .open_)
    (sound : p.hasFailedLamp (faceServing g d) = false) (decided : (faceOf p.faces (faceServing g d)).awaited = false) :
    Framing (p.movingOff l) (p.moveUnderWay g d)
      ∧ (p.moveUnderWay g d).lockage = some { l with
          stage := .underWay, moveTimer := p.moveLimit
          entryPassed := if ph = .entry then true else l.entryPassed }
      ∧ (faceOf (p.moveUnderWay g d).faces (faceServing g d)).shown = .proceed := by
  have off : p.moveUnderWay g d = (p.movingOff l).requestAspect (faceServing g d) .proceed := by
    unfold Part.moveUnderWay Part.requestProceed
    rw [onLockage_holding held]
    exact if_neg (by
      change ¬ p.hasFailedLamp (faceServing g d) = true
      rw [sound]
      exact Bool.false_ne_true)
  have step' : (p.movingOff l).curStep = some ⟨.move g d, ph⟩ := by
    rw [← step, curStep_of held]
    rfl
  have asked : faceOf ((p.movingOff l).setRequested (faceServing g d) .proceed).faces (faceServing g d)
      = { faceOf p.faces (faceServing g d) with requested := .proceed } := faceOf_setFace_self _ _ _
  have shows : ((p.movingOff l).setRequested (faceServing g d) .proceed).shownAspect (faceServing g d) = .proceed :=
    shownAspect_moves working (congrArg FaceRec.requested asked) ((congrArg FaceRec.awaited asked).trans decided)
      (by rw [faceServing_gate]; exact isOpen) (movesThrough_of (ph := ph) step')
  rw [off]
  refine ⟨requestAspect_framing _ _ _, ?_, ?_⟩
  · exact refreshFaces_marks (p := (p.movingOff l).setRequested (faceServing g d) .proceed) rfl step' shows
  · rw [Part.requestAspect, refreshFaces_face]
    exact shows

/-! ### ENTRY_CLEAR and ENTRY_REFUSE in WORKING (R103 to R105) -/

theorem releaseEntry_moves (held : p.lockage = some l) (working : p.mode = .working)
    (step : p.curStep = some ⟨.move g d, .entry⟩) (stage : l.stage = .awaiting) :
    p.releaseEntry = p.moveUnderWay g d := by
  rw [Part.releaseEntry, entryAwaiting_of held working step stage]

/-- Settles O37: the clearance starts the move, whose face shows PROCEED; the refusal withdraws. -/
theorem entryClearanceActsAtOnce : Obligations.EntryClearanceActsAtOnce := by
  unfold Obligations.EntryClearanceActsAtOnce
  intro tag s l working held
  refine ⟨fun g d may stage step isOpen sound decided => ?_, fun may notPassed inhibit => ?_⟩
  · have notNeeded : l.entry ≠ .notNeeded := by rintro e; rcases may with h | h <;> rw [e] at h <;> cases h
    have notGiven : l.entry ≠ .given := by rintro e; rcases may with h | h <;> rw [e] at h <;> cases h
    have taken : s.part.takeEntryClear tag l.number
        = (s.part.storeClearance tag { l with entry := .given } false false).releaseEntry.settle := by
      rw [Part.takeEntryClear, ifCurrent_named _ _ held, Part.entryClear, if_neg notNeeded, if_neg notGiven]
    have step' : (s.part.storeClearance tag { l with entry := .given } false false).curStep
        = some ⟨.move g d, .entry⟩ := by
      rw [← step, curStep_of held]
      rfl
    obtain ⟨framing, lockage, shown⟩ := moveUnderWay_shows (l := { l with entry := .given })
      (p := s.part.storeClearance tag { l with entry := .given } false false) rfl working step' isOpen sound decided
    have release := releaseEntry_moves (l := { l with entry := .given })
      (p := s.part.storeClearance tag { l with entry := .given } false false) rfl working step' stage
    rw [release] at taken
    generalize (s.part.storeClearance tag { l with entry := .given } false false).moveUnderWay g d = y at *
    obtain ⟨t, e, -⟩ := quiet_settled (y := y) (working_quiet (y := y) (framing.mode.trans working)) false false
    rw [e] at taken
    exact ⟨_, exec_eq rfl taken, lockage, shown, framing.sent⟩
  · have notNeeded : l.entry ≠ .notNeeded := by rintro e; rcases may with h | h <;> rw [e] at h <;> cases h
    have notRefused : l.entry ≠ .refused := by rintro e; rcases may with h | h <;> rw [e] at h <;> cases h
    have taken : s.part.takeEntryRefuse tag l.number
        = (s.part.storeClearance tag { l with entry := .refused } true false).withdraw.settle := by
      rw [Part.takeEntryRefuse, ifCurrent_named _ _ held, Part.entryRefuse, if_neg notNeeded,
        if_neg (by rw [notPassed]; exact Bool.false_ne_true), if_neg notRefused, if_pos working]
    have withdrawn := withdraw_withdrawn (l := { l with entry := .refused })
      (p := s.part.storeClearance tag { l with entry := .refused } true false) rfl
    generalize (s.part.storeClearance tag { l with entry := .refused } true false).withdraw = y at *
    obtain ⟨t, e, -⟩ := inhibited_settled (y := y) (by rw [withdrawn.mode]; decide) (withdrawn.navInhibit.trans inhibit)
      false false
    rw [e] at taken
    obtain ⟨m, first, sent⟩ := withdrawn.sent
    refine ⟨_, exec_eq rfl taken, withdrawn.mode, withdrawn.lockage, (withdrawn.queues _).trans (if_pos rfl),
      (withdrawn.queues _).trans (if_neg ?_), ?_⟩
    · cases l.direction <;> decide
    · exact first.trans (by rw [sent]; exact List.prefix_append _ _)

end Sys2Proof.Machine
end

section
/-! PROOFS. Exit clearances in WORKING (R97, R98, R107 to R109). -/

namespace Sys2Proof.Machine

variable {p q r : Part} {l : Lockage} {g : Gate} {ph : Phase} {x : PlanStep}

/-! ### What a clearance reaches -/

/-- A step that waits for no test of R97. -/
def PlanStep.Untested (x : PlanStep) (l : Lockage) : Prop :=
  ∀ g, x.work = .openGate g → l.stage ≠ .clearance ∧ l.stage ≠ .tide ∧ l.stage ≠ .level

/-- Such a step evaluates nothing again. -/
theorem reevaluateOpen_untested (held : p.lockage = some l) (step : p.curStep = some x) (untested : x.Untested l) :
    p.reevaluateOpen = p := by
  unfold Part.reevaluateOpen Part.openInHand
  obtain ⟨w, ph⟩ := x
  rw [held, step]
  cases w with
  | openGate g =>
    obtain ⟨clearance, tide, level⟩ := untested g rfl
    have still : l.stage.evaluates = false := by
      cases stage : l.stage <;> first | rfl | contradiction
    dsimp only
    split
    · next e =>
      split at e
      · cases e
        exact if_neg (by rw [still]; exact Bool.false_ne_true)
      · cases e
    · rfl
  | close g => rfl
  | transfer k => rfl
  | move g d => rfl
  | commit => rfl

theorem commitInHand_elsewhere (step : p.curStep = some x) (other : x.work ≠ .commit) : p.commitInHand = false := by
  simp [Part.commitInHand, step, other]

/-- An exit has not begun while its OPEN waits, or before its phase, and no OPEN of it has been commanded (R108). -/
theorem exitBegun_false (step : l.plan[l.current - 1]? = some x) (notCommanded : l.exitCommanded = false)
    (early : x.phase = .exit → (∃ g, x.work = .openGate g) ∧ l.stage ≠ .travel) : l.exitBegun = false := by
  obtain ⟨w, ph⟩ := x
  unfold Lockage.exitBegun
  rw [notCommanded, Bool.false_or, step]
  by_cases exit : ph = .exit
  · subst exit
    obtain ⟨⟨g, rfl⟩, stage⟩ := early rfl
    exact decide_eq_false stage
  · cases w <;> cases ph <;> first | rfl | exact absurd rfl exit

/-! ### The tests taken again (R97) -/

/-- The step waits for depth (R98). -/
theorem OpenWaits.dries (h : p.OpenWaits l g ph) (free : ¬ (ph = .exit ∧ l.cls = .c ∧ l.exit ≠ .given)) (dry : p.dry l ph) :
    ∃ t, (Part.carryOn (p.evaluateOpen l g ph)).settle = { p.holding l.tideWaiting with
      sent := { p.sent with a := p.sent.a ++ p.tideReport l g }, turn := t } := by
  rw [evaluateOpen_dry free dry, carryOn_stays, waitTide_eq h.held]
  obtain ⟨t, e, -⟩ := quiet_settled (y := { p.holding l.tideWaiting with
    sent := { p.sent with a := p.sent.a ++ p.tideReport l g } }) (working_quiet h.working) false false
  exact ⟨t, e⟩

/-- The step's gate is commanded over LEVEL water (R24). -/
theorem OpenWaits.opens (h : p.OpenWaits l g ph) (free : ¬ (ph = .exit ∧ l.cls = .c ∧ l.exit ≠ .given)) (deep : ¬ p.dry l ph)
    (water : p.compare g = .level) (closed : p.interlock g = true) (notOpen : (p.gates.get g).state ≠ .open_)
    (notOpening : (p.gates.get g).state ≠ .opening) :
    ∃ q t, (Part.carryOn (p.evaluateOpen l g ph)).settle = { q with turn := t } ∧ Framing (p.holding (l.travelling ph)) q
      ∧ q.lockage = some (l.travelling ph)
      ∧ q.gates = p.gates.set g ((p.gates.get g).commanded (p.travelLimit g)) := by
  rw [evaluateOpen_level free deep, levelTest_opens water notOpen closed, carryOn_stays]
  obtain ⟨q, e, framing, lockage, gates⟩ := openStep_commands h notOpen notOpening water closed
  obtain ⟨t, settled, -⟩ := quiet_settled (y := q) (working_quiet (y := q) (framing.mode.trans h.working)) false false
  exact ⟨q, t, by rw [e, settled], framing, lockage, gates⟩

/-! ### EXIT_CLEAR and EXIT_REFUSE by their tests (R108) -/

/-- An exit clearance that is taken, as it is stored. -/
theorem takeExitClear_stored (tag : Tag) (held : p.lockage = some l) (may : l.exit = .awaited ∨ l.exit = .refused)
    (on : ∀ y ∈ l.plan, y.phase ≠ .returning) : p.takeExitClear tag l.number
      = (if (p.storeClearance tag { l with exit := .given } false false).commitInHand
        then (p.storeClearance tag { l with exit := .given } false false).advance
        else (p.storeClearance tag { l with exit := .given } false false).reevaluateOpen).settle := by
  have notNeeded : l.exit ≠ .notNeeded := by rintro e; rcases may with h | h <;> rw [e] at h <;> cases h
  have notGiven : l.exit ≠ .given := by rintro e; rcases may with h | h <;> rw [e] at h <;> cases h
  rw [Part.takeExitClear, ifCurrent_named _ _ held, Part.exitClear, if_neg notNeeded, returns_false l on,
    if_neg Bool.false_ne_true, if_neg notGiven]

/-- An exit refusal that is taken, by the commitment and the step in hand. -/
theorem takeExitRefuse_stored (tag : Tag) (held : p.lockage = some l) (needed : l.exit ≠ .notNeeded)
    (notRefused : l.exit ≠ .refused) (begun : l.exitBegun = false) (on : ∀ y ∈ l.plan, y.phase ≠ .returning) :
    p.takeExitRefuse tag l.number =
      if l.commitment = some .passed then
        (p.storeClearance tag { l with exit := .refused, late := true } false false).reevaluateOpen.settle
      else if p.commitInHand then
        ((p.storeClearance tag { l with exit := .refused } false true).onLockage Lockage.turnedBack).advance.settle
      else (p.storeClearance tag { l with exit := .refused } false false).reevaluateOpen.settle := by
  rw [Part.takeExitRefuse, ifCurrent_named _ _ held, Part.exitRefuse, if_neg needed, returns_false l on,
    if_neg Bool.false_ne_true, begun, if_neg Bool.false_ne_true, if_neg notRefused]

theorem storeClearance_step (tag : Tag) {m : Lockage} (a b : Bool) (held : p.lockage = some l) (plan : m.plan = l.plan)
    (current : m.current = l.current) : (p.storeClearance tag m a b).curStep = p.curStep :=
  holding_step held plan current

theorem turnedBack_next (l : Lockage) (h : l.current ≤ l.plan.length) :
    l.turnedBack.plan[l.current]? = some ⟨.openGate l.direction.entryGate, .returning⟩ := by
  have place : (l.plan.take l.current).length = l.current := List.length_take_of_le h
  change (l.plan.take l.current ++ returnSteps l.direction)[l.current]? = _
  rw [List.getElem?_append_right (Nat.le_of_eq place), place, Nat.sub_self]
  rfl

/-- Settles O38: by the step in hand and what it waits for. -/
theorem exitClearanceActsAtOnce : Obligations.ExitClearanceActsAtOnce := by
  unfold Obligations.ExitClearanceActsAtOnce
  intro tag s l working held on reply stored given settled refuses
  have stores (y : Part) (m : Lockage) (e : y = s.part.storeClearance tag m false false)
      (same : (m.number, m.entry, m.commitment) = (l.number, l.entry, l.commitment)) :
      stored y.settle m := by
    subst e
    obtain ⟨t, e, idle⟩ := quiet_settled (y := s.part.storeClearance tag m false false) (working_quiet working) false false
    rw [e, storeClearance_eq]
    obtain ⟨number, entry, commitment⟩ : m.number = l.number ∧ m.entry = l.entry ∧ m.commitment = l.commitment := by
      simpa using same
    exact ⟨by rw [number, entry, commitment], idle⟩
  refine ⟨fun x step next may => ?_, fun x step other untested may => ?_, fun g step stage may => ?_,
    fun step bound positive ⟨needed, notRefused, notCommanded⟩ isOpen => ?_,
    fun k step ⟨needed, notRefused, notCommanded⟩ passed => ?_,
    fun g step cls ⟨needed, notRefused, notCommanded⟩ passed stage => ?_,
    fun x step other untested notExit ⟨needed, notRefused, notCommanded⟩ isOpen => ?_⟩
  · have taken := takeExitClear_stored tag held may on
    have step' := (storeClearance_step (p := s.part) tag (m := { l with exit := .given }) false false held rfl rfl).trans
      ((curStep_of held).trans step)
    rw [commitInHand_of (p := s.part.storeClearance tag _ false false) working step', if_pos rfl] at taken
    have sends := advance_sends (p := s.part.storeClearance tag { l with exit := .given } false false) rfl step' next
    have sent : (s.part.storeClearance tag { l with exit := .given } false false).sent.a
      = s.part.sent.a ++ [reply .given l.late false] := rfl
    rw [sent, List.append_assoc] at sends
    exact ⟨_, exec_eq rfl taken, sends_settle sends _ _⟩
  · have taken := takeExitClear_stored tag held may on
    have step' := (storeClearance_step (p := s.part) tag (m := { l with exit := .given }) false false held rfl rfl).trans step
    rw [commitInHand_elsewhere step' other, if_neg Bool.false_ne_true, reevaluateOpen_untested (l := { l with exit := .given })
      (p := s.part.storeClearance tag { l with exit := .given } false false) rfl step' untested] at taken
    exact ⟨_, exec_eq rfl taken, stores _ { l with exit := .given } rfl rfl⟩
  · have taken := takeExitClear_stored tag held may on
    have step' := (storeClearance_step (p := s.part) tag (m := { l with exit := .given }) false false held rfl rfl).trans step
    have waits : (s.part.storeClearance tag { l with exit := .given } false false).OpenWaits { l with exit := .given } g
      .exit := ⟨rfl, working, step', .inl stage⟩
    have free : ¬ (Phase.exit = .exit ∧ ({ l with exit := .given } : Lockage).cls = .c
      ∧ ({ l with exit := .given } : Lockage).exit ≠ .given) := fun h => h.2.2 rfl
    rw [commitInHand_elsewhere step' nofun, if_neg Bool.false_ne_true, reevaluateOpen_waits waits] at taken
    refine ⟨_, exec_eq rfl taken, fun dry => ?_, fun deep water closed notOpen notOpening => ?_⟩
    · obtain ⟨t, e⟩ := OpenWaits.dries waits free ⟨.inr (.inl rfl), dry⟩
      rw [e]
      refine ⟨working, rfl, rfl, ?_⟩
      change (s.part.sent.a ++ [reply .given l.late false]) ++ _ = _
      rw [List.append_assoc]
      rfl
    · obtain ⟨q, t, e, framing, lockage, gates⟩ := OpenWaits.opens waits free (fun h => by
        have dry : s.part.passable l.convoy = false := h.2
        rw [deep] at dry
        cases dry) water closed notOpen notOpening
      rw [e]
      refine ⟨framing.mode.trans working, lockage.trans ?_, gates, framing.sent⟩
      simp [Lockage.travelling]
  · have begun := exitBegun_false step notCommanded fun h => nomatch h
    have taken := takeExitRefuse_stored tag held needed notRefused begun on
    rw [if_neg (by rw [isOpen]; exact fun h => nomatch h), commitInHand_of working ((curStep_of held).trans step),
      if_pos rfl, onLockage_holding (p := s.part.storeClearance tag { l with exit := .refused } false true) rfl] at taken
    have before : ({ l with exit := .refused } : Lockage).turnedBack.plan[l.current - 1]? = l.plan[l.current - 1]? := by
      have inside : l.current - 1 < (l.plan.take l.current).length := by rw [List.length_take_of_le bound]; omega
      change (l.plan.take l.current ++ returnSteps l.direction)[l.current - 1]? = _
      rw [List.getElem?_append_left inside, List.getElem?_take_of_lt (by omega)]
    have sends := advance_sends (l := ({ l with exit := .refused } : Lockage).turnedBack)
      (p := (s.part.storeClearance tag { l with exit := .refused } false true).holding _) rfl
      ((curStep_of (l := ({ l with exit := .refused } : Lockage).turnedBack) rfl).trans (before.trans step))
      (turnedBack_next _ bound)
    have sent : ((s.part.storeClearance tag { l with exit := .refused } false true).holding
      ({ l with exit := .refused } : Lockage).turnedBack).sent.a = s.part.sent.a ++ [reply .refused l.late true] := rfl
    rw [sent, List.append_assoc] at sends
    exact ⟨_, exec_eq rfl taken, sends_settle sends _ _⟩
  · have begun := exitBegun_false step notCommanded fun h => nomatch h
    have taken := takeExitRefuse_stored tag held needed notRefused begun on
    have step' := (storeClearance_step (p := s.part) tag (m := { l with exit := .refused, late := true }) false false held
      rfl rfl).trans ((curStep_of held).trans step)
    rw [if_pos passed, reevaluateOpen_untested (l := { l with exit := .refused, late := true })
      (p := s.part.storeClearance tag { l with exit := .refused, late := true } false false) rfl step' fun _ h => nomatch h]
      at taken
    exact ⟨_, exec_eq rfl taken, stores _ { l with exit := .refused, late := true } rfl rfl⟩
  · have inPlan := (curStep_of held).symm.trans step
    have begun := exitBegun_false inPlan notCommanded fun _ => ⟨⟨g, rfl⟩, by
      rintro travel; rcases stage with h | h | h | h <;> rw [travel] at h <;> cases h⟩
    have taken := takeExitRefuse_stored tag held needed notRefused begun on
    have step' := (storeClearance_step (p := s.part) tag (m := { l with exit := .refused, late := true }) false false held
      rfl rfl).trans step
    rw [if_pos passed] at taken
    by_cases levelling : l.stage = .levelling
    · rw [reevaluateOpen_untested (l := { l with exit := .refused, late := true })
        (p := s.part.storeClearance tag { l with exit := .refused, late := true } false false) rfl step' fun _ _ =>
          ⟨by rw [levelling]; decide, by rw [levelling]; decide, by rw [levelling]; decide⟩] at taken
      rw [if_pos levelling, ← levelling]
      exact ⟨_, exec_eq rfl taken, stores _ { l with exit := .refused, late := true } rfl rfl⟩
    · have waits : (s.part.storeClearance tag { l with exit := .refused, late := true } false false).OpenWaits
          { l with exit := .refused, late := true } g .exit :=
        ⟨rfl, working, step', stage.imp_right fun h => h.imp_right fun h => h.resolve_right levelling⟩
      rw [reevaluateOpen_waits waits, evaluateOpen_exit (l := { l with exit := .refused, late := true })
        ⟨rfl, cls, Clearance.noConfusion⟩, carryOn_stays, setStage_holding waits.held] at taken
      rw [if_neg levelling]
      exact ⟨_, exec_eq rfl taken, stores _ { l with exit := .refused, late := true, stage := .clearance } rfl rfl⟩
  · have begun := exitBegun_false ((curStep_of held).symm.trans step) notCommanded fun h => absurd h notExit
    have taken := takeExitRefuse_stored tag held needed notRefused begun on
    have step' := (storeClearance_step (p := s.part) tag (m := { l with exit := .refused }) false false held
      rfl rfl).trans step
    rw [if_neg (by rw [isOpen]; exact fun h => nomatch h), commitInHand_elsewhere step other, if_neg Bool.false_ne_true,
      reevaluateOpen_untested (l := { l with exit := .refused })
        (p := s.part.storeClearance tag { l with exit := .refused } false false) rfl step' untested] at taken
    exact ⟨_, exec_eq rfl taken, stores _ { l with exit := .refused } rfl rfl⟩

end Sys2Proof.Machine
end

section
/-! PROOFS. The lamps' refresh and LAMP_CLEAR (R42 to R44). -/

namespace Sys2Proof.Machine

variable {p q r : Part} {l : Lockage} {g : Gate} {d : Direction} {ph : Phase} {f : Face}

/-! ### One lamp among all -/

theorem lampOf_setLamp {α : Type} (v : LampMap α) (f e : Face) (c k : Colour) (x : α) :
    lampOf (setLamp v f c x) e k = if (e, k) = (f, c) then x else lampOf v e k := by
  have duo (w : Duo (Pair α)) (s t : Side) (y : Pair α) : (w.set s y).get t = if t = s then y else w.get t := by
    cases s <;> cases t <;> rfl
  have pair (w : Pair α) (a b : Colour) (y : α) : (w.set a y).get b = if b = a then y else w.get b := by
    cases a <;> cases b <;> rfl
  obtain ⟨g, s⟩ := f
  obtain ⟨h, t⟩ := e
  unfold lampOf setLamp
  rw [Four.get_set]
  by_cases gate : h = g
  · subst gate
    rw [if_pos rfl, duo]
    by_cases side : t = s
    · subst side
      rw [if_pos rfl, pair]
      simp
    · simp [side]
  · simp [gate]

theorem mem_lampList (f : Face) (k : Colour) : (f, k) ∈ lampList := by
  obtain ⟨g, s⟩ := f
  cases g <;> cases s <;> cases k <;> decide

theorem newlyFailed_iff (was now : LampMap LampRec) (f : Face) (k : Colour) :
    (f, k) ∈ newlyFailed was now ↔ ((lampOf now f k).failed && !(lampOf was f k).failed) = true := by
  simp [newlyFailed, mem_lampList]

/-! ### A lamp lost (R43) -/

/-- The part with the lamps its condition record names. -/
def Part.lampsNoted (p : Part) (v : LampMap Bool) : Part :=
  { p with link := { p.link with conditions := { p.link.conditions with lamps := v } } }

theorem lampsNoted_self (p : Part) : p.lampsNoted p.link.conditions.lamps = p := rfl

theorem noteLamp_eq (x : Face × Colour) : (p.note fun c => c.noteLamp x.1 x.2)
    = p.lampsNoted (setLamp p.link.conditions.lamps x.1 x.2 true) := rfl

/-- A lamp lost on a face that asks no PROCEED is noted alone. -/
theorem lampLost_plain {x : Face × Colour}
    (quiet : ¬ ((faceOf p.faces x.1).requested = .proceed ∧ p.movesThrough x.1 = true)) :
    p.lampLost x = p.lampsNoted (setLamp p.link.conditions.lamps x.1 x.2 true) := if_neg quiet

theorem lampLost_decides {x : Face × Colour} (asks : (faceOf p.faces x.1).requested = .proceed)
    (moves : p.movesThrough x.1 = true) :
    p.lampLost x = (p.lampsNoted (setLamp p.link.conditions.lamps x.1 x.2 true)).lampDecision x.1 := if_pos ⟨asks, moves⟩

theorem lampLost_lamps (p : Part) (x : Face × Colour) :
    (p.lampLost x).link.conditions.lamps = setLamp p.link.conditions.lamps x.1 x.2 true := by
  have noted : Noted (p.lampsNoted (setLamp p.link.conditions.lamps x.1 x.2 true)) (p.lampLost x) := by
    unfold Part.lampLost
    dsimp only
    split
    · exact lampDecision_noted _ _
    · exact .refl _
  exact (congrArg Conditions.lamps noted :)

/-- The record names a lamp once it is lost. -/
theorem lampsLost_lamps (xs : List (Face × Colour)) (p : Part) (f : Face) (k : Colour) :
    lampOf (xs.foldl Part.lampLost p).link.conditions.lamps f k
      = (lampOf p.link.conditions.lamps f k || decide ((f, k) ∈ xs)) := by
  induction xs generalizing p with
  | nil => simp
  | cons x xs ih =>
    rw [List.foldl_cons, ih, lampLost_lamps, lampOf_setLamp]
    by_cases here : (f, k) = x
    · subst here
      simp
    · rw [if_neg here]
      simp [here]

theorem lampsLost_onward (xs : List (Face × Colour)) (p : Part) : Onward p (xs.foldl Part.lampLost p) :=
  foldl_onward _ (fun q x => (lampLost_worked q x).onward) xs p

/-- Where no face asks PROCEED, lost lamps are noted alone. -/
theorem lampsLost_plain (xs : List (Face × Colour)) (p : Part) (quiet : ∀ f, (faceOf p.faces f).requested ≠ .proceed) :
    ∃ v, xs.foldl Part.lampLost p = p.lampsNoted v := by
  induction xs generalizing p with
  | nil => exact ⟨_, (lampsNoted_self p).symm⟩
  | cons x xs ih =>
    rw [List.foldl_cons, lampLost_plain fun h => quiet x.1 h.1]
    exact ih _ quiet

/-! ### The decision under HALT (R119) -/

/-- A halt stands when a face's decision is awaited no more. -/
theorem HaltedFrom.decided {k : FaultKind} {x : Subject} (h : HaltedFrom p q k x) (f : Face) (b : Bool) :
    HaltedFrom p ((q.setAwaited f b).refreshFaces) k x := by
  have lockage : (q.setAwaited f b).refreshFaces.lockage = q.lockage := halted_lockage (p := q.setAwaited f b) h.1
  have framing := refreshFaces_framing (q.setAwaited f b)
  have faces (e : Face) : (faceOf (q.setAwaited f b).faces e).requested = (faceOf q.faces e).requested := by
    rw [Part.setAwaited, faceOf_setFace]
    split
    · next same => rw [same]
    · rfl
  obtain ⟨mode, halt, sent, link, kept, timers, requested, shown, drives, states, ramps⟩ := h
  refine ⟨framing.mode.trans mode, (congrArg FaultHandler.halt framing.faults).trans halt, ?_, framing.link.trans link, ?_,
    ?_, fun e => ?_, fun e => ?_, ?_, ?_, fun j => ?_⟩
  · rw [framing.sent]
    exact sent
  · rw [lockage]
    exact kept
  · rw [lockage]
    exact timers
  · rw [refreshFaces_face]
    exact (faces e).trans (requested e)
  · rw [refreshFaces_face]
    exact shownAspect_halted (q.setAwaited f b) e mode
  · rw [refreshFaces_gates]
    exact drives
  · rw [refreshFaces_gates]
    exact states
  · rw [ramping_eq, refreshFaces_sluices]
    exact ramps j

theorem lampDecision_halts (f : Face) (working : p.mode = .working) (response : p.responseOf .lampFailed = .halt)
    (drives : p.DrivesMatch) : HaltedFrom p (p.lampDecision f) .lampFailed (.face f) := by
  have framing : Framing p (p.setAwaited f true).refreshFaces := refreshFaces_framing (p.setAwaited f true)
  have gates : (p.setAwaited f true).refreshFaces.gates = p.gates := refreshFaces_gates (p.setAwaited f true)
  have same : (p.setAwaited f true).refreshFaces.responseOf .lampFailed = p.responseOf .lampFailed := by
    unfold Part.responseOf
    rw [framing.settings]
  unfold Part.lampDecision
  generalize (p.setAwaited f true).refreshFaces = y at *
  rw [report_halts y _ _ (.inl (framing.mode.trans working)) (same.trans response)]
  have halted := haltFlight_halted y .lampFailed (.face f) fun g => by
    rw [gates]
    exact drives g
  exact (framing.haltedFrom halted).decided f false

/-- Lamps lost while HALTED are noted alone. -/
theorem HaltedFrom.lampsLost {k : FaultKind} {x : Subject} (xs : List (Face × Colour)) (q : Part)
    (h : HaltedFrom (p.lampsNoted q.link.conditions.lamps) q k x) :
    HaltedFrom (p.lampsNoted (xs.foldl Part.lampLost q).link.conditions.lamps) (xs.foldl Part.lampLost q) k x := by
  induction xs generalizing q with
  | nil => exact h
  | cons y xs ih =>
    obtain ⟨mode, halt, sent, link, kept, timers, requested, rest⟩ := h
    rw [List.foldl_cons, lampLost_plain fun h => by rw [requested] at h; cases h.1]
    exact ih _ ⟨mode, halt, sent, congrArg (fun k : Link => { k with conditions := { k.conditions with
      lamps := setLamp q.link.conditions.lamps y.1 y.2 true } }) link, kept, timers, requested, rest⟩

/-! ### The decision under CONTINUE (R43, R117) -/

/-- The part with a lamp's fault sent and noted under CONTINUE. -/
def Part.lampTold (p : Part) (f : Face) : Part :=
  { p with
    faults := { p.faults with reported := p.faults.reported ++ [.lampFailed] }
    sent := { p.sent with a := p.sent.a ++
      [.event (.fault .lampFailed (.face f) .continue_ p.mode p.lockageNumber p.stepIndex p.clock)] }
    link := p.faultNoted .lampFailed }

/-- A face whose decision is no longer awaited, in the move that asks PROCEED of it. -/
structure Decided (p : Part) (g : Gate) (d : Direction) (q : Part) : Prop where
  framing : Framing p q
  gates : q.gates = p.gates
  face : faceOf q.faces (faceServing g d) = {
    requested := .proceed, awaited := false
    shown := if (p.gates.get g).state = .open_ then .proceed else .stop }

theorem decided_of {y : Part} (framing : Framing p y) (gates : y.gates = p.gates) (working : p.mode = .working)
    (step : p.curStep = some ⟨.move g d, ph⟩) (asks : (faceOf y.faces (faceServing g d)).requested = .proceed) :
    Decided p g d ((y.setAwaited (faceServing g d) false).refreshFaces) where
  framing := framing.trans (refreshFaces_framing (y.setAwaited (faceServing g d) false))
  gates := (refreshFaces_gates _).trans gates
  face := by
    have awaits : faceOf (y.setAwaited (faceServing g d) false).faces (faceServing g d)
        = { faceOf y.faces (faceServing g d) with awaited := false } := faceOf_setFace_self _ _ _
    have moves : (y.setAwaited (faceServing g d) false).movesThrough (faceServing g d) = true :=
      movesThrough_of (ph := ph) (framing.curStep.trans step)
    have mode : (y.setAwaited (faceServing g d) false).mode = .working := framing.mode.trans working
    have shut : (y.setAwaited (faceServing g d) false).gates = p.gates := gates
    rw [refreshFaces_face]
    generalize y.setAwaited (faceServing g d) false = z at *
    simp [Part.shownAspect, awaits, asks, moves, mode, shut, faceServing_gate]

theorem lampTold_framing (h : Framing p q) (f : Face) : Framing (p.lampTold f) (q.lampTold f) := by
  have told : q.lampTold f = { q with
      faults := (p.lampTold f).faults, sent := (p.lampTold f).sent, link := (p.lampTold f).link } := by
    unfold Part.lampTold Part.faultNoted
    rw [h.faults, h.sent, h.mode, h.lockageNumber, h.stepIndex, h.clock, h.link]
  rw [told]
  exact congrArg (fun z : Part => { z with
    faults := (p.lampTold f).faults, sent := (p.lampTold f).sent, link := (p.lampTold f).link }) h

theorem setAwaited_requested (p : Part) (f : Face) (b : Bool) :
    (faceOf (p.setAwaited f b).refreshFaces.faces f).requested = (faceOf p.faces f).requested := by
  rw [refreshFaces_face]
  change (faceOf (setFace p.faces f { faceOf p.faces f with awaited := b }) f).requested = _
  rw [faceOf_setFace_self]

/-- A decision under CONTINUE: the fault told once for the step, the face decided. -/
theorem lampDecision_continues (working : p.mode = .working) (step : p.curStep = some ⟨.move g d, ph⟩)
    (asks : (faceOf p.faces (faceServing g d)).requested = .proceed) (response : p.responseOf .lampFailed = .continue_) :
    (p.faults.reported.contains .lampFailed = false →
        Decided (p.lampTold (faceServing g d)) g d (p.lampDecision (faceServing g d)))
      ∧ (p.faults.reported.contains .lampFailed = true → Decided p g d (p.lampDecision (faceServing g d))) := by
  have framing : Framing p (p.setAwaited (faceServing g d) true).refreshFaces :=
    refreshFaces_framing (p.setAwaited (faceServing g d) true)
  have gates : (p.setAwaited (faceServing g d) true).refreshFaces.gates = p.gates := refreshFaces_gates _
  have asks' := (setAwaited_requested p (faceServing g d) true).trans asks
  unfold Part.lampDecision
  generalize (p.setAwaited (faceServing g d) true).refreshFaces = y at *
  have same : y.responseOf .lampFailed = .continue_ := by
    rw [← response]
    unfold Part.responseOf
    rw [framing.settings]
  obtain ⟨again, first⟩ := report_continued y .lampFailed (.face (faceServing g d)) (framing.mode.trans working) same
  rw [framing.faults] at again
  refine ⟨fun fresh => ?_, fun known => ?_⟩
  · rw [first (by rw [framing.faults]; exact fresh)]
    exact decided_of (ph := ph) (y := y.lampTold (faceServing g d)) (lampTold_framing framing _) gates working step asks'
  · rw [again known]
    exact decided_of (ph := ph) framing gates working step asks'

theorem movesThrough_iff (step : p.curStep = some ⟨.move g d, ph⟩) (f : Face) :
    p.movesThrough f = true ↔ f = faceServing g d := by
  constructor
  · intro moves
    rw [Part.movesThrough, step] at moves
    obtain ⟨gate, side⟩ := f
    have same : Work.move g d = .move gate (Face.direction ⟨gate, side⟩) := of_decide_eq_true moves
    cases same
    cases side <;> rfl
  · rintro rfl
    exact movesThrough_of (ph := ph) step

/-- The first lost lamp of the face of the move in hand brings the decision; those before it are noted. -/
theorem lampsLost_decides (xs : List (Face × Colour)) (v : LampMap Bool) (step : p.curStep = some ⟨.move g d, ph⟩)
    (asks : (faceOf p.faces (faceServing g d)).requested = .proceed) (lost : ∃ k, (faceServing g d, k) ∈ xs) :
    ∃ (w : LampMap Bool) (ys : List (Face × Colour)), xs.foldl Part.lampLost (p.lampsNoted v)
      = ys.foldl Part.lampLost ((p.lampsNoted w).lampDecision (faceServing g d)) := by
  induction xs generalizing v with
  | nil =>
    obtain ⟨k, none⟩ := lost
    cases none
  | cons x xs ih =>
    rw [List.foldl_cons]
    by_cases here : x.1 = faceServing g d
    · refine ⟨setLamp v x.1 x.2 true, xs, ?_⟩
      rw [lampLost_decides (p := p.lampsNoted v) (by rw [here]; exact asks)
        ((movesThrough_iff (p := p.lampsNoted v) step _).2 here), ← here]
      rfl
    · rw [lampLost_plain (p := p.lampsNoted v) fun h => here ((movesThrough_iff (p := p.lampsNoted v) step _).1 h.2)]
      refine ih _ ?_
      obtain ⟨k, mem⟩ := lost
      exact ⟨k, (List.mem_cons.1 mem).resolve_left fun same => here (congrArg Prod.fst same.symm)⟩

/-- Lamps lost after the decision are noted, and decided again with nothing told. -/
theorem Decided.lampsLost (xs : List (Face × Colour)) (q : Part) (working : p.mode = .working)
    (step : p.curStep = some ⟨.move g d, ph⟩) (response : p.responseOf .lampFailed = .continue_)
    (known : p.faults.reported.contains .lampFailed = true)
    (h : Decided (p.lampsNoted q.link.conditions.lamps) g d q) :
    Decided (p.lampsNoted (xs.foldl Part.lampLost q).link.conditions.lamps) g d (xs.foldl Part.lampLost q) := by
  induction xs generalizing q with
  | nil => exact h
  | cons x xs ih =>
    rw [List.foldl_cons]
    refine ih _ ?_
    have lamps := lampLost_lamps q x
    have noted : Framing (p.lampsNoted (setLamp q.link.conditions.lamps x.1 x.2 true))
        (q.lampsNoted (setLamp q.link.conditions.lamps x.1 x.2 true)) :=
      congrArg (fun z : Part => z.lampsNoted (setLamp q.link.conditions.lamps x.1 x.2 true)) h.framing
    have cur : q.curStep = some ⟨.move g d, ph⟩ := h.framing.curStep.trans step
    have table : (q.lampsNoted (setLamp q.link.conditions.lamps x.1 x.2 true)).responseOf .lampFailed = .continue_ := by
      rw [← response]
      unfold Part.responseOf
      rw [noted.settings]
      rfl
    rw [lamps]
    by_cases here : x.1 = faceServing g d
    · rw [lampLost_decides (by rw [here, h.face]) ((movesThrough_iff cur _).2 here)]
      generalize setLamp q.link.conditions.lamps x.1 x.2 true = v at *
      rw [here]
      obtain ⟨-, again⟩ := lampDecision_continues (ph := ph) (p := q.lampsNoted v)
        (h.framing.mode.trans working) cur (congrArg FaceRec.requested h.face) table
      have decided := again (by rw [noted.faults]; exact known)
      have gates : (q.lampsNoted v).gates = p.gates := h.gates
      refine ⟨noted.trans decided.framing, decided.gates.trans h.gates, decided.face.trans ?_⟩
      rw [gates]
      rfl
    · rw [lampLost_plain fun h => here ((movesThrough_iff cur _).1 h.2)]
      exact ⟨noted, h.gates, h.face⟩

end Sys2Proof.Machine
end

section
/-! PROOFS. What a lamp refresh leaves (R42, R43), and LAMP_CLEAR (R44). -/

namespace Sys2Proof.Machine

variable {p q r : Part} {l : Lockage} {g : Gate} {d : Direction} {ph : Phase} {f : Face}

/-- The part after the refresh has acted on the lamps it found failed. -/
def Part.lampsActed (p : Part) (current : LampMap Bool) : Part :=
  (newlyFailed p.lamps (p.refreshLamps current).lamps).foldl Part.lampLost (p.refreshLamps current)

theorem lampRefresh_run (current : LampMap Bool) (s : State) :
    exec (.lampRefresh current) s = .next { s with part := (s.part.lampsActed current).settle } := rfl

/-- What follows the refresh leaves the period and every lamp's sense. -/
theorem lampsActed_sense (p : Part) (current : LampMap Bool) :
    ((p.lampsActed current).settle).lampTimer = 500
      ∧ ∀ f k, (lampOf ((p.lampsActed current).settle).lamps f k).sense
          = ((lampOf p.lamps f k).refreshed (lampOf current f k)).sense := by
  have onward : Onward (p.refreshLamps current) ((p.lampsActed current).settle) :=
    (lampsLost_onward _ _).trans (settle_onward _ _ _)
  obtain ⟨timer, sense⟩ := (onward.framed .turnEvaluate).lamps rfl
  refine ⟨timer, fun f k => (sense f k).trans ?_⟩
  rw [Part.refreshLamps, lampOf_lampMap]

theorem lampsActed_failed (p : Part) (current : LampMap Bool) (f : Face) (k : Colour) :
    (lampOf ((p.lampsActed current).settle).lamps f k).failed
      = (lampOf (p.refreshLamps current).lamps f k).failed := by
  have e := congrArg LampRec.failed ((lampsActed_sense p current).2 f k)
  rw [Part.refreshLamps, lampOf_lampMap]
  exact e

/-- A lamp is newly failed when the refresh leaves it failed and it was not before. -/
theorem mem_newlyFailed (p : Part) (current : LampMap Bool) (f : Face) (k : Colour) :
    (f, k) ∈ newlyFailed p.lamps (p.refreshLamps current).lamps
      ↔ ((lampOf ((p.lampsActed current).settle).lamps f k).failed && !(lampOf p.lamps f k).failed) = true := by
  rw [newlyFailed_iff, lampsActed_failed]

theorem refreshed_lit (r : LampRec) (now : Bool) : (r.refreshed now).litLast = (r.refreshed now).output := rfl

theorem refreshed_armed (r : LampRec) (now : Bool) :
    (r.refreshed now).armed = ((r.refreshed now).output && (r.litLast || r.armed)) := by
  change (if (r.refreshed now).output && r.litLast then true else if (r.refreshed now).output then r.armed else false) = _
  cases (r.refreshed now).output
  · rfl
  · cases r.litLast <;> rfl

theorem refreshed_failed (r : LampRec) (now : Bool) :
    (r.refreshed now).failed = (r.failed || ((r.refreshed now).armed && !now)) := rfl

theorem eq_of_sense_marks {x y : LampRec} (h : y.sense = x.sense) :
    y.litLast = x.litLast ∧ y.armed = x.armed ∧ y.failed = x.failed :=
  ⟨(congrArg LampRec.litLast h :), (congrArg LampRec.armed h :), (congrArg LampRec.failed h :)⟩

/-- Where no lamp newly fails the refresh is all that happens to the lamps. -/
theorem lampsActed_unfailed (p : Part) (current : LampMap Bool)
    (same : ∀ e c, (lampOf ((p.lampsActed current).settle).lamps e c).failed = (lampOf p.lamps e c).failed) :
    p.lampsActed current = p.refreshLamps current := by
  have empty : newlyFailed p.lamps (p.refreshLamps current).lamps = [] := by
    refine List.eq_nil_iff_forall_not_mem.2 fun x mem => ?_
    have failed := (mem_newlyFailed p current x.1 x.2).1 mem
    rw [same x.1 x.2, Bool.and_not_self] at failed
    cases failed
  rw [Part.lampsActed, empty]
  rfl

/-- The condition record names the lamps the refresh found failed. -/
theorem lampsActed_noted (p : Part) (current : LampMap Bool) (f : Face) (k : Colour) :
    lampOf ((p.lampsActed current).settle).link.conditions.lamps f k = (lampOf p.link.conditions.lamps f k
      || ((lampOf ((p.lampsActed current).settle).lamps f k).failed && !(lampOf p.lamps f k).failed)) := by
  have noted := settle_noted (p.lampsActed current) false false
  have lamps : ((p.lampsActed current).settle).link.conditions.lamps = (p.lampsActed current).link.conditions.lamps :=
    (congrArg Conditions.lamps noted :)
  rw [lamps, Part.lampsActed, lampsLost_lamps]
  refine congrArg (lampOf p.link.conditions.lamps f k || ·) ?_
  exact Bool.eq_iff_iff.2 (decide_eq_true_iff.trans (mem_newlyFailed p current f k))

/-- Where no face asks PROCEED the failed lamps are noted, and nothing is sent or answered. -/
theorem lampsActed_plain (p : Part) (current : LampMap Bool) (quiet : quietMode p.mode)
    (asked : ∀ f, (faceOf p.faces f).requested ≠ .proceed) :
    ((p.lampsActed current).settle).sent = p.sent ∧ ((p.lampsActed current).settle).faults = p.faults
      ∧ ((p.lampsActed current).settle).link = { p.link with conditions := { p.link.conditions with
          lamps := ((p.lampsActed current).settle).link.conditions.lamps } } := by
  obtain ⟨v, acted⟩ := lampsLost_plain (newlyFailed p.lamps (p.refreshLamps current).lamps) (p.refreshLamps current) asked
  have acted' : p.lampsActed current = (p.refreshLamps current).lampsNoted v := acted
  have still : quietMode (p.lampsActed current).mode := by
    rw [acted']
    exact quiet
  obtain ⟨t, settled, -⟩ := quiet_settled still false false
  rw [settled, acted']
  exact ⟨rfl, rfl, rfl⟩

/-- A failed lamp of the face of the move in hand halts the flight under HALT (R43, R119). -/
theorem lampsActed_halts (p : Part) (current : LampMap Bool) (working : p.mode = .working)
    (step : p.curStep = some ⟨.move g d, ph⟩) (asks : (faceOf p.faces (faceServing g d)).requested = .proceed)
    (lost : ∃ k, (faceServing g d, k) ∈ newlyFailed p.lamps (p.refreshLamps current).lamps)
    (response : p.responseOf .lampFailed = .halt) (drives : p.DrivesMatch) :
    HaltedFrom (p.lampsNoted ((p.lampsActed current).settle).link.conditions.lamps) ((p.lampsActed current).settle)
      .lampFailed (.face (faceServing g d)) := by
  obtain ⟨w, ys, acted⟩ := lampsLost_decides (p := p.refreshLamps current) _ p.link.conditions.lamps step asks lost
  have acted' : p.lampsActed current = ys.foldl Part.lampLost (((p.refreshLamps current).lampsNoted w).lampDecision
    (faceServing g d)) := acted
  have halted := lampDecision_halts (p := (p.refreshLamps current).lampsNoted w) (faceServing g d) working response drives
  have noted : ((p.refreshLamps current).lampsNoted w |>.lampDecision (faceServing g d)).link.conditions.lamps = w :=
    (congrArg Conditions.lamps (lampDecision_noted ((p.refreshLamps current).lampsNoted w) (faceServing g d)) :)
  generalize ((p.refreshLamps current).lampsNoted w).lampDecision (faceServing g d) = y at *
  rw [← noted] at halted
  have after := HaltedFrom.lampsLost (p := p.refreshLamps current) ys y halted
  rw [← acted'] at after
  have lamps : ((p.lampsActed current).settle).link.conditions.lamps = (p.lampsActed current).link.conditions.lamps :=
    (congrArg Conditions.lamps (settle_noted (p.lampsActed current) false false) :)
  rw [lamps]
  exact (after.settle _ false false).before _ rfl rfl rfl rfl rfl rfl (.refl _)

/-- Under CONTINUE the fault is told once and the face decided (R43, R117). -/
theorem lampsActed_continues (p : Part) (current : LampMap Bool) (working : p.mode = .working)
    (step : p.curStep = some ⟨.move g d, ph⟩) (asks : (faceOf p.faces (faceServing g d)).requested = .proceed)
    (lost : ∃ k, (faceServing g d, k) ∈ newlyFailed p.lamps (p.refreshLamps current).lamps)
    (response : p.responseOf .lampFailed = .continue_) (fresh : p.faults.reported.contains .lampFailed = false) :
    ∃ t, (p.lampsActed current).settle = { p.lampsActed current with turn := t }
      ∧ Decided ((((p.refreshLamps current).lampTold (faceServing g d))).lampsNoted
          (p.lampsActed current).link.conditions.lamps) g d (p.lampsActed current) := by
  obtain ⟨w, ys, acted⟩ := lampsLost_decides (p := p.refreshLamps current) _ p.link.conditions.lamps step asks lost
  have acted' : p.lampsActed current = ys.foldl Part.lampLost (((p.refreshLamps current).lampsNoted w).lampDecision
    (faceServing g d)) := acted
  obtain ⟨first, -⟩ := lampDecision_continues (p := (p.refreshLamps current).lampsNoted w) working step asks response
  have decided := first fresh
  have noted : ((p.refreshLamps current).lampsNoted w |>.lampDecision (faceServing g d)).link.conditions.lamps = w :=
    (congrArg Conditions.lamps (lampDecision_noted ((p.refreshLamps current).lampsNoted w) (faceServing g d)) :)
  generalize ((p.refreshLamps current).lampsNoted w).lampDecision (faceServing g d) = y at *
  have base : ((p.refreshLamps current).lampsNoted w).lampTold (faceServing g d)
      = ((p.refreshLamps current).lampTold (faceServing g d)).lampsNoted y.link.conditions.lamps := by
    rw [noted]
    rfl
  rw [base] at decided
  have known : ((p.refreshLamps current).lampTold (faceServing g d)).faults.reported.contains .lampFailed = true := by
    simp [Part.lampTold]
  have all := Decided.lampsLost (ph := ph) (p := (p.refreshLamps current).lampTold (faceServing g d)) ys y working step
    response known decided
  rw [← acted'] at all
  have still : (p.lampsActed current).mode = .working := all.framing.mode.trans working
  obtain ⟨t, settled, -⟩ := quiet_settled (working_quiet still) false false
  exact ⟨t, settled, all⟩

/-! ### LAMP_CLEAR (R44) -/

theorem failedLamps_le (p : Part) : p.failedLamps ≤ 16 := List.length_filter_le _ _

theorem takeLampClear_refused (tag : Tag) (busy : p.mode ≠ .rest) :
    p.takeLampClear tag = p.refuse .a tag .notAtRest := if_pos busy

theorem takeLampClear_taken (tag : Tag) (rest : p.mode = .rest) :
    p.takeLampClear tag = (p.accept .a tag (.lamps p.failedLamps)).clearLamps := if_neg (not_not_intro rest)

theorem lampsAreSensedAndCleared_refresh (current : LampMap Bool) (s : State) (f : Face) (k : Colour) :
    let q := (s.part.lampsActed current).settle
    let was := lampOf s.part.lamps f k
    let lit := match was.command with
      | .flash => !was.output
      | .lit => true
      | .dark => false
    (lampOf q.lamps f k).litLast = lit
      ∧ (lampOf q.lamps f k).armed = (lit && (was.litLast || was.armed))
      ∧ (lampOf q.lamps f k).failed = (was.failed || (lit && (was.litLast || was.armed) && !lampOf current f k))
      ∧ ((∀ e c, (lampOf q.lamps e c).failed = (lampOf s.part.lamps e c).failed) → quietMode s.part.mode →
          (lampOf q.lamps f k).command = was.command ∧ (lampOf q.lamps f k).output = lit) := by
  intro q was lit
  obtain ⟨litLast, armed, failed⟩ := eq_of_sense_marks ((lampsActed_sense s.part current).2 f k)
  refine ⟨litLast, armed.trans (refreshed_armed was _), failed.trans ?_, fun same quiet => ?_⟩
  · rw [refreshed_failed, refreshed_armed]
    rfl
  · have acted := lampsActed_unfailed s.part current same
    have still : quietMode (s.part.lampsActed current).mode := by
      rw [acted]
      exact quiet
    obtain ⟨t, settled, -⟩ := quiet_settled still false false
    have lamp : lampOf q.lamps f k = was.refreshed (lampOf current f k) := by
      rw [show q = _ from settled, acted]
      exact lampOf_lampMap _ f k
    rw [lamp]
    exact ⟨rfl, rfl⟩

/-- Settles O29: the refresh senses each lamp by itself, its failures are folded in one at a time, and only the
first that concerns the move in hand is told. -/
theorem lampsAreSensedAndCleared : Obligations.LampsAreSensedAndCleared := by
  refine ⟨fun current s => ⟨_, lampRefresh_run current s, (lampsActed_sense s.part current).1,
      fun f k => lampsAreSensedAndCleared_refresh current s f k⟩,
    fun current s => ⟨_, lampRefresh_run current s, lampsActed_noted s.part current, lampsActed_plain s.part current,
      fun g d ph working step asks lost => ?_⟩,
    fun tag s => ⟨fun busy => ?_, fun rest => ?_⟩⟩
  · have lost' : ∃ k, (faceServing g d, k) ∈ newlyFailed s.part.lamps (s.part.refreshLamps current).lamps := by
      obtain ⟨k, fails⟩ := lost
      exact ⟨k, (mem_newlyFailed s.part current _ k).2 fails⟩
    refine ⟨fun response drives => lampsActed_halts s.part current working step asks lost' response drives,
      fun response fresh => ?_⟩
    obtain ⟨t, settled, decided⟩ := lampsActed_continues s.part current working step asks lost' response fresh
    rw [settled]
    have framing := decided.framing
    have conditions := congrArg Link.conditions framing.link
    refine ⟨framing.mode.trans working, decided.face, ?_, framing.faults, conditions⟩
    have sent := congrArg (fun m : Three (List Msg) => m.a) framing.sent
    rw [← working]
    exact sent
  · exact exec_eq rfl (takeLampClear_refused tag busy)
  · refine ⟨_, s.part.failedLamps, exec_eq rfl (takeLampClear_taken tag rest), rfl, failedLamps_le _, rfl, fun f k => ?_⟩
    exact lampOf_lampMap _ f k

end Sys2Proof.Machine
end

section
/-! PROOFS. The turn selector's evaluation: the convoy, the latch and its undoing (R55, R67 to R71). -/

namespace Sys2Proof.Machine

variable {p q r : Part} {l : Lockage} {g : Gate} {d : Direction} {ph : Phase} {f : Flight}

/-! ### The convoy (R55) -/

theorem convoyLength_eq (gap : Nat) (vs : List Vessel) :
    convoyLength gap vs = (vs.map (·.length)).sum + (vs.length - 1) * gap := by
  rw [convoyLength, List.sum_eq_foldl, List.foldl_map]

theorem convoyFits_iff (vs : List Vessel) : p.convoyFits f vs = true ↔ vs.length ≤ f.convoyMaximum
    ∧ (vs.map (·.length)).sum + (vs.length - 1) * f.vesselGap ≤ f.usableLength ∧ p.passable vs = true := by
  simp [Part.convoyFits, convoyLength_eq, and_assoc]

/-- n vessels of a queue joined those taken already, each as it fitted, and the one behind them did not fit. -/
structure Grown (fits : List Vessel → Prop) (queue : List Vessel) (taken n : Nat) : Prop where
  least : taken ≤ n
  most : n ≤ queue.length
  joined : ∀ m, taken < m → m ≤ n → fits (queue.take m)
  stopped : n < queue.length → ¬ fits (queue.take (n + 1))

theorem growConvoy_grown (rest taken : List Vessel) :
    ∃ n, p.growConvoy f taken rest = (taken ++ rest).take n
      ∧ Grown (fun vs => p.convoyFits f vs = true) (taken ++ rest) taken.length n := by
  induction rest generalizing taken with
  | nil =>
    refine ⟨taken.length, by simp [Part.growConvoy], Nat.le_refl _, by simp, fun m a b => by omega, fun h => ?_⟩
    simp at h
  | cons v rest ih =>
    have all : (taken ++ [v]) ++ rest = taken ++ v :: rest := by simp
    have next : (taken ++ v :: rest).take (taken.length + 1) = taken ++ [v] := by
      rw [← all]
      exact List.take_left' (by rw [List.length_append, List.length_singleton])
    unfold Part.growConvoy
    by_cases fits : p.convoyFits f (taken ++ [v]) = true
    · rw [if_pos fits]
      obtain ⟨n, eq, grown⟩ := ih (taken ++ [v])
      rw [all] at eq grown
      obtain ⟨least, most, joined, stopped⟩ := grown
      rw [List.length_append, List.length_singleton] at least joined
      refine ⟨n, eq, by omega, most, fun m a b => ?_, stopped⟩
      rcases Nat.lt_or_ge (taken.length + 1) m with later | here
      · exact joined m later b
      · have m_eq : m = taken.length + 1 := by omega
        rw [m_eq, next]
        exact fits
    · rw [if_neg fits]
      refine ⟨taken.length, by simp, Nat.le_refl _, by simp, fun m a b => by omega, fun _ => ?_⟩
      rw [next]
      exact fits

/-- A convoy is the longest run from the head of its queue whose every part fits (R55). -/
theorem formConvoy_grown {v : Vessel} (d : Direction) (flight : p.settings.flight = some f)
    (head : (p.queueOf d).head? = some v) :
    ∃ n, p.formConvoy d = (p.queueOf d).take n ∧ Grown (fun vs => p.convoyFits f vs = true) (p.queueOf d) 1 n := by
  obtain ⟨rest, queue⟩ := List.head?_eq_some_iff.1 head
  have formed : p.formConvoy d = p.growConvoy f [v] rest := by
    unfold Part.formConvoy
    rw [queue, flight]
  rw [formed, queue]
  exact growConvoy_grown rest [v]

/-! ### The turn selector stands while a lockage's works run -/

theorem recorded_turn (h : Recorded p q) : q.turn = p.turn := by
  obtain ⟨u, s, rfl⟩ := h.form
  rfl

theorem dispose_turn (p : Part) (l : Lockage) (o : LockageOutcome) : (p.dispose l o).turn = p.turn := by
  unfold Part.dispose
  split
  · exact returnConvoy_turn _ _ _
  · exact recorded_turn (appendRecord_recorded p _)

theorem makeCurrent_turn (p : Part) (i : Nat) : (p.makeCurrent i).turn = p.turn := by
  unfold Part.makeCurrent
  split
  · rfl
  · split
    · rfl
    · exact (refreshFaces_framing _).turn

theorem enterMode_turn (p : Part) (m : Mode) : (p.enterMode m).turn = p.turn := (enterMode_framing p m).turn

theorem endLockage_turn (p : Part) (o : LockageOutcome) : (p.endLockage o).turn = p.turn := by
  unfold Part.endLockage
  split
  · rfl
  · next l _ =>
    simp only
    have stopped : (p.stopLockageTimers.onLockage fun x => { x with outcome := some o }).requestAllStop.turn = p.turn :=
      (requestAllStop_framing (p.stopLockageTimers.onLockage fun x => { x with outcome := some o })).turn
    generalize (p.stopLockageTimers.onLockage fun x => { x with outcome := some o }).requestAllStop = p1 at stopped ⊢
    have counted := (recorded_turn (countEnding_recorded (p1.dispose l o) o
      (if o.returns l.entryPassed = true then none else some (p1.tollRecord l o)))).trans ((dispose_turn p1 l o).trans stopped)
    generalize (p1.dispose l o).countEnding o
      (if o.returns l.entryPassed = true then none else some (p1.tollRecord l o)) = p2 at counted ⊢
    rw [event_turn, enterMode_turn]
    exact counted

theorem withdraw_turn (p : Part) : p.withdraw.turn = p.turn := by
  unfold Part.withdraw
  split
  · rfl
  · exact (endLockage_turn _ _).trans
      ((closeEntry_framing _ _ _).turn.trans (stopStepTransfer_framing p.stopLockageTimers).turn)

theorem startTransfer_turn (p : Part) (k : Sluice) (n : Nat) : (p.startTransfer k n).turn = p.turn :=
  (startTransfer_worked p k n).turn

theorem endTransfer_turn (p : Part) (k : Sluice) : (p.endTransfer k).turn = p.turn := by
  unfold Part.endTransfer
  simp only
  split
  · split <;> rfl
  · rfl

theorem beginStep_turn (p : Part) : p.beginStep.1.turn = p.turn := by
  unfold Part.beginStep
  split
  · split
    · exact (closeGate_framing _ _ _).turn
    · unfold Part.beginTransfer
      simp only
      split
      · exact (endTransfer_turn _ _).trans (startTransfer_turn p _ _)
      · exact startTransfer_turn p _ _
    · exact (evaluateOpen_worked _ _ _ _).turn
    · unfold Part.beginMove
      split
      · split
        · exact withdraw_turn p
        · rfl
      · exact (moveUnderWay_worked _ _ _).turn
    · unfold Part.beginCommit
      split <;> rfl
  · rfl

theorem nextStep_turn (p : Part) : p.nextStep.1.turn = p.turn := by
  unfold Part.nextStep
  split
  · split
    · exact (beginStep_turn _).trans (makeCurrent_turn p.stopLockageTimers _)
    · exact endLockage_turn p _
  · rfl

theorem advanceBy_turn (n : Nat) (p : Part) : (Part.advanceBy n p).turn = p.turn := by
  induction n generalizing p with
  | zero => rfl
  | succ n ih =>
    unfold Part.advanceBy
    split
    · exact (ih _).trans (nextStep_turn p)
    · exact nextStep_turn p

theorem work_turn (p : Part) : p.work.turn = p.turn := by
  unfold Part.work Part.carryOn
  split
  · exact (advanceBy_turn _ _).trans (beginStep_turn p)
  · exact beginStep_turn p

/-! ### The latch (R69 to R71, R92, R93) -/

/-- The lockage set up: its TURN event, then the STEP event of its first step. -/
theorem setUpLockage_sends {x : PlanStep} (l : Lockage) (b : Pattern) (first : l.plan[0]? = some x) :
    (p.setUpLockage l b).sent.a = p.sent.a ++ [.event (.turn l.number l.direction l.cls b (l.convoy.map (·.ticket))
        l.turnTime l.plan.length), .event (.step l.number 1 x p.clock)]
      ∧ (p.setUpLockage l b).turn = { p.turn with planWait := false } := by
  have entered : Framing { p with lockage := some l, turn := { p.turn with planWait := false }, mode := .working }
      (({ p with lockage := some l, turn := { p.turn with planWait := false } }).enterMode .working) :=
    enterMode_framing { p with lockage := some l, turn := { p.turn with planWait := false } } .working
  unfold Part.setUpLockage
  dsimp only
  generalize ({ p with lockage := some l, turn := { p.turn with planWait := false } } : Part).enterMode .working = y at *
  have asked : Framing y (y.requestEntryReady l.direction) := refreshFaces_framing _
  have framing := entered.trans asked
  generalize y.requestEntryReady l.direction = z at *
  obtain ⟨passed, held⟩ := framing.lockage_some (l := l) rfl
  refine ⟨?_, (makeCurrent_turn _ 1).trans framing.turn⟩
  have held' : (z.event (.turn l.number l.direction l.cls b (l.convoy.map (·.ticket)) l.turnTime l.plan.length)).lockage
      = some { l with entryPassed := passed } := held
  rw [makeCurrent_sent (i := 1) (s := x) held' first, event_sent_a, framing.sent, List.append_assoc, event_clock,
    framing.clock]
  rfl

/-- A standing E-STOP, or the first step's work, sends behind what the set-up sent. -/
theorem startLockage_sends {x : PlanStep} (l : Lockage) (b : Pattern) (first : l.plan[0]? = some x) :
    p.sent.a ++ [.event (.turn l.number l.direction l.cls b (l.convoy.map (·.ticket)) l.turnTime l.plan.length),
        .event (.step l.number 1 x p.clock)] <+: (p.startLockage l b).sent.a
      ∧ (p.startLockage l b).turn = { p.turn with planWait := false } := by
  obtain ⟨sent, turn⟩ := setUpLockage_sends (p := p) l b first
  have standing := eStopStanding_worked (p.setUpLockage l b)
  have begun : p.startLockage l b = (p.setUpLockage l b).eStopStanding
      ∨ p.startLockage l b = (p.setUpLockage l b).eStopStanding.work := by
    unfold Part.startLockage
    dsimp only
    split
    · exact .inr rfl
    · exact .inl rfl
  rw [← sent]
  rcases begun with here | here
  · rw [here]
    exact ⟨standing.sent .a, standing.turn.trans turn⟩
  · rw [here]
    exact ⟨(standing.sent .a).trans ((work_onward _).sent .a), (work_turn _).trans (standing.turn.trans turn)⟩

/-- What the plan builder reads stands as the latch begins. -/
theorem latched_predicted (p : Part) (d : Direction) : (p.latched d).predicted = p.predicted := by
  cases d <;> rfl

theorem latched_buildPlan (p : Part) (d e : Direction) (cc : ClearanceClass) :
    (p.latched d).buildPlan e cc = p.buildPlan e cc := by
  unfold Part.buildPlan
  rw [latched_predicted]

theorem latched_turn (p : Part) (d : Direction) : (p.latched d).turn.nextLockage = nextNumber p.turn.nextLockage
    ∧ (p.latched d).turn.pattern.lastUp = decide (d = .up) := by
  cases d <;> exact ⟨rfl, rfl⟩

theorem latch_planned {cc : ClearanceClass} {plan : List PlanStep} (h : p.buildPlan d cc = some plan) :
    p.latch d cc = (p.latched d).startLockage
      (newLockage p.turn.nextLockage d cc (p.formConvoy d) plan p.clockNow) p.turn.pattern := by
  unfold Part.latch
  dsimp only
  rw [latched_buildPlan, h]

theorem latch_unplanned {cc : ClearanceClass} (h : p.buildPlan d cc = none) :
    p.latch d cc = (p.latched d).undoLatch p.turn.nextLockage d (p.formConvoy d) p.turn.pattern p.predicted := by
  unfold Part.latch
  dsimp only
  rw [latched_buildPlan, latched_predicted, h]

theorem recompute_turn (p : Part) : p.recompute.turn.nextLockage = p.turn.nextLockage
    ∧ p.recompute.turn.pattern.lastUp = p.turn.pattern.lastUp ∧ p.recompute.turn.planWait = p.turn.planWait :=
  ⟨rfl, rfl, rfl⟩

theorem latched_leaves (p : Part) (d : Direction) :
    (p.latched d).mode = p.mode ∧ (p.latched d).lockage = p.lockage ∧ (p.latched d).sent = p.sent
      ∧ (p.latched d).clock = p.clock := by
  cases d <;> exact ⟨rfl, rfl, rfl, rfl⟩

/-- A turn with its plan (R70, R92, R93). -/
theorem latch_turns {cc : ClearanceClass} {plan : List PlanStep} {x : PlanStep} (h : p.buildPlan d cc = some plan)
    (first : plan[0]? = some x) :
    (p.latch d cc).recompute.turn.nextLockage = nextNumber p.turn.nextLockage
      ∧ (p.latch d cc).recompute.turn.pattern.lastUp = decide (d = .up)
      ∧ p.sent.a ++ [.event (.turn p.turn.nextLockage d cc p.turn.pattern ((p.formConvoy d).map (·.ticket)) p.clockNow
            plan.length), .event (.step p.turn.nextLockage 1 x p.clock)] <+: (p.latch d cc).recompute.sent.a := by
  obtain ⟨sent, turn⟩ := startLockage_sends (p := p.latched d)
    (newLockage p.turn.nextLockage d cc (p.formConvoy d) plan p.clockNow) p.turn.pattern first
  obtain ⟨number, bit⟩ := latched_turn p d
  obtain ⟨number', bit', -⟩ := recompute_turn (p.latch d cc)
  rw [number', bit', recompute_sent, latch_planned h, turn]
  obtain ⟨-, -, same, clock⟩ := latched_leaves p d
  rw [same, clock] at sent
  exact ⟨number, bit, sent⟩

/-- What undoing a latch leaves (R71). -/
theorem undoLatch_says (q : Part) (n : Nat) (d : Direction) (convoy : List Vessel) (was : Pattern) (f : Predicted) :
    (q.undoLatch n d convoy was f).turn.nextLockage = q.turn.nextLockage
      ∧ (q.undoLatch n d convoy was f).turn.planWait = true
      ∧ (q.undoLatch n d convoy was f).turn.pattern.lastUp = was.lastUp
      ∧ (q.undoLatch n d convoy was f).mode = q.mode ∧ (q.undoLatch n d convoy was f).lockage = q.lockage
      ∧ (q.undoLatch n d convoy was f).sent.a = q.sent.a ++ [.event (.noPlan n d was f.c1 f.c2 f.c3)] := by
  cases d <;> exact ⟨rfl, rfl, rfl, rfl, rfl, rfl⟩

/-- A turn undone for want of a plan (R71). -/
theorem latch_undone {cc : ClearanceClass} (h : p.buildPlan d cc = none) :
    (p.latch d cc).recompute.turn.nextLockage = nextNumber p.turn.nextLockage
      ∧ (p.latch d cc).recompute.turn.planWait = true
      ∧ (p.latch d cc).recompute.turn.pattern.lastUp = p.turn.pattern.lastUp
      ∧ (p.latch d cc).recompute.mode = p.mode ∧ (p.latch d cc).recompute.lockage = p.lockage
      ∧ (p.latch d cc).recompute.sent.a = p.sent.a ++ [.event (.noPlan p.turn.nextLockage d p.turn.pattern
          (p.chamberState .c1) (p.chamberState .c2) (p.chamberState .c3))] := by
  obtain ⟨number', bit', wait⟩ := recompute_turn (p.latch d cc)
  obtain ⟨number, waits, bit, mode, lockage, sent⟩ :=
    undoLatch_says (p.latched d) p.turn.nextLockage d (p.formConvoy d) p.turn.pattern p.predicted
  obtain ⟨mode₀, lockage₀, sent₀, -⟩ := latched_leaves p d
  rw [sent₀] at sent
  rw [number', bit', wait, recompute_mode, recompute_lockage, recompute_sent, latch_unplanned h]
  exact ⟨number.trans (latched_turn p d).1, waits, bit, mode.trans mode₀, lockage.trans lockage₀, sent⟩

/-! ### The evaluation (R64, R67, R68) -/

/-- Readiness that has just gone to yes evaluates the pattern (R64). -/
theorem turnArrival_evaluates (before : p.turn.readiness = false) (now : p.recompute.turn.readiness = true) (a b : Bool) :
    p.turnArrival a b = p.recompute.evaluateTurn := by
  unfold Part.turnArrival
  dsimp only
  rw [now, before]
  rfl

/-- A ready flight is at REST (R63). -/
theorem ready_rests (now : p.recompute.turn.readiness = true) : p.mode = .rest := by
  refine Classical.byContradiction fun no => ?_
  rw [recompute_notRest p no] at now
  cases now

theorem rejectPattern_says (p : Part) : p.rejectPattern.turn.rejectHold = some p.turn.pattern
    ∧ p.rejectPattern.turn.readiness = false
    ∧ p.rejectPattern.sent.a = p.sent.a ++ [.event (.turnRejected p.turn.pattern)]
    ∧ p.rejectPattern.link.conditions.turnRejected = some p.turn.pattern ∧ p.rejectPattern.mode = p.mode :=
  ⟨rfl, rfl, rfl, rfl, rfl⟩

theorem evaluateTurn_hold (h : p.turnEntry.action = .hold) : p.evaluateTurn = p := by
  unfold Part.evaluateTurn
  rw [h]

theorem evaluateTurn_reject (h : p.turnEntry.action = .reject) : p.evaluateTurn = p.rejectPattern := by
  unfold Part.evaluateTurn
  rw [h]

theorem evaluateTurn_turns (d : Direction) (h : p.turnEntry.action = (match d with | .up => .up | .down => .down)) :
    p.evaluateTurn = (p.latch d p.turnEntry.cls).recompute := by
  unfold Part.evaluateTurn
  cases d <;> rw [h]

/-- Settles O34: the convoy is grown vessel by vessel, and the evaluation goes by the turn entry's action. -/
theorem evaluationTurnsTheFlight : Obligations.EvaluationTurnsTheFlight := by
  refine ⟨fun p d f v flight head => ?_, fun s before now => ?_⟩
  · obtain ⟨n, formed, least, most, joined, stopped⟩ := formConvoy_grown d flight head
    have length : (p.formConvoy d).length = n := by
      rw [formed, List.length_take]
      omega
    dsimp only
    rw [length]
    exact ⟨least, most, formed, fun m a b => (convoyFits_iff _).1 (joined m a b),
      fun less fits => stopped less ((convoyFits_iff _).2 fits)⟩
  · have rests := ready_rests now
    refine ⟨s.part.recompute.evaluateTurn, exec_eq rfl (turnArrival_evaluates before now false false),
      fun hold => evaluateTurn_hold hold, fun reject => ?_, fun d turns => ⟨fun plan x built first => ?_, fun none => ?_⟩⟩
    · rw [evaluateTurn_reject reject]
      obtain ⟨hold, ready, sent, noted, mode⟩ := rejectPattern_says s.part.recompute
      exact ⟨hold, ready, sent, noted, mode.trans rests⟩
    · rw [evaluateTurn_turns d turns]
      exact latch_turns built first
    · rw [evaluateTurn_turns d turns]
      obtain ⟨number, wait, bit, mode, rest⟩ := latch_undone none
      exact ⟨number, wait, bit, mode.trans rests, rest⟩

end Sys2Proof.Machine
end

section
/-! PROOFS. Position feedback (R30, R31, R33, R35), and an announcement beside a ramp (R34). -/

namespace Sys2Proof.Machine

variable {p q r : Part} {l : Lockage} {g : Gate} {k : Sluice} {d : Direction} {ph : Phase}

/-! ### A feedback while nothing runs (R30, R31) -/

/-- What follows the record a feedback leaves (R28, R33, R35, R97, R170). -/
def Part.feedbackFollows (p : Part) (k : Sluice) (was : Nat) : Part :=
  ((((p.finishTransfer k).retestBeside k).reevaluateOpen).surveyRise k was).settle

theorem feedback_same {n : Fin 16} {s : State} (same : n.val = (s.part.sluices.get k).position) :
    exec (.positionFeedbackChange k n) s = .next s := by
  simp only [exec, execPositionFeedbackChange, if_pos same.symm]

theorem feedback_run {n : Fin 16} {s : State} (change : n.val ≠ (s.part.sluices.get k).position) :
    exec (.positionFeedbackChange k n) s = .next { s with
      part := (s.part.putSluice k (s.part.positioned k n.val)).feedbackFollows k (s.part.sluices.get k).position } := by
  simp only [exec, execPositionFeedbackChange, if_neg (Ne.symm change), takePosition_eq]
  rfl

/-- With no transfer the record stands, and isolation follows it, while nothing runs. -/
theorem feedback_aside {y : SluiceRec} (was : Nat) (stands : p.StandsBy) (idle : y.transfer = none) :
    ((p.putSluice k y).feedbackFollows k was).sluices.get k = y
      ∧ IsolationFollows p ((p.putSluice k y).feedbackFollows k was) := by
  have running : (p.putSluice k y).transferDone k = false := by
    rw [transferDone_eq, putSluice_get]
    simp [SluiceRec.finished, idle]
  have beside := retestBeside_aside (p.putSluice k y) k (by rw [putSluice_mode]; exact stands.rests)
  have follows := putSluice_follows p k y
  have readings (x : Reach) : ((p.putSluice k y).reaches.get x).reading = (p.reaches.get x).reading :=
    examineIsolation_reading _ x
  unfold Part.feedbackFollows
  rw [finishTransfer_running _ k running]
  have written := putSluice_get p k y
  have mode := putSluice_mode p k y
  have inhibit := putSluice_navInhibit p k y
  generalize p.putSluice k y = z at *
  generalize z.retestBeside k = w at *
  have after : w.StandsBy := stands.of (beside.mode.trans mode) (beside.inhibit.trans inhibit)
  rw [reevaluateOpen_other _ after.rests.1, surveyRise_other _ _ _ after.rests.2, after.settle]
  obtain ⟨-, isolation⟩ := beside.follows p readings follows
  exact ⟨beside.sluice.trans written, isolation.same rfl (fun _ => rfl) rfl⟩

theorem confirms_iff (x : SluiceRec) (n : Nat) : x.confirms n = true ↔ ∃ d, x.step = some (d, n) := by
  unfold SluiceRec.confirms
  cases step : x.step with
  | none => simp
  | some y => obtain ⟨d, m⟩ := y; simp

theorem positioned_plain {n : Nat} (idle : (p.sluices.get k).transfer = none) :
    p.positioned k n = (if ((p.sluices.get k).moved n).step.isSome then (p.sluices.get k).moved n
      else if (p.sluices.get k).state = .closing ∨ (p.sluices.get k).confirms n = true
        then ((p.sluices.get k).moved n).closedOn (p.stepLimit k)
      else ((p.sluices.get k).moved n).shifted) := by
  have still : (p.sluices.get k).ramps = false := by simp [SluiceRec.ramps, idle]
  unfold Part.positioned
  dsimp only
  rw [still]
  rfl

/-- A feedback that does not confirm the step in flight is the new position alone. -/
theorem positioned_unconfirmed {n m : Nat} {e : StepDir} (idle : (p.sluices.get k).transfer = none)
    (step : (p.sluices.get k).step = some (e, m)) (other : m ≠ n) :
    p.positioned k n = { p.sluices.get k with position := n } := by
  have moved : (p.sluices.get k).moved n = { p.sluices.get k with position := n } := by
    simp [SluiceRec.moved, SluiceRec.confirms, step, other]
  rw [positioned_plain idle, moved]
  simp [step]

/-- A closing, or a confirmed step, goes on down to 0. -/
theorem positioned_closing {n : Nat} (idle : (p.sluices.get k).transfer = none)
    (closing : (p.sluices.get k).step = none ∧ (p.sluices.get k).state = .closing
      ∨ ∃ e, (p.sluices.get k).step = some (e, n)) :
    p.positioned k n = if n = 0 then { p.sluices.get k with
        position := 0, step := none, state := .closed
        stepTimer := if (p.sluices.get k).step = none then (p.sluices.get k).stepTimer else none }
      else { p.sluices.get k with
        position := n, state := .closing, step := some (.down, n - 1)
        stepTimer := p.settings.works.map fun w => 1000 * w.stepLimit.get k } := by
  have limit : p.stepLimit k = p.settings.works.map fun w => 1000 * w.stepLimit.get k := rfl
  rw [positioned_plain idle, ← limit]
  generalize p.sluices.get k = x at *
  rcases closing with ⟨step, state⟩ | ⟨e, step⟩
  · have moved : x.moved n = { x with position := n } := by simp [SluiceRec.moved, SluiceRec.confirms, step]
    rw [moved]
    by_cases zero : n = 0
    · simp [zero, step, state, SluiceRec.closedOn]
    · simp [zero, step, state, SluiceRec.closedOn, SluiceRec.stepped]
  · have moved : x.moved n = { x with position := n, step := none, stepTimer := none } := by
      simp [SluiceRec.moved, SluiceRec.confirms, step]
    have confirms : x.confirms n = true := (confirms_iff x n).2 ⟨e, step⟩
    rw [moved]
    by_cases zero : n = 0
    · simp [zero, step, SluiceRec.closedOn]
      simp [← zero, confirms]
    · simp [zero, confirms, SluiceRec.closedOn, SluiceRec.stepped]

/-- Without a step or a closing the feedback is taken as it stands. -/
theorem positioned_shifted {n : Nat} (idle : (p.sluices.get k).transfer = none) (step : (p.sluices.get k).step = none)
    (state : (p.sluices.get k).state ≠ .closing) :
    p.positioned k n =
      if (p.sluices.get k).state = .closed ∧ 0 < n then { p.sluices.get k with position := n, state := .held }
      else if (p.sluices.get k).state = .held ∧ n = 0 then { p.sluices.get k with position := 0, state := .closed }
      else { p.sluices.get k with position := n } := by
  rw [positioned_plain idle]
  generalize p.sluices.get k = x at *
  have moved : x.moved n = { x with position := n } := by simp [SluiceRec.moved, SluiceRec.confirms, step]
  have unconfirmed : x.confirms n = false := by simp [SluiceRec.confirms, step]
  rw [moved, if_neg (by simp [step]), if_neg (by simp [state, unconfirmed])]
  obtain ⟨position, stand, target, flight, stepTimer, trim, transfer, rampTimer, due, waiting⟩ := x
  cases stand with
  | held =>
    by_cases zero : n = 0
    · simp [SluiceRec.shifted, zero]
    · simp [SluiceRec.shifted, zero]
  | closed | closing | stepping => simp [SluiceRec.shifted] at state ⊢

theorem positioned_idle {n : Nat} (idle : (p.sluices.get k).transfer = none) : (p.positioned k n).transfer = none := by
  have moved : ((p.sluices.get k).moved n).transfer = none := by unfold SluiceRec.moved; split <;> exact idle
  rw [positioned_plain idle]
  split
  · exact moved
  · split
    · unfold SluiceRec.closedOn
      split <;> exact moved
    · unfold SluiceRec.shifted
      repeat' split
      all_goals exact moved

/-! ### What the sluices beside a passage do where no gate waits (R33) -/

/-- Other sluices' records and the reaches' changed, with every transfer. -/
structure Alongside (k : Sluice) (p q : Part) : Prop where
  form : q = { p with sluices := q.sluices, reaches := q.reaches }
  own : q.sluices.get k = p.sluices.get k
  transfers : ∀ j, (q.sluices.get j).transfer = (p.sluices.get j).transfer

theorem Alongside.refl (k : Sluice) (p : Part) : Alongside k p p := ⟨rfl, rfl, fun _ => rfl⟩

theorem Alongside.trans (a : Alongside k p q) (b : Alongside k q r) : Alongside k p r where
  form := by rw [b.form, a.form]
  own := b.own.trans a.own
  transfers j := (b.transfers j).trans (a.transfers j)

theorem retestRamp_alongside (p : Part) (j : Sluice) (other : j ≠ k) : Alongside k p (p.retestRamp j) := by
  unfold Part.retestRamp
  split
  · rw [rampNext_eq]
    refine ⟨rfl, ?_, fun i => ?_⟩
    · rw [putSluice_sluices, Four.get_set, if_neg other.symm]
    · rw [putSluice_sluices, Four.get_set]
      split
      · next same => rw [same, ramped_transfer]
      · rfl
  · exact .refl k p

theorem retestGate_still (pending : (p.gates.get g).openPending = false) : p.retestGate g = p := if_pos pending

theorem retestBeside_alongside (p : Part) (k : Sluice) (pending : ∀ g, (p.gates.get g).openPending = false) :
    Alongside k p (p.retestBeside k) := by
  have other : ∀ h ∈ (Gate.before k).toList ++ (Gate.after k).toList, h ≠ k := by
    rintro h mem rfl
    revert mem
    cases h <;> simp [Gate.before, Gate.after]
  unfold Part.retestBeside
  generalize (Gate.before k).toList ++ (Gate.after k).toList = xs at *
  suffices all : ∀ q : Part, (∀ g, (q.gates.get g).openPending = false) →
      Alongside k q (xs.foldl (fun q h => (q.retestGate h).retestRamp h) q) from all p pending
  induction xs with
  | nil => exact fun q _ => .refl k q
  | cons h xs ih =>
    intro q still
    rw [List.foldl_cons, retestGate_still (still h)]
    have one := retestRamp_alongside (k := k) q h (other h (.head _))
    refine one.trans (ih (fun x mem => other x (.tail _ mem)) _ fun g => ?_)
    rw [one.form]
    exact still g

theorem Alongside.curStep (h : Alongside k p q) : q.curStep = p.curStep := by rw [h.form]; rfl

/-- Where no gate waits and no OPEN step does, only the sluices beside follow. -/
theorem feedbackFollows_alongside (was : Nat) (ended : p.finishTransfer k = q) (quiet : quietMode q.mode)
    (pending : ∀ g, (q.gates.get g).openPending = false) (waits : ∀ z, Alongside k q z → z.reevaluateOpen = z) :
    ∃ z t, p.feedbackFollows k was = { z with turn := t } ∧ Alongside k q z := by
  have beside := retestBeside_alongside q k pending
  unfold Part.feedbackFollows
  rw [ended, waits _ beside]
  generalize q.retestBeside k = z at *
  have still : quietMode z.mode := by
    rw [beside.form]
    exact quiet
  obtain ⟨t, e, -⟩ := quiet_settled still false false
  rw [surveyRise_other _ _ _ still.1, e]
  exact ⟨z, t, rfl, beside⟩

/-- A TRANSFER in hand evaluates nothing again. -/
theorem reevaluateOpen_transfer {j : Sluice} (step : p.curStep = some ⟨.transfer j, ph⟩) : p.reevaluateOpen = p := by
  cases held : p.lockage with
  | none => exact reevaluateOpen_idle fun l h => by rw [held] at h; cases h
  | some l => exact reevaluateOpen_untested held step fun g h => nomatch h

/-! ### A ramp's up-step confirmed (R33) -/

theorem positioned_ramping {n : Nat} {t : Transfer} (held : (p.sluices.get k).transfer = some t)
    (phase : t.phase = .ramping) (step : (p.sluices.get k).step = some (.up, n)) (low : n ≤ p.effectiveCap k) :
    ((p.sluices.get k).due = false → p.positioned k n = { p.sluices.get k with
        position := n, step := none, stepTimer := none, target := p.effectiveCap k
        rampTimer := p.settings.works.map fun w => 1000 * w.rampInterval.get k
        state := if n = p.effectiveCap k then .held else .stepping })
      ∧ ((p.sluices.get k).due = true → p.positioned k n =
        if n < p.effectiveCap k ∧ (p.compare k).isOrdered = true ∧ p.interlock k = true then
          { p.sluices.get k with
            position := n, step := some (.up, n + 1), target := p.effectiveCap k
            stepTimer := p.settings.works.map fun w => 1000 * w.stepLimit.get k
            due := false, state := .stepping }
        else { p.sluices.get k with
            position := n, step := none, stepTimer := none, target := p.effectiveCap k
            state := .held }) := by
  have limit : p.stepLimit k = p.settings.works.map fun w => 1000 * w.stepLimit.get k := rfl
  have interval : p.rampInterval k = p.settings.works.map fun w => 1000 * w.rampInterval.get k := rfl
  have may : p.mayStepUp k = true ↔ (p.compare k).isOrdered = true ∧ p.interlock k = true := by
    rw [Part.mayStepUp, Bool.and_eq_true]
  have ramps : (p.sluices.get k).ramps = true := ramps_of held phase
  simp only [← limit, ← interval, ← may]
  unfold Part.positioned
  dsimp only
  generalize p.sluices.get k = x at *
  have moved : x.moved n = { x with position := n, step := none, stepTimer := none } := by
    simp [SluiceRec.moved, SluiceRec.confirms, step]
  have up : x.confirmsUp n = true := by simp [SluiceRec.confirmsUp, step]
  have notAbove : ¬ p.effectiveCap k < n := by omega
  rw [if_pos ramps, moved, up]
  constructor
  · intro due
    by_cases top : n = p.effectiveCap k
    · simp [SluiceRec.ramped, due, ← top]
    · simp [SluiceRec.ramped, due, top, notAbove]
  · intro due
    by_cases top : n = p.effectiveCap k
    · simp [SluiceRec.ramped, due, ← top]
    · have below : n < p.effectiveCap k := by omega
      cases p.mayStepUp k <;> simp [SluiceRec.ramped, SluiceRec.stepped, due, top, notAbove, below]

theorem positioned_transfer {n : Nat} {t : Transfer} (held : (p.sluices.get k).transfer = some t)
    (phase : t.phase = .ramping) : (p.positioned k n).transfer = some t := by
  have moved : ((p.sluices.get k).moved n).transfer = some t := by unfold SluiceRec.moved; split <;> exact held
  unfold Part.positioned
  dsimp only
  rw [if_pos (ramps_of held phase), ramped_transfer]
  split <;> exact moved

end Sys2Proof.Machine
end

section
/-! PROOFS. The end of a transfer in CLOSING (R35, R96), and an announcement beside a ramp (R34). -/

namespace Sys2Proof.Machine

variable {p q r : Part} {l : Lockage} {g : Gate} {k : Sluice} {d : Direction} {ph : Phase}

/-! ### A transfer ends at 0 in CLOSING (R35, R153, R154) -/

/-- The lockage record with a head draw counted, where the transfer went through S0. -/
def Lockage.drawing (l : Lockage) (k : Sluice) : Lockage :=
  { l with headDraws := if k = .g0 then min 255 (l.headDraws + 1) else l.headDraws }

/-- The outlet unit with a head draw counted, where the transfer went through S0. -/
def OutletUnit.drawing (u : OutletUnit) (k : Sluice) : OutletUnit :=
  { u with
    counters := { u.counters with
      headDraws := if k = .g0 then min 65535 (u.counters.headDraws + 1) else u.counters.headDraws }
    saturated := if k = .g0 ∧ 65535 ≤ u.counters.headDraws then true else u.saturated }

/-- A sluice's record whose transfer has ended. -/
def SluiceRec.transferred (x : SluiceRec) : SluiceRec :=
  { x with transfer := none, trim := 0, rampTimer := none, due := false }

theorem bump_headDraws (u : OutletUnit) : u.bump .headDraws 1 = u.drawing .g0 := by
  unfold OutletUnit.bump OutletUnit.drawing
  by_cases full : 65535 < u.counters.headDraws + 1
  · have at_ : 65535 ≤ u.counters.headDraws := by omega
    have most : min 65535 (u.counters.headDraws + 1) = 65535 := by omega
    simp [Counter.limit, Counters.get, Counters.set, full, at_, most]
  · have below : ¬ 65535 ≤ u.counters.headDraws := by omega
    have most : min 65535 (u.counters.headDraws + 1) = u.counters.headDraws + 1 := by omega
    simp [Counter.limit, Counters.get, Counters.set, full, below, most]

theorem drawing_other (u : OutletUnit) (other : k ≠ .g0) : u.drawing k = u := by
  simp [OutletUnit.drawing, other]

theorem endTransfer_draws {t : Transfer} (held : p.lockage = some l) (runs : (p.sluices.get k).transfer = some t)
    (own : t.lockage = l.number) :
    p.endTransfer k = { p with
      sluices := p.sluices.set k (p.sluices.get k).transferred
      outlets := p.outlets.drawing k, lockage := some (l.drawing k) } := by
  unfold Part.endTransfer
  dsimp only
  rw [runs]
  by_cases zero : k = .g0
  · subst zero
    have named : l.number = t.lockage := own.symm
    simp only [if_true, Part.headDraw, held, Option.map_some, if_pos named, bump_headDraws]
    rfl
  · have same : l.drawing k = l := by simp [Lockage.drawing, zero]
    simp only [if_neg zero, same, drawing_other _ zero, ← held]
    rfl

/-- The record of a sluice confirmed at 0 in CLOSING. -/
theorem positioned_bottom {t : Transfer} (runs : (p.sluices.get k).transfer = some t) (phase : t.phase = .closing)
    (step : (p.sluices.get k).step = some (.down, 0)) (state : (p.sluices.get k).state = .closing) :
    p.positioned k 0 = { p.sluices.get k with position := 0, step := none, stepTimer := none, state := .closed } := by
  unfold Part.positioned
  dsimp only
  generalize p.sluices.get k = x at *
  have still : x.ramps = false := by simp [SluiceRec.ramps, runs, phase]
  have moved : x.moved 0 = { x with position := 0, step := none, stepTimer := none } := by
    simp [SluiceRec.moved, SluiceRec.confirms, step]
  simp [still, moved, state, SluiceRec.closedOn]

theorem finished_bottom {x : SluiceRec} {t : Transfer} (runs : x.transfer = some t) (phase : t.phase = .closing)
    (position : x.position = 0) (step : x.step = none) : x.finished = true := by
  simp [SluiceRec.finished, runs, phase, position, step]

theorem putSluice_bump (p : Part) (k : Sluice) (x y : SluiceRec) :
    (p.putSluice k x).sluices.set k y = p.sluices.set k y := by cases k <;> rfl

/-- The end of the transfer of the step in hand brings the next step (R96). -/
theorem transferReported_advances {n : Nat} (working : p.mode = .working) (held : p.lockage = some l)
    (number : l.number = n) (step : p.curStep = some ⟨.transfer k, ph⟩) : p.transferReported k n = p.advance := by
  unfold Part.transferReported
  rw [held, step]
  simp [working, number]

/-- A TRANSFER over water that is not level, as the step after: what its start leaves. -/
theorem advance_lifts {s : PlanStep} {j : Sluice} {pj : Phase} (held : p.lockage = some l) (step : p.curStep = some s)
    (next : l.plan[l.current]? = some ⟨.transfer j, pj⟩) (free : (p.sluices.get j).transfer = none)
    (water : p.compare j = .above ∨ p.compare j = .below) :
    p.advance.mode = p.mode ∧ p.advance.outlets = p.outlets ∧ p.advance.gates = p.gates
      ∧ (∀ i, i ≠ j → p.advance.sluices.get i = p.sluices.get i)
      ∧ p.advance.lockage = some (({ l with moveTimer := none, windowTimer := none } : Lockage).takeStep (l.current + 1)
          ⟨.transfer j, pj⟩)
      ∧ p.advance.sent.a = p.sent.a ++ [.event (.step l.number (l.current + 1) ⟨.transfer j, pj⟩ p.clock)]
      ∧ (p.advance.sluices.get j).transfer = some ⟨.ramping, p.transferLimit j, l.number⟩ := by
  obtain ⟨held', next'⟩ := timeless_step held next
  have into := nextStep_into held step next
  have sent := makeCurrent_sent held' next'
  have lockage := makeCurrent_lockage held' next' (.inr nofun)
  have cur := makeCurrent_curStep held' next'
  obtain ⟨r, e, framing, gates, sluices, reaches⟩ := makeCurrent_form held' next'
  generalize p.stopLockageTimers.makeCurrent (l.current + 1) = m at *
  have settings : m.settings = p.settings := e ▸ framing.settings
  have outlets : m.outlets = p.outlets := e ▸ framing.outlets
  have kept : m.sluices = p.sluices := by rw [e, event_sluices, sluices]; rfl
  have freed : (m.sluices.get j).transfer = none := by rw [kept]; exact free
  have flows : m.compare j = .above ∨ m.compare j = .below := by
    rw [compare_of (p := p) (by rw [e, event_reaches, reaches]; rfl) settings]; exact water
  obtain ⟨y, begun, transfer⟩ := beginTransfer_lifts (n := l.number) freed flows
  have once : p.nextStep = (m.putSluice j y, false) := by
    rw [into, beginStep_transfer lockage cur]
    exact begun
  rw [advance_once (by rw [once]), once]
  refine ⟨?_, ?_, ?_, fun i other => ?_, ?_, ?_, ?_⟩
  · rw [putSluice_mode, e]; exact framing.mode
  · rw [putSluice_outlets, outlets]
  · rw [putSluice_gates, e, event_gates, gates]; rfl
  · rw [putSluice_sluices, Four.get_set, if_neg other, kept]
  · rw [putSluice_lockage, lockage]
  · rw [putSluice_sent, sent]; rfl
  · rw [putSluice_get, transfer, Part.transferLimit, settings]; rfl

/-! ### An announcement beside a ramp (R34) -/

/-- Where only Sk ramps and no gate or OPEN step waits, an announcement is Sk's alone. -/
theorem announce_beside {x : Reach} (beside : k ∈ x.gates) (pending : ∀ g, (p.gates.get g).openPending = false)
    (alone : ∀ j, j ≠ k → p.ramping j = false) (after : ∀ j, j ≠ k → (p.announceTransfer k).ramping j = false)
    (idle : (p.announceTransfer k).openInHand = none) :
    ∃ c, p.announce x = { p.announceTransfer k with calls := c } := by
  have gates : x.gates.foldl Part.retestGate p = p := foldl_stands (fun g => retestGate_still (pending g)) _
  have other (q : Part) (j : Sluice) (still : q.ramping j = false) : q.announceTransfer j = q :=
    if_neg (by rw [still]; exact Bool.false_ne_true)
  have transfers : x.gates.foldl Part.announceTransfer p = p.announceTransfer k := by
    cases x <;> simp only [Reach.gates, List.mem_cons, List.not_mem_nil, or_false] at beside ⊢
    case head | tail => rw [beside]; rfl
    all_goals
      rcases beside with rfl | rfl
      · exact other _ _ (after _ (by decide))
      · exact congrArg (Part.announceTransfer · _) (other _ _ (alone _ (by decide)))
  have opened : (p.announceTransfer k).announceOpen x = p.announceTransfer k := by
    unfold Part.announceOpen
    rw [idle]
  unfold Part.announce
  rw [gates, transfers]
  dsimp only
  rw [opened]
  split
  · exact ⟨_, rfl⟩
  · exact ⟨_, rfl⟩

theorem openInHand_other (h : p.mode ≠ .working) : p.openInHand = none := by
  unfold Part.openInHand
  split
  · exact if_neg h
  · rfl

theorem openInHand_transfer {j : Sluice} (step : p.curStep = some ⟨.transfer j, ph⟩) : p.openInHand = none := by
  unfold Part.openInHand
  rw [step]
  cases p.lockage with
  | none => rfl
  | some l => simp

/-- A chamber beside an open sluice is not isolated. -/
theorem isolated_open {c : Chamber} (beside : c.upperGate = k ∨ c.lowerGate = k) (position : 0 < (p.sluices.get k).position) :
    p.isolated c = false := by
  have above : (p.sluices.get k).position ≠ 0 := by omega
  rcases beside with rfl | rfl <;> simp [Part.isolated, above]

/-- A sample at a chamber that is not isolated, or at a pound, is no drift: the record and the note alone. -/
theorem sampled_plain (p : Part) (x : Reach) (y : ReachRec) (was : ReadingClass)
    (open_ : ∀ c, x.chamber = some c → p.isolated c = false) :
    ∃ v u, (((p.withRecord x y).noteClass x was).examineReach x).driftOf x = { p with
      reaches := v, link := { p.link with conditions := { p.link.conditions with reaches := u } } } := by
  obtain ⟨u, noted⟩ := noteClass_form (p.withRecord x y) x was
  rw [noted]
  cases chamber : x.chamber with
  | none =>
    unfold Part.examineReach Part.driftOf
    rw [chamber]
    exact ⟨_, _, rfl⟩
  | some c =>
    have still := open_ c chamber
    have reach : c.reach = x := by cases x <;> cases chamber <;> rfl
    subst reach
    rw [examineReach_chamber, driftOf_chamber]
    generalize withY : ({ p.withRecord c.reach y with link := { (p.withRecord c.reach y).link with
      conditions := { (p.withRecord c.reach y).link.conditions with reaches := u } } } : Part) = z
    have shut : z.isolated c = false := by rw [← withY]; exact still
    have drifts : (z.withRecord c.reach (z.examined c)).drifts c = false := by
      have same : (z.withRecord c.reach (z.examined c)).isolated c = false := shut
      unfold Part.drifts
      rw [same]
      split <;> rfl
    rw [driftTest_eq, if_neg (by rw [drifts]; exact fun h => Bool.false_ne_true h.1), ← withY]
    exact ⟨_, _, rfl⟩

end Sys2Proof.Machine
end

section
/-! PROOFS. Each clause of a sluice's feedback (R30 to R35). -/

namespace Sys2Proof.Machine

variable {p q r : Part} {l : Lockage} {g : Gate} {k : Sluice} {d : Direction} {ph : Phase}

/-! ### The announcement beside a ramp (R34) -/

/-- The announcement of a reach beside a ramping sluice that stands open, with what the event ends with. -/
def Part.announced (p : Part) (x : Reach) (b : Bool) : Part := (p.announce x).settle b

theorem announced_compare (p : Part) (x : Reach) (b : Bool) (g : Gate) : (p.announced x b).compare g = p.compare g :=
  ((announce_onward p x).trans (settle_onward _ b _)).compare g

section
variable {x : Reach} {t : Transfer} (b : Bool) (beside : k ∈ x.gates)
  (pending : ∀ g, (p.gates.get g).openPending = false) (alone : ∀ j, j ≠ k → p.ramping j = false)
  (working : p.mode = .working)
include beside pending alone working

/-- Where the ramp's record alone is written, only calls and the turn selector follow. -/
theorem announced_written {y : SluiceRec} (step : p.curStep = some ⟨.transfer k, ph⟩)
    (writes : p.announceTransfer k = p.putSluice k y) :
    ∃ c t, p.announced x b = { p.putSluice k y with calls := c, turn := t } := by
  have after (j : Sluice) (other : j ≠ k) : (p.announceTransfer k).ramping j = false := by
    rw [writes, ramping_eq, putSluice_sluices, Four.get_set, if_neg other]
    exact alone j other
  have idle : (p.announceTransfer k).openInHand = none := by
    rw [writes]
    exact openInHand_transfer (p := p.putSluice k y) (ph := ph) (j := k) step
  obtain ⟨c, e⟩ := announce_beside beside pending alone after idle
  rw [Part.announced, e, writes]
  obtain ⟨t, settled, -⟩ := quiet_settled (y := { p.putSluice k y with calls := c }) (working_quiet working) b false
  exact ⟨c, t, settled⟩

theorem announced_halts {c : UnorderedCause} (ramps : p.ramping k = true) (water : p.compare k = .unordered c)
    (response : p.responseOf (sensorFault c) = .halt) (drives : p.DrivesMatch) :
    HaltedFrom p (p.announced x b) (sensorFault c) (.sluice k) := by
  have framing := rampNext_framing p k
  have gates : (p.rampNext k).gates = p.gates := by rw [rampNext_eq, putSluice_gates]
  have reports : p.announceTransfer k = (p.rampNext k).report (sensorFault c) (.sluice k) := by
    unfold Part.announceTransfer
    rw [if_pos ramps, water]
  have halts : p.announceTransfer k = (p.rampNext k).haltFlight (sensorFault c) (.sluice k) :=
    reports.trans (report_halts _ _ _ (.inl (framing.mode.trans working)) ((framing.responseOf _).trans response))
  have halted : HaltedFrom p (p.announceTransfer k) (sensorFault c) (.sluice k) := by
    rw [halts]
    exact framing.haltedFrom (haltFlight_halted (p.rampNext k) _ _ fun g => by rw [gates]; exact drives g)
  have mode : (p.announceTransfer k).mode = .halted := halted.1
  obtain ⟨-, -, -, -, -, -, -, -, -, -, ramps⟩ := id halted
  obtain ⟨calls, e⟩ := announce_beside beside pending alone (fun j _ => ramps j)
    (openInHand_other (by rw [mode]; decide))
  rw [Part.announced, e]
  generalize p.announceTransfer k = z at halted
  have called : HaltedFrom p { z with calls := calls } (sensorFault c) (.sluice k) := halted
  exact called.settle p b false

end

theorem announceTransfer_level (ramps : p.ramping k = true) (water : p.compare k = .level)
    (position : 0 < (p.sluices.get k).position) :
    p.announceTransfer k = p.putSluice k ((p.sluices.get k).toClosing.toClose (p.stepLimit k)) := by
  have above : (p.sluices.get k).position ≠ 0 := by omega
  have closing : p.announceTransfer k = (p.beginClosing k).finishTransfer k := by
    unfold Part.announceTransfer
    rw [if_pos ramps, water]
  rw [closing, beginClosing_eq]
  refine finishTransfer_running _ _ ?_
  have stands : ((p.sluices.get k).toClosing.toClose (p.stepLimit k)).position ≠ 0 := by
    rw [toClose_position]
    exact above
  rw [transferDone_eq, putSluice_get]
  generalize (p.sluices.get k).toClosing.toClose (p.stepLimit k) = y at *
  unfold SluiceRec.finished
  split
  · simp [stands]
  · rfl

theorem announceTransfer_flows (ramps : p.ramping k = true) (water : p.compare k = .above ∨ p.compare k = .below) :
    p.announceTransfer k = p.putSluice k
      ((p.sluices.get k).ramped (p.effectiveCap k) (p.mayStepUp k) (p.stepLimit k)) := by
  rw [← rampNext_eq]
  unfold Part.announceTransfer
  rw [if_pos ramps]
  rcases water with w | w <;> rw [w]

theorem toClosing_toClose {t : Transfer} {x : SluiceRec} (limit : Option Nat) (held : x.transfer = some t)
    (position : x.position ≠ 0) : x.toClosing.toClose limit = { x with
      transfer := some { t with phase := .closing }, rampTimer := none, due := false
      target := 0, state := .closing
      step := if x.step = none then some (.down, x.position - 1) else x.step
      stepTimer := if x.step = none then limit else x.stepTimer } := by
  cases step : x.step with
  | none => simp [SluiceRec.toClosing, SluiceRec.toClose, SluiceRec.stepped, held, position, step]
  | some y => simp [SluiceRec.toClosing, SluiceRec.toClose, held, position, step]

theorem beside_gates {x : Reach} (beside : x = k.above ∨ x = k.below) : k ∈ x.gates := by
  rcases beside with rfl | rfl <;> cases k <;> decide

theorem beside_open {x : Reach} (beside : x = k.above ∨ x = k.below) (position : 0 < (p.sluices.get k).position)
    (c : Chamber) (here : x.chamber = some c) : p.isolated c = false := by
  refine isolated_open (k := k) ?_ position
  rcases beside with rfl | rfl <;> cases k <;> cases here <;> decide

/-! ### The end at 0 (R35, R96) -/

/-- A sluice's record at 0 with its transfer ended. -/
def SluiceRec.bottomed (x : SluiceRec) : SluiceRec :=
  { x with position := 0, state := .closed, step := none, stepTimer := none, trim := 0, transfer := none
           rampTimer := none, due := false }

/-- The part with a transfer ended at 0 and its head draw counted. -/
structure Drawn (p : Part) (k : Sluice) (l : Lockage) (q : Part) : Prop where
  mode : q.mode = p.mode
  lockage : q.lockage = some (l.drawing k)
  outlets : q.outlets = p.outlets.drawing k
  sent : q.sent = p.sent
  gates : q.gates = p.gates
  settings : q.settings = p.settings
  clock : q.clock = p.clock
  own : q.sluices.get k = (p.sluices.get k).bottomed
  others : ∀ j, j ≠ k → q.sluices.get j = p.sluices.get j
  compare : ∀ g, q.compare g = p.compare g

/-- Confirmed at 0 in CLOSING the transfer is ended, then reported. -/
theorem finishTransfer_bottom {t : Transfer} (held : p.lockage = some l) (runs : (p.sluices.get k).transfer = some t)
    (phase : t.phase = .closing) (own : t.lockage = l.number) (waiting : (p.sluices.get k).waiting = none)
    (flight : (p.sluices.get k).step = some (.down, 0)) (state : (p.sluices.get k).state = .closing) :
    ∃ q, (p.putSluice k (p.positioned k 0)).finishTransfer k = q.transferReported k l.number ∧ Drawn p k l q := by
  rw [positioned_bottom runs phase flight state]
  generalize made : ({ p.sluices.get k with position := 0, step := none, stepTimer := none, state := .closed } :
    SluiceRec) = y
  have record : (p.putSluice k y).sluices.get k = y := putSluice_get p k y
  have carried : y.transfer = some t := by rw [← made]; exact runs
  have done : (p.putSluice k y).transferDone k = true := by
    rw [transferDone_eq, record]
    exact finished_bottom carried phase (by rw [← made]) (by rw [← made])
  have runs' : ((p.putSluice k y).sluices.get k).transfer = some t := by rw [record]; exact carried
  have alone : ((p.putSluice k y).sluices.get k).waiting = none := by rw [record, ← made]; exact waiting
  have ended := endTransfer_draws (p := p.putSluice k y) (l := l) held runs' own
  have finished := finishTransfer_ended (p.putSluice k y) k done runs' alone
  rw [own] at finished
  refine ⟨_, finished, ?_⟩
  rw [ended, record]
  exact {
    mode := rfl, lockage := rfl, outlets := rfl, sent := rfl, gates := rfl, settings := rfl, clock := rfl
    own := by
      rw [Four.get_set_self, ← made]
      rfl
    others := fun j other => by
      rw [Four.get_set, if_neg other, putSluice_sluices, Four.get_set, if_neg other]
    compare := fun g => (compare_of (p := p.putSluice k y) rfl rfl g).trans (putSluice_compare p k y g) }

theorem drawing_step {j : Sluice} {pj : Phase} (held : p.lockage = some (l.drawing k))
    (here : l.plan[l.current - 1]? = some ⟨.transfer j, pj⟩) : p.curStep = some ⟨.transfer j, pj⟩ :=
  (curStep_of held).trans here

/-- While HALTED the transfer's end is counted, and the sluices beside follow (R111). -/
theorem bottom_halted {n : Fin 16} {s : State}
    (change : n.val ≠ (s.part.sluices.get k).position) (halted : s.part.mode = .halted)
    (pending : ∀ g, (s.part.gates.get g).openPending = false) (drawn : Drawn s.part k l q)
    (finished : (s.part.putSluice k (s.part.positioned k n.val)).finishTransfer k = q.transferReported k l.number) :
    ∃ v, exec (.positionFeedbackChange k n) s = .next { s with part := v }
      ∧ v.mode = .halted ∧ v.sluices.get k = (s.part.sluices.get k).bottomed ∧ v.lockage = some (l.drawing k)
      ∧ v.outlets = s.part.outlets.drawing k ∧ v.sent = s.part.sent := by
  have mode : q.mode = .halted := drawn.mode.trans halted
  rw [transferReported_other _ _ _ (by rw [mode]; decide)] at finished
  obtain ⟨z, turn, follows, along⟩ := feedbackFollows_alongside (s.part.sluices.get k).position finished
    ⟨by rw [mode]; decide, by rw [mode]; decide⟩ (fun g => by rw [drawn.gates]; exact pending g)
    fun z a => reevaluateOpen_other _ (by rw [a.form]; exact (by rw [mode]; decide))
  refine ⟨{ z with turn := turn }, (feedback_run change).trans
    (congrArg (fun v => Host.Outcome.next { s with part := v }) follows), ?_, along.own.trans drawn.own, ?_, ?_, ?_⟩
  · exact (congrArg Part.mode along.form).trans mode
  · exact (congrArg Part.lockage along.form).trans drawn.lockage
  · exact (congrArg Part.outlets along.form).trans drawn.outlets
  · exact (congrArg Part.sent along.form).trans drawn.sent

/-- In WORKING it ends the step, here before another TRANSFER (R96). -/
theorem bottom_advances {n : Fin 16} {s : State} {j : Sluice} {pj : Phase}
    (change : n.val ≠ (s.part.sluices.get k).position) (working : s.part.mode = .working)
    (pending : ∀ g, (s.part.gates.get g).openPending = false) (drawn : Drawn s.part k l q)
    (finished : (s.part.putSluice k (s.part.positioned k n.val)).finishTransfer k = q.transferReported k l.number)
    (here : l.plan[l.current - 1]? = some ⟨.transfer k, ph⟩) (next : l.plan[l.current]? = some ⟨.transfer j, pj⟩)
    (other : j ≠ k) (free : (s.part.sluices.get j).transfer = none)
    (water : s.part.compare j = .above ∨ s.part.compare j = .below) :
    ∃ v, exec (.positionFeedbackChange k n) s = .next { s with part := v }
      ∧ v.mode = .working ∧ v.sluices.get k = (s.part.sluices.get k).bottomed ∧ v.outlets = s.part.outlets.drawing k
      ∧ v.lockage = some (({ l.drawing k with moveTimer := none, windowTimer := none } : Lockage).takeStep (l.current + 1)
          ⟨.transfer j, pj⟩)
      ∧ (v.sluices.get j).transfer = some ⟨.ramping, s.part.transferLimit j, l.number⟩
      ∧ v.sent.a = s.part.sent.a ++ [.event (.step l.number (l.current + 1) ⟨.transfer j, pj⟩ s.part.clock)] := by
  have mode : q.mode = .working := drawn.mode.trans working
  have cur : q.curStep = some ⟨.transfer k, ph⟩ := drawing_step drawn.lockage here
  rw [transferReported_advances (n := l.number) mode drawn.lockage rfl cur] at finished
  obtain ⟨mode', outlets, gates, others, lockage, sent, transfer⟩ := advance_lifts drawn.lockage cur next
    (by rw [drawn.others j other]; exact free) (by rw [drawn.compare]; exact water)
  generalize q.advance = w at *
  have step : w.curStep = some ⟨.transfer j, pj⟩ := (curStep_of lockage).trans next
  obtain ⟨z, turn, follows, along⟩ := feedbackFollows_alongside (s.part.sluices.get k).position finished
    (working_quiet (mode'.trans mode)) (fun g => by rw [gates, drawn.gates]; exact pending g)
    fun z a => reevaluateOpen_transfer (a.curStep.trans step)
  refine ⟨{ z with turn := turn }, (feedback_run change).trans
    (congrArg (fun v => Host.Outcome.next { s with part := v }) follows), ?_, ?_, ?_, ?_, ?_, ?_⟩
  · exact (congrArg Part.mode along.form).trans (mode'.trans mode)
  · exact along.own.trans ((others k (Ne.symm other)).trans drawn.own)
  · exact (congrArg Part.outlets along.form).trans (outlets.trans drawn.outlets)
  · exact (congrArg Part.lockage along.form).trans lockage
  · refine (along.transfers j).trans (transfer.trans ?_)
    rw [Part.transferLimit, drawn.settings]
    rfl
  · refine (congrArg (fun v : Part => v.sent.a) along.form).trans (sent.trans ?_)
    rw [drawn.sent, drawn.clock]
    rfl

/-! ### The clauses -/

theorem feedback_plain (k : Sluice) (n : Fin 16) (s : State) (stands : s.part.StandsBy)
    (idle : (s.part.sluices.get k).transfer = none) :
    let was := s.part.sluices.get k
     ∃ q, exec (.positionFeedbackChange k n) s = .next { s with part := q }
       ∧ (n.val = was.position → q = s.part)
       ∧ (n.val ≠ was.position → IsolationFollows s.part q)
       ∧ (n.val ≠ was.position → ∀ d m, was.step = some (d, m) → m ≠ n.val →
           q.sluices.get k = { was with position := n.val })
       ∧ (n.val ≠ was.position → (was.step = none ∧ was.state = .closing ∨ ∃ d, was.step = some (d, n.val)) →
           q.sluices.get k =
             if n.val = 0 then { was with
               position := 0, step := none, state := .closed
               stepTimer := if was.step = none then was.stepTimer else none }
             else { was with
               position := n.val, state := .closing, step := some (.down, n.val - 1)
               stepTimer := s.part.settings.works.map fun w => 1000 * w.stepLimit.get k })
       ∧ (n.val ≠ was.position → was.step = none → was.state ≠ .closing →
           q.sluices.get k =
             if was.state = .closed ∧ 0 < n.val then { was with position := n.val, state := .held }
             else if was.state = .held ∧ n.val = 0 then { was with position := 0, state := .closed }
             else { was with position := n.val }) := by
  intro was
  by_cases same : n.val = was.position
  · exact ⟨s.part, feedback_same same, fun _ => rfl, fun h => absurd same h, fun h => absurd same h,
      fun h => absurd same h, fun h => absurd same h⟩
  · obtain ⟨record, follows⟩ := feedback_aside (k := k) was.position stands (positioned_idle (n := n.val) idle)
    refine ⟨_, feedback_run same, fun h => absurd h same, fun _ => follows, fun _ d m step other => ?_,
      fun _ closing => ?_, fun _ step state => ?_⟩
    · exact record.trans (positioned_unconfirmed idle step other)
    · exact record.trans (positioned_closing idle closing)
    · exact record.trans (positioned_shifted idle step state)

/-- Settles O25: the record a feedback leaves, what stands beside it, the end of a transfer at 0, and the ramp's
part of an announcement. -/
theorem feedbackMovesTheSluice : Obligations.FeedbackMovesTheSluice := by
  refine ⟨feedback_plain, fun k n s t ph working step held phase flight change low pending => ?_,
    fun k x raw s t ph working step held phase position beside pending alone => ?_,
    fun k s l t held runs phase own waiting flight change target state pending => ?_⟩
  · have running : (s.part.putSluice k (s.part.positioned k n.val)).transferDone k = false :=
      putSluice_ramping (positioned_transfer held phase) phase
    have cur : (s.part.putSluice k (s.part.positioned k n.val)).curStep = some ⟨.transfer k, ph⟩ := step
    obtain ⟨z, turn, follows, along⟩ := feedbackFollows_alongside (s.part.sluices.get k).position
      (finishTransfer_running _ _ running) (working_quiet working) pending
      fun z a => reevaluateOpen_transfer (a.curStep.trans cur)
    have record : z.sluices.get k = s.part.positioned k n.val := along.own.trans (putSluice_get _ _ _)
    obtain ⟨fresh, due⟩ := positioned_ramping held phase flight low
    refine ⟨{ z with turn := turn }, (feedback_run change).trans (congrArg (fun v => Host.Outcome.next { s with part := v }) follows),
      fun h => record.trans (fresh h), fun h => record.trans (due h)⟩
  · obtain ⟨b, run⟩ := sampleArrival_part x raw s
    obtain ⟨v, u, sampled⟩ := sampled_plain s.part x
      ((s.part.reaches.get x).arrival (s.part.settings.reach.get x) raw.val) (s.part.reaches.get x).cls
      (beside_open beside position)
    have follows : exec (.sampleArrival x raw) s = .next { s with part := Part.announced { s.part with
        reaches := v, link := { s.part.link with conditions := { s.part.link.conditions with reaches := u } } } x b } := by
      rw [run, Part.sampleFollows, sampled]
      rfl
    have ramps : s.part.ramping k = true := ramps_of held phase
    generalize made : ({ s.part with reaches := v, link := { s.part.link with
      conditions := { s.part.link.conditions with reaches := u } } } : Part) = e at follows
    have sluices : e.sluices = s.part.sluices := by rw [← made]
    have near := beside_gates beside
    have pending' (g : Gate) : (e.gates.get g).openPending = false := by rw [← made]; exact pending g
    have alone' (j : Sluice) (other : j ≠ k) : e.ramping j = false := by rw [← made]; exact alone j other
    have working' : e.mode = .working := by rw [← made]; exact working
    have step' : e.curStep = some ⟨.transfer k, ph⟩ := by rw [← made]; exact step
    have ramps' : e.ramping k = true := by rw [← made]; exact ramps
    have sent : e.sent = s.part.sent := by rw [← made]
    have limit : e.stepLimit k = s.part.settings.works.map fun w => 1000 * w.stepLimit.get k := by rw [← made]; rfl
    refine ⟨_, follows, fun water => ?_, fun water => ?_, fun c water response drives => ?_⟩
    · rw [announced_compare] at water
      obtain ⟨calls, turn, written⟩ := announced_written b near pending' alone' working' step'
        (announceTransfer_level ramps' water (by rw [sluices]; exact position))
      rw [written]
      refine ⟨working', sent, ?_⟩
      rw [sluices, toClosing_toClose _ held (by omega), limit]
      exact putSluice_get _ _ _
    · rw [announced_compare] at water
      obtain ⟨calls, turn, written⟩ := announced_written b near pending' alone' working' step'
        (announceTransfer_flows ramps' water)
      rw [written]
      refine ⟨working', sent, ?_⟩
      change ((e.putSluice k _).sluices.get k).transfer = some t
      rw [putSluice_get, ramped_transfer, sluices]
      exact held
    · rw [announced_compare] at water
      have drives' : e.DrivesMatch := by rw [← made]; exact drives
      have response' : e.responseOf (sensorFault c) = .halt := by rw [← made]; exact response
      have halted := announced_halts b near pending' alone' working' ramps' water response' drives'
      obtain ⟨-, -, -, link, -⟩ := id halted
      have noted : (e.announced x b).link.conditions.reaches = u := by rw [link, ← made]
      rw [noted]
      rw [← made] at halted ⊢
      exact halted.before _ rfl rfl rfl rfl rfl rfl (.refl _)
  · obtain ⟨q, finished, drawn⟩ := finishTransfer_bottom held runs phase own waiting flight state
    refine ⟨fun halted => bottom_halted (n := 0) (Ne.symm change) halted pending drawn finished,
      fun j pj working here next other free water => ?_⟩
    obtain ⟨v, run, mode, record, outlets, lockage, transfer, sent⟩ := bottom_advances (n := 0) (Ne.symm change) working
      pending drawn finished here next other free water
    exact ⟨v, run, mode, record, outlets, lockage, transfer, sent⟩

end Sys2Proof.Machine
end

section
/-! PROOFS. What RESUME refuses, the survey it goes back to, and the part as its halted step becomes current again
(R123, R124, R126). -/

namespace Sys2Proof.Machine

variable {p q r : Part} {l : Lockage} {x : PlanStep} {g : Gate} {k : Sluice} {d : Direction} {ph : Phase} {s : State}
  {tag : Tag}

/-! ### Causes that persist (R123) -/

theorem brokenBeside_iff : p.brokenBeside g = true
    ↔ (p.reaches.get g.above).cls = .broken ∨ (p.reaches.get g.below).cls = .broken := by
  simp [Part.brokenBeside]

theorem needsBroken_iff : p.needsBroken = true ↔ ∃ g ph, (p.curStep = some ⟨.transfer g, ph⟩
    ∨ p.curStep = some ⟨.openGate g, ph⟩)
      ∧ ((p.reaches.get g.above).cls = .broken ∨ (p.reaches.get g.below).cls = .broken) := by
  simp only [← brokenBeside_iff]
  constructor
  · intro needs
    unfold Part.needsBroken at needs
    split at needs
    · next k ph step => exact ⟨k, ph, .inl step, needs⟩
    · next g ph step => exact ⟨g, ph, .inr step, needs⟩
    · cases needs
  · rintro ⟨g, ph, step | step, broken⟩ <;> (rw [Part.needsBroken, step]; exact broken)

theorem stillFaulted_iff : p.stillFaulted = true ↔ p.eStop = true
    ∨ (∃ g, (p.gates.get g).atClosed = true ∧ (p.gates.get g).atOpen = true)
    ∨ ∃ g ph, (p.curStep = some ⟨.transfer g, ph⟩ ∨ p.curStep = some ⟨.openGate g, ph⟩)
      ∧ ((p.reaches.get g.above).cls = .broken ∨ (p.reaches.get g.below).cls = .broken) := by
  have double : p.doubleLimit = true ↔ ∃ g, (p.gates.get g).atClosed = true ∧ (p.gates.get g).atOpen = true := by
    rw [Part.doubleLimit, Bool.not_eq_true', Bool.eq_false_iff, Ne, Four.all_iff]
    simp
  rw [Part.stillFaulted, Bool.or_eq_true, Bool.or_eq_true, double, needsBroken_iff, or_assoc]

/-- An accepted RESUME: the reply, then what the flight sends as it goes on. -/
theorem resume_run (halted : s.part.mode = .halted) (sound : ¬ s.part.stillFaulted = true)
    (resumed : s.part.hushed.resumeFlight = q) :
    exec (.resume tag) s = .next { s with part := s.part.replied tag (.resume q.mode) q } := by
  have taken : s.part.takeResume tag = s.part.acceptFirst tag Part.resumeFlight fun q => .resume q.mode :=
    (if_neg (Classical.not_not.mpr halted)).trans (if_neg sound)
  exact exec_eq rfl (taken.trans (acceptFirst_eq tag Part.resumeFlight (fun q => .resume q.mode) resumed))

/-! ### A survey halt (R126) -/

theorem resume_survey (halted : s.part.mode = .halted) (sound : ¬ s.part.stillFaulted = true)
    (none : s.part.lockage = none) (unordered : ∃ x, (s.part.reaches.get x).cls.ordered = false) :
    ∃ q, exec (.resume tag) s = .next { s with part := q }
      ∧ q.mode = .survey ∧ q.faults = { halt := .none, reported := [] }
      ∧ q.sent.a = s.part.sent.a ++ [.accepted tag (some s.part.link.conditions.any) (.resume .survey),
          .event (.mode .survey .none)]
      ∧ (∀ g, (s.part.gates.get g).state ≠ .closed → (s.part.gates.get g).state ≠ .open_ →
          (q.gates.get g).state = .closing ∧ (q.gates.get g).commander = .survey)
      ∧ ∀ k, 0 < (s.part.sluices.get k).position → (q.sluices.get k).state = .closing := by
  have negated : s.part.eStop = false := by
    rw [Bool.eq_false_iff]
    exact fun on => sound (stillFaulted_iff.2 (.inl on))
  have flight : s.part.hushed.resumeFlight = (s.part.hushed.leaveHalt .survey).beginSurvey.settle := by
    have none' : s.part.hushed.lockage = .none := none
    unfold Part.resumeFlight
    rw [none']
  have left : s.part.hushed.leaveHalt .survey = (s.part.hushed.unhalted.enterMode .survey).event (.mode .survey .none) := rfl
  have entered := enterMode_entered s.part.hushed.unhalted .survey
  rw [left] at flight
  generalize s.part.hushed.unhalted.enterMode .survey = y at *
  have begun := beginSurvey_begun (p := y.event (.mode .survey .none)) entered.framing.mode
    (entered.framing.eStop.trans negated)
    (unordered.imp fun x h => (congrArg ReadingClass.ordered (entered.classes x)).trans h)
  generalize (y.event (.mode .survey .none)).beginSurvey.settle = z at *
  refine ⟨_, resume_run halted sound flight, begun.mode, ?_, ?_, fun g notClosed notOpen => ?_, fun k above => ?_⟩
  · refine begun.faults.trans ?_
    have kept : (y.event (.mode .survey .none)).faults = { s.part.faults with halt := .none } := entered.framing.faults
    rw [kept]
  · have sent : z.sent.a = [.event (.mode .survey .none)] := by
      rw [begun.sent, event_sent_a, entered.framing.sent]
      rfl
    rw [replied_sent_a, sent, begun.mode]
  · refine begun.gates g ?_ ?_
    · rw [event_gates, entered.gates]; exact notClosed
    · rw [event_gates, entered.gates]; exact notOpen
  · refine begun.sluices k ?_
    rw [event_sluices, entered.positions]
    exact above

/-! ### What a change of mode writes in each sluice (R31) -/

theorem closeHeld_form (p : Part) (k : Sluice) : p.closeHeld k = { p with
    sluices := p.sluices.set k ((p.sluices.get k).modeChanged (p.stepLimit k)), reaches := (p.closeHeld k).reaches } := by
  unfold Part.closeHeld SluiceRec.modeChanged
  rw [ramping_eq]
  split
  · rw [closeSluice_eq]
    rfl
  · simp

theorem closeHelds_form (p : Part) : ∃ v,
    Gate.all.foldl Part.closeHeld p = { p with
      sluices := v, reaches := (Gate.all.foldl Part.closeHeld p).reaches }
    ∧ ∀ k, v.get k = (p.sluices.get k).modeChanged (p.stepLimit k) := by
  simp only [Gate.all, List.foldl_cons, List.foldl_nil]
  rw [closeHeld_form (((p.closeHeld .g0).closeHeld .g1).closeHeld .g2), closeHeld_form ((p.closeHeld .g0).closeHeld .g1),
    closeHeld_form (p.closeHeld .g0), closeHeld_form p]
  exact ⟨_, rfl, fun k => by cases k <;> rfl⟩

theorem modeChanged_position (x : SluiceRec) (limit : Option Nat) : (x.modeChanged limit).position = x.position := by
  unfold SluiceRec.modeChanged; split <;> simp

theorem modeChanged_transfer (x : SluiceRec) (limit : Option Nat) : (x.modeChanged limit).transfer = x.transfer := by
  unfold SluiceRec.modeChanged; split <;> simp

theorem toClose_step {x : SluiceRec} {y : StepDir × Nat} (flight : x.step = some y) (limit : Option Nat) :
    (x.toClose limit).step = some y := by
  unfold SluiceRec.toClose
  split
  · exact flight
  · rw [if_pos (by rw [flight]; rfl)]
    exact flight

theorem modeChanged_step {x : SluiceRec} {y : StepDir × Nat} (flight : x.step = some y) (limit : Option Nat) :
    (x.modeChanged limit).step = some y := by
  unfold SluiceRec.modeChanged
  split
  · exact toClose_step flight limit
  · exact flight

/-- A sluice at 0, or with a close in hand, stands. -/
theorem modeChanged_stands {x : SluiceRec} (still : x.position = 0 ∨ x.state = .closing) (limit : Option Nat) :
    x.modeChanged limit = x := by
  refine if_neg fun ⟨held, above, _⟩ => ?_
  rcases still with zero | closing
  · omega
  · rw [held] at closing; cases closing

/-! ### Faces and gates that stand while a step becomes current again -/

/-- Gates and what the faces await as they were. -/
structure SameSigns (p q : Part) : Prop where
  gates : q.gates = p.gates
  awaited : ∀ f, (faceOf q.faces f).awaited = (faceOf p.faces f).awaited

theorem SameSigns.trans (a : SameSigns p q) (b : SameSigns q r) : SameSigns p r :=
  ⟨b.gates.trans a.gates, fun f => (b.awaited f).trans (a.awaited f)⟩

theorem refreshFaces_signs (p : Part) : SameSigns p p.refreshFaces :=
  ⟨refreshFaces_gates p, fun f => by rw [refreshFaces_face]⟩

theorem setRequested_signs (p : Part) (f : Face) (a : Aspect) : SameSigns p (p.setRequested f a) :=
  ⟨rfl, fun e => by
    rw [Part.setRequested, faceOf_setFace]
    split
    · next same => rw [same]
    · rfl⟩

/-- No face asks PROCEED, or the step in hand is no entry move: a derivation of the faces marks nothing (R100). -/
def Part.Calm (p : Part) : Prop := (∀ f, (faceOf p.faces f).requested ≠ .proceed) ∨ p.NoEntryMove

theorem Part.Calm.lockage (h : p.Calm) : p.refreshFaces.lockage = p.lockage := by
  rcases h with asks | no
  · exact refreshFaces_lockage fun f shown => asks f (proceed_requested p shown).2
  · exact (refreshFaces_framing p).lockage_same no

/-! ### The halted step becomes current again (R124) -/

/-- The part as it leaves the halt for WORKING, works and signals aside. -/
def Part.resuming (p : Part) : Part := ({ p.unhalted with mode := .working } : Part).event (.mode .working none)

/-- The part as step i, x, of its lockage becomes current again, works and signals aside. -/
def Part.stepAgain (p : Part) (l : Lockage) (i : Nat) (x : PlanStep) : Part :=
  (p.resuming.stepping l i x).event (.step l.number i x p.clock)

theorem Framing.event (h : Framing p q) (e : Event) : Framing (p.event e) (q.event e) :=
  congrArg (fun z : Part => z.event e) h

theorem Framing.stepping (h : Framing p q) (l : Lockage) (i : Nat) (x : PlanStep) :
    Framing (p.stepping l i x) (q.stepping l i x) := by
  have e := congrArg (fun z : Part => ({ z with
    lockage := (some (l.takeStep i x)).map Lockage.unmarked, faults := { z.faults with reported := [] } } : Part)) h
  exact e

/-- READY on the entry face while the convoy has not entered (R124). -/
def Part.readied (p : Part) (l : Lockage) : Part :=
  if l.entryPassed then p else p.requestAspect l.direction.entryFace .ready

theorem readied_framing (p : Part) (l : Lockage) : Framing p (p.readied l) := by
  unfold Part.readied
  split
  · exact .refl p
  · exact requestAspect_framing p _ _

theorem readied_worked (p : Part) (l : Lockage) : Worked p (p.readied l) := by
  unfold Part.readied
  split
  · exact .refl p
  · exact requestAspect_worked _ _ _

theorem readied_signs (p : Part) (l : Lockage) : SameSigns p (p.readied l) := by
  unfold Part.readied
  split
  · exact ⟨rfl, fun _ => rfl⟩
  · exact (setRequested_signs p _ _).trans (refreshFaces_signs _)

theorem readied_requested (p : Part) (l : Lockage) (f : Face) : (faceOf (p.readied l).faces f).requested
    = if l.entryPassed = false ∧ f = l.direction.entryFace then .ready else (faceOf p.faces f).requested := by
  unfold Part.readied
  cases passed : l.entryPassed with
  | true => simp
  | false =>
    rw [if_neg Bool.false_ne_true, Part.requestAspect, refreshFaces_face]
    change (faceOf (setFace p.faces _ _) f).requested = _
    rw [faceOf_setFace]
    by_cases here : f = l.direction.entryFace
    · simp [here]
    · simp [here]

theorem readied_sluices (p : Part) (l : Lockage) : (p.readied l).sluices = p.sluices := by
  unfold Part.readied
  split
  · rfl
  · exact refreshFaces_sluices _

theorem readied_lockage (h : p.Calm) (l : Lockage) : (p.readied l).lockage = p.lockage := by
  unfold Part.readied
  split
  · rfl
  · have calm : (p.setRequested l.direction.entryFace .ready).Calm := by
      refine h.imp (fun asks f => ?_) id
      change (faceOf (setFace p.faces _ _) f).requested ≠ _
      rw [faceOf_setFace]
      split
      · exact nofun
      · exact asks f
    exact calm.lockage

/-- What stands as step i, x, becomes current again. -/
structure Restarted (p : Part) (l : Lockage) (i : Nat) (x : PlanStep) (m : Part) : Prop where
  framing : Framing (p.stepAgain l i x) m
  onward : Onward p m
  signs : SameSigns p m
  sluice : ∀ k, m.sluices.get k = (p.sluices.get k).modeChanged (p.stepLimit k)
  requested : ∀ f, (faceOf m.faces f).requested
    = if l.entryPassed = false ∧ f = l.direction.entryFace then .ready else (faceOf p.faces f).requested
  lockage : m.lockage = some (l.takeStep i x)

/-- The part resumed, before its step becomes current again. -/
structure Resumed (p : Part) (l : Lockage) (m : Part) : Prop where
  framing : Framing p.resuming m
  onward : Onward p m
  signs : SameSigns p m
  sluice : ∀ k, m.sluices.get k = (p.sluices.get k).modeChanged (p.stepLimit k)
  requested : ∀ f, (faceOf m.faces f).requested
    = if l.entryPassed = false ∧ f = l.direction.entryFace then .ready else (faceOf p.faces f).requested
  lockage : m.lockage = p.lockage

theorem leaveHalt_working (calm : p.Calm) : SameSigns p (p.leaveHalt .working)
    ∧ (∀ k, (p.leaveHalt .working).sluices.get k = (p.sluices.get k).modeChanged (p.stepLimit k))
    ∧ (∀ f, (faceOf (p.leaveHalt .working).faces f).requested = (faceOf p.faces f).requested)
    ∧ (p.leaveHalt .working).lockage = p.lockage := by
  have left : p.leaveHalt .working = (p.unhalted.enterMode .working).event (.mode .working none) := rfl
  obtain ⟨v, form, sluice⟩ := closeHelds_form { p.unhalted with mode := .working }
  have entered : p.unhalted.enterMode .working
      = (Gate.all.foldl Part.closeHeld { p.unhalted with mode := .working }).refreshFaces := rfl
  rw [left, entered, form]
  generalize (Gate.all.foldl Part.closeHeld { p.unhalted with mode := .working }).reaches = u
  refine ⟨⟨refreshFaces_gates _, fun f => ?_⟩, fun k => ?_, fun f => ?_, ?_⟩
  · rw [event_faces, refreshFaces_face]
    rfl
  · rw [event_sluices, refreshFaces_sluices]
    exact sluice k
  · rw [event_faces, refreshFaces_face]
    rfl
  · rw [event_lockage]
    exact Part.Calm.lockage (p := { p.unhalted with mode := .working, sluices := v, reaches := u }) calm

theorem resumed_readied (calm : p.Calm) (l : Lockage) : Resumed p l ((p.leaveHalt .working).readied l) := by
  have framing : Framing p.resuming (p.leaveHalt .working) := (enterMode_framing p.unhalted .working).event _
  have worked := leaveHalt_worked p .working
  obtain ⟨signs, sluice, requested, lockage⟩ := leaveHalt_working calm
  generalize p.leaveHalt .working = y at *
  have calm' : y.Calm := by
    refine calm.imp (fun asks f => ?_) fun no => ?_
    · rw [requested]
      exact asks f
    · unfold Part.NoEntryMove Part.curStep at no ⊢
      rw [lockage]
      exact no
  exact {
    framing := framing.trans (readied_framing y l)
    onward := (worked.trans (readied_worked y l)).onward
    signs := signs.trans (readied_signs y l)
    sluice := fun k => by rw [readied_sluices]; exact sluice k
    requested := fun f => by rw [readied_requested, requested]
    lockage := (readied_lockage calm' l).trans lockage }

theorem restarted_makeCurrent {i : Nat} (held : p.lockage = some l) (step : l.plan[i - 1]? = some x)
    (calm : (∀ f, (faceOf p.faces f).requested ≠ .proceed) ∨ x.phase ≠ .entry ∨ ∀ g d, x.work ≠ .move g d)
    {y : Part} (h : Resumed p l y) : Restarted p l i x (y.makeCurrent i) := by
  have held' := h.lockage.trans held
  have made := makeCurrent_eq held' step
  have onward := h.onward.trans (makeCurrent_onward y i)
  obtain ⟨framing, -, signs, sluice, requested, -⟩ := h
  have calm' : (y.stepping l i x).Calm := by
    refine calm.imp (fun asks f => ?_) fun plain => ?_
    · change (faceOf y.faces f).requested ≠ _
      rw [requested]
      split
      · exact nofun
      · exact asks f
    · exact noEntryMove_of ((curStep_of (l := l.takeStep i x) rfl).trans step) plain
  have clock : y.clock = p.clock := framing.clock
  have lockage : (y.makeCurrent i).lockage = some (l.takeStep i x) := by
    rw [made, event_lockage, calm'.lockage]
    rfl
  have framed : Framing (p.stepAgain l i x) (y.makeCurrent i) := by
    rw [made, clock]
    exact ((framing.stepping l i x).trans (refreshFaces_framing (y.stepping l i x))).event _
  rw [made] at framed onward lockage ⊢
  exact {
    framing := framed
    onward := onward
    signs := signs.trans ⟨refreshFaces_gates _, fun f => by rw [event_faces, refreshFaces_face]; rfl⟩
    sluice := fun k => by rw [event_sluices, refreshFaces_sluices]; exact sluice k
    requested := fun f => by rw [event_faces, refreshFaces_face]; exact requested f
    lockage := lockage }

end Sys2Proof.Machine
end

section
/-! PROOFS. RESUME's lockage: each halted step's restart (R124). -/

namespace Sys2Proof.Machine

variable {p q r m : Part} {l : Lockage} {x : PlanStep} {g : Gate} {k : Sluice} {d : Direction} {ph : Phase} {s : State}
  {tag : Tag}

/-! ### A transfer taken over or started anew (R32, R124) -/

/-- The lockage's own transfer, in CLOSING above 0, is taken over with a fresh timer. -/
theorem beginTransfer_takeover {n : Nat} {t : Transfer} (runs : (p.sluices.get k).transfer = some t)
    (own : t.lockage = n) (position : (p.sluices.get k).position ≠ 0) :
    p.beginTransfer k n = (p.putSluice k { p.sluices.get k with
      transfer := some { t with timer := p.transferLimit k } }, false) := by
  have started : p.startTransfer k n = p.putSluice k { p.sluices.get k with
      transfer := some { t with timer := p.transferLimit k } } := by
    unfold Part.startTransfer
    dsimp only
    rw [runs]
    exact if_pos own
  unfold Part.beginTransfer
  dsimp only
  rw [started]
  have unfinished : (p.putSluice k { p.sluices.get k with
      transfer := some { t with timer := p.transferLimit k } }).transferDone k = false := by
    rw [transferDone_eq, putSluice_get]
    simp [SluiceRec.finished, position]
  rw [unfinished, Bool.and_false]
  rfl

theorem ramped_trim (x : SluiceRec) (cap : Nat) (may : Bool) (limit : Option Nat) : (x.ramped cap may limit).trim = x.trim := by
  unfold SluiceRec.ramped; repeat' split
  all_goals rfl

theorem ramped_step {x : SluiceRec} {y : StepDir × Nat} (flight : x.step = some y) (cap : Nat) (may : Bool)
    (limit : Option Nat) : (x.ramped cap may limit).step = some y := by
  unfold SluiceRec.ramped
  rw [if_pos (by rw [flight]; rfl)]
  exact flight

theorem toClose_trim (x : SluiceRec) (limit : Option Nat) : (x.toClose limit).trim = x.trim := by
  unfold SluiceRec.toClose; split
  · rfl
  · split <;> rfl

/-- A transfer requested over water that is not level ramps. -/
theorem beginTransfer_flows {n : Nat} (free : (p.sluices.get k).transfer = none)
    (water : p.compare k = .above ∨ p.compare k = .below) :
    ∃ cap may, p.beginTransfer k n = (p.putSluice k
      (((p.sluices.get k).requested (p.transferLimit k) n).ramped cap may (p.stepLimit k)), false) := by
  have recorded : ∃ cap may, p.recordTransfer k n = p.putSluice k
      (((p.sluices.get k).requested (p.transferLimit k) n).ramped cap may (p.stepLimit k)) := by
    have ramps (y : SluiceRec) : (p.putSluice k y).rampNext k = p.putSluice k
        (y.ramped ((p.putSluice k y).effectiveCap k) ((p.putSluice k y).mayStepUp k) (p.stepLimit k)) := by
      rw [rampNext_eq, putSluice_get, putSluice_stepLimit]
      exact putSluice_putSluice p k _ _ (ramped_position _ _ _ _)
    refine ⟨_, _, Eq.trans ?_ (ramps _)⟩
    unfold Part.recordTransfer
    dsimp only
    rw [putSluice_compare]
    rcases water with w | w <;> rw [w] <;> rfl
  obtain ⟨cap, may, recorded⟩ := recorded
  refine ⟨cap, may, ?_⟩
  unfold Part.beginTransfer
  dsimp only
  rw [startTransfer_free free, recorded, putSluice_ramping (t := ⟨.ramping, p.transferLimit k, n⟩) _ rfl, Bool.and_false]
  · rfl
  · rw [ramped_transfer]
    rfl

/-- A transfer requested over level water closes its sluice. -/
theorem recordTransfer_level {n : Nat} (water : p.compare k = .level) : p.recordTransfer k n = p.putSluice k
    (((p.sluices.get k).requested (p.transferLimit k) n).toClosing.toClose (p.stepLimit k)) := by
  have closes : (p.putSluice k ((p.sluices.get k).requested (p.transferLimit k) n)).beginClosing k = p.putSluice k
      (((p.sluices.get k).requested (p.transferLimit k) n).toClosing.toClose (p.stepLimit k)) := by
    rw [beginClosing_eq, putSluice_get, putSluice_stepLimit]
    exact putSluice_putSluice p k _ _ (toClose_position _ _)
  rw [← closes]
  unfold Part.recordTransfer
  dsimp only
  rw [putSluice_compare, water]
  rfl

theorem requested_closing {x : SluiceRec} (limit stepLimit : Option Nat) (n : Nat) :
    ((x.requested limit n).toClosing.toClose stepLimit).transfer = some ⟨.closing, limit, n⟩
      ∧ ((x.requested limit n).toClosing.toClose stepLimit).position = x.position := by
  rw [toClose_transfer, toClose_position]
  exact ⟨rfl, rfl⟩

theorem beginTransfer_level {n : Nat} (free : (p.sluices.get k).transfer = none) (water : p.compare k = .level)
    (position : (p.sluices.get k).position ≠ 0) : p.beginTransfer k n = (p.putSluice k
      (((p.sluices.get k).requested (p.transferLimit k) n).toClosing.toClose (p.stepLimit k)), false) := by
  obtain ⟨transfer, stands⟩ := requested_closing (x := p.sluices.get k) (p.transferLimit k) (p.stepLimit k) n
  unfold Part.beginTransfer
  dsimp only
  rw [startTransfer_free free, recordTransfer_level water]
  generalize ((p.sluices.get k).requested (p.transferLimit k) n).toClosing.toClose (p.stepLimit k) = y at *
  have unfinished : (p.putSluice k y).transferDone k = false := by
    rw [transferDone_eq, putSluice_get]
    simp [SluiceRec.finished, transfer, stands, position]
  rw [unfinished, Bool.and_false]
  rfl

/-- Over level water at 0 with no step in flight it ends at once, as a draw (R35). -/
theorem beginTransfer_bottom {n : Nat} (held : p.lockage = some l) (number : l.number = n)
    (free : (p.sluices.get k).transfer = none) (water : p.compare k = .level)
    (position : (p.sluices.get k).position = 0) (still : (p.sluices.get k).step = none) :
    ∃ y e, p.beginTransfer k n = ({ p.putSluice k y with
      sluices := p.sluices.set k e, outlets := p.outlets.drawing k, lockage := some (l.drawing k) }, true) := by
  obtain ⟨transfer, stands⟩ := requested_closing (x := p.sluices.get k) (p.transferLimit k) (p.stepLimit k) n
  have flight : (((p.sluices.get k).requested (p.transferLimit k) n).toClosing.toClose (p.stepLimit k)).step = none := by
    unfold SluiceRec.toClose
    exact (congrArg SluiceRec.step (if_pos position)).trans still
  unfold Part.beginTransfer
  dsimp only
  rw [startTransfer_free free, recordTransfer_level water]
  generalize ((p.sluices.get k).requested (p.transferLimit k) n).toClosing.toClose (p.stepLimit k) = y at *
  have record := putSluice_get p k y
  have done : (p.putSluice k y).transferDone k = true := by
    rw [transferDone_eq, record]
    exact finished_bottom transfer rfl (stands.trans position) flight
  have owns : (p.putSluice k y).ownsTransfer k = true := by
    have held' : (p.putSluice k y).lockage = some l := held
    unfold Part.ownsTransfer
    rw [record, transfer, held']
    exact decide_eq_true number.symm
  rw [owns, done, endTransfer_draws (p := p.putSluice k y) (l := l) held (by rw [record]; exact transfer) number.symm]
  rw [putSluice_bump]
  exact ⟨y, _, rfl⟩

/-! ### The OPEN command from its tests (R97) -/

theorem openStep_opens (held : p.lockage = some l) (working : p.mode = .working)
    (step : p.curStep = some ⟨.openGate g, ph⟩) (free : ¬ (ph = .exit ∧ l.cls = .c ∧ l.exit ≠ .given))
    (deep : ¬ p.dry l ph) (notOpen : (p.gates.get g).state ≠ .open_) (notOpening : (p.gates.get g).state ≠ .opening)
    (water : p.compare g = .level) (closed : p.interlock g = true) :
    ∃ q, p.evaluateOpen l g ph = (q, false) ∧ Framing (p.holding (l.travelling ph)) q
      ∧ q.lockage = some (l.travelling ph)
      ∧ q.gates = p.gates.set g ((p.gates.get g).commanded (p.travelLimit g)) := by
  have waits : (p.holding { l with stage := .clearance }).OpenWaits { l with stage := .clearance } g ph :=
    ⟨rfl, working, (holding_step held rfl rfl).trans step, .inl rfl⟩
  obtain ⟨q, e, framing, lockage, gates⟩ := openStep_commands waits notOpen notOpening water closed
  refine ⟨q, ?_, framing, lockage, gates⟩
  rw [evaluateOpen_level free deep, levelTest_opens water notOpen closed, reachTravel_holding held, ← e]
  rfl

end Sys2Proof.Machine
end

section
/-! PROOFS. What RESUME does in WORKING, step by step (R106 to R109, R111, R124). -/

namespace Sys2Proof.Machine

variable {p q r m z : Part} {l : Lockage} {x : PlanStep} {g : Gate} {k : Sluice} {d : Direction} {ph : Phase} {s : State}
  {tag : Tag} {i : Nat}

/-! ### The lockage resumed -/

theorem resumeFlight_lockage (held : p.lockage = some l) :
    p.resumeFlight = ((p.leaveHalt .working).resumeLockage).settle := by
  unfold Part.resumeFlight
  rw [held]

theorem resumeLockage_refused (held : p.lockage = some l) (step : p.curStep = some x) (refused : l.entry = .refused)
    (outside : l.entryPassed = false) : p.resumeLockage = p.withdraw := by
  unfold Part.resumeLockage
  rw [held, step]
  exact if_pos ⟨refused, outside⟩

theorem resumeLockage_restarts (held : p.lockage = some l) (step : p.curStep = some x)
    (entered : l.entry = .refused → l.entryPassed = true) : p.resumeLockage = (p.readied l).restartStep l x := by
  have stays : ¬ (l.entry = .refused ∧ l.entryPassed = false) := fun ⟨refused, outside⟩ => by
    rw [entered refused] at outside
    cases outside
  unfold Part.resumeLockage
  rw [held, step]
  exact if_neg stays

/-! ### The step by its kind -/

theorem restartStep_plain (h : (∃ g, x.work = .close g) ∨ (∃ k, x.work = .transfer k) ∨ x.work = .commit) :
    p.restartStep l x = (p.makeCurrent l.current).work := by
  unfold Part.restartStep
  rcases h with ⟨g, h⟩ | ⟨k, h⟩ | h <;> rw [h]

theorem restartStep_open (work : x.work = .openGate g) (other : l.stage ≠ .levelling) :
    p.restartStep l x = (p.makeCurrent l.current).work := by
  unfold Part.restartStep
  rw [work]
  exact if_neg other

theorem restartStep_relevel (work : x.work = .openGate g) (levelling : l.stage = .levelling) :
    p.restartStep l x = (p.makeCurrent l.current).restartRelevel g l.number := by
  unfold Part.restartStep
  rw [work]
  exact if_pos levelling

theorem restartStep_moved (work : x.work = .move g d) (done : l.moveDone = true) :
    p.restartStep l x = (p.makeCurrent l.current).endMove g d := by
  unfold Part.restartStep
  rw [work]
  exact if_pos done

theorem restartStep_shut (work : x.work = .move g d) (moving : l.moveDone = false) (shut : (p.gates.get g).state ≠ .open_) :
    p.restartStep l x = (p.makeCurrent (l.current - 1)).work := by
  unfold Part.restartStep
  rw [work]
  dsimp only
  rw [if_neg (by rw [moving]; exact Bool.false_ne_true), if_pos shut]

theorem restartStep_move (work : x.work = .move g d) (moving : l.moveDone = false) (isOpen : (p.gates.get g).state = .open_) :
    p.restartStep l x = (p.makeCurrent l.current).work := by
  unfold Part.restartStep
  rw [work]
  dsimp only
  rw [if_neg (by rw [moving]; exact Bool.false_ne_true), if_neg (Classical.not_not.mpr isOpen)]

/-! ### Depth by readings and settings (R14) -/

theorem proven_of (settings : q.settings = p.settings)
    (readings : ∀ x, (q.reaches.get x).reading = (p.reaches.get x).reading) (vs : List Vessel) :
    q.headProven vs = p.headProven vs ∧ q.tailProven vs = p.tailProven vs := by
  have level (x : Reach) : q.level x = p.level x := level_of_reading x (readings x) settings
  have cls (x : Reach) : (q.reaches.get x).cls = (p.reaches.get x).cls := (congrArg ReachRec.cls (readings x) :)
  simp only [Part.headProven, Part.tailProven, Part.depthProven, level, cls, settings, and_self]

theorem passable_of (settings : q.settings = p.settings)
    (readings : ∀ x, (q.reaches.get x).reading = (p.reaches.get x).reading) (vs : List Vessel) :
    q.passable vs = p.passable vs := by
  obtain ⟨head, tail⟩ := proven_of settings readings vs
  rw [Part.passable, head, tail]
  rfl

/-! ### The work of the step as it has become current again -/

theorem work_ends (h : p.beginStep = (q, true)) : p.work = q.advance := by
  rw [Part.work, h]
  rfl

theorem work_stays (h : p.beginStep = (q, false)) : p.work = q := by
  rw [Part.work, h]
  rfl

section
variable (h : Restarted p l i x m) (place : l.plan[i - 1]? = some x)
include h

theorem Restarted.mode : m.mode = .working := h.framing.mode

theorem Restarted.faults : m.faults = { halt := none, reported := [] } := h.framing.faults

theorem Restarted.sent : m.sent.a = p.sent.a ++ [.event (.mode .working none), .event (.step l.number i x p.clock)] :=
  (congrArg (fun v : Three (List Msg) => v.a) h.framing.sent).trans (List.append_assoc _ _ _)

theorem Restarted.settings : m.settings = p.settings := h.framing.settings

theorem Restarted.compare (g : Gate) : m.compare g = p.compare g := h.onward.compare g

theorem Restarted.interlock (g : Gate) : m.interlock g = p.interlock g := h.onward.interlock g

theorem Restarted.reading (x : Reach) : (m.reaches.get x).reading = (p.reaches.get x).reading :=
  (h.onward.framed .turnEvaluate).reading x rfl

theorem Restarted.proven (vs : List Vessel) : m.headProven vs = p.headProven vs ∧ m.tailProven vs = p.tailProven vs :=
  proven_of h.settings h.reading vs

theorem Restarted.passable (vs : List Vessel) : m.passable vs = p.passable vs := passable_of h.settings h.reading vs

theorem Restarted.hasFailedLamp (f : Face) : m.hasFailedLamp f = p.hasFailedLamp f := by
  have failed (k : Colour) : (lampOf m.lamps f k).failed = (lampOf p.lamps f k).failed :=
    (congrArg LampRec.failed (((h.onward.framed .turnEvaluate).lamps rfl).2 f k) :)
  simp only [Part.hasFailedLamp, failed]

include place

theorem Restarted.curStep : m.curStep = some x := (curStep_of h.lockage).trans place

end

/-! ### RESUME of a lockage -/

/-- The reply, the MODE event and the step's own STEP event, with the flight working on. -/
def Part.GoesOn (p : Part) (tag : Tag) (l : Lockage) (x : PlanStep) (q : Part) : Prop :=
  q.mode = .working ∧ q.faults = { halt := none, reported := [] }
    ∧ q.sent.a = p.sent.a ++ [.accepted tag (some p.link.conditions.any) (.resume .working),
        .event (.mode .working none), .event (.step l.number l.current x p.clock)]

/-- The part resumed with its entry face READY, before its step becomes current again. -/
def Part.resumedAt (p : Part) (l : Lockage) : Part := (p.hushed.leaveHalt .working).readied l

section
variable (halted : s.part.mode = .halted) (sound : ¬ s.part.stillFaulted = true) (held : s.part.lockage = some l)
  (step : s.part.curStep = some x) (calm : s.part.Calm) (entered : l.entry = .refused → l.entryPassed = true)
include halted sound held step calm entered

theorem resume_restarts (restarts : (s.part.resumedAt l).restartStep l x = z) :
    exec (.resume tag) s = .next { s with part := s.part.replied tag (.resume z.settle.mode) z.settle } := by
  have left := (leaveHalt_working (p := s.part.hushed) calm).2.2.2
  have held' : (s.part.hushed.leaveHalt .working).lockage = some l := left.trans held
  have step' : (s.part.hushed.leaveHalt .working).curStep = some x := by
    rw [curStep_of held', ← curStep_of held]
    exact step
  refine resume_run halted sound ?_
  rw [resumeFlight_lockage (p := s.part.hushed) held, resumeLockage_restarts held' step' entered, ← restarts]
  rfl

/-- A step that goes on without anything sent. -/
theorem resume_goesOn (restarts : (s.part.resumedAt l).restartStep l x = z) (again : Restarted s.part.hushed l l.current x m)
    (mode : z.mode = m.mode) (faults : z.faults = m.faults) (sent : z.sent = m.sent) :
    ∃ q, exec (.resume tag) s = .next { s with part := q } ∧ s.part.GoesOn tag l x q
      ∧ q.lockage = z.lockage ∧ q.gates = z.gates ∧ q.sluices = z.sluices ∧ q.faces = z.faces := by
  have run := resume_restarts (tag := tag) halted sound held step calm entered restarts
  have working := mode.trans again.mode
  obtain ⟨t, settled, -⟩ := quiet_settled (working_quiet working) false false
  rw [settled] at run
  refine ⟨_, run, ⟨working, faults.trans again.faults, ?_⟩, rfl, rfl, rfl, rfl⟩
  rw [replied_sent_a]
  have told : z.sent.a = [.event (.mode .working none), .event (.step l.number l.current x s.part.clock)] :=
    (congrArg (fun v : Three (List Msg) => v.a) sent).trans again.sent
  have reply : ({ z with turn := t } : Part).mode = .working := working
  rw [reply]
  exact congrArg (fun v => s.part.sent.a ++ Msg.accepted tag (some s.part.link.conditions.any) (.resume .working) :: v) told

/-- A step that sends more as it goes on. -/
theorem resume_sends {ms : List Msg} (sends : ms <+: ((s.part.resumedAt l).restartStep l x).sent.a) :
    ∃ q, exec (.resume tag) s = .next { s with part := q }
      ∧ s.part.sent.a ++ .accepted tag (some s.part.link.conditions.any) (.resume q.mode) :: ms <+: q.sent.a := by
  refine ⟨_, resume_restarts (tag := tag) halted sound held step calm entered rfl, ?_⟩
  obtain ⟨more, e⟩ := sends_settle sends false false
  exact ⟨more, by rw [replied_sent_a, ← e]; simp [Part.replied]⟩

end

theorem resumedAt_restarted {y : PlanStep} (held : s.part.lockage = some l) (place : l.plan[i - 1]? = some y)
    (calm : (∀ f, (faceOf s.part.faces f).requested ≠ .proceed) ∨ s.part.NoEntryMove
      ∧ (y.phase ≠ .entry ∨ ∀ g d, y.work ≠ .move g d)) :
    Restarted s.part.hushed l i y ((s.part.resumedAt l).makeCurrent i) :=
  restarted_makeCurrent (p := s.part.hushed) held place (calm.imp id And.right)
    (resumed_readied (p := s.part.hushed) (calm.imp id And.left) l)

end Sys2Proof.Machine
end

section
/-! PROOFS. RESUME settled: each step's clause of R124's table. -/

namespace Sys2Proof.Machine

variable {p q r m z : Part} {l : Lockage} {x : PlanStep} {g : Gate} {k : Sluice} {d : Direction} {ph : Phase} {s : State}
  {tag : Tag} {i : Nat}

/-- The record of a step that has become current again. -/
def Lockage.again (l : Lockage) : Lockage := { l with tideReported := false, moveDone := false }

theorem takeStep_transfer : l.takeStep l.current ⟨.transfer k, ph⟩ = { l.again with
    stage := .running
    commitment := if ph = .carrying ∧ l.cls = .c then some .passed else l.commitment } := by
  simp [Lockage.takeStep, Lockage.firstStage, Lockage.commits, Lockage.again]

theorem takeStep_open : l.takeStep l.current ⟨.openGate g, ph⟩ = { l.again with stage := .clearance } := rfl

theorem takeStep_commit : l.takeStep l.current ⟨.commit, ph⟩ = { l.again with stage := .waiting } := rfl

theorem takeStep_move : l.takeStep l.current ⟨.move g d, ph⟩ = { l.again with
    stage := if ph = .entry ∧ l.entry = .awaited then .awaiting else .underWay } := rfl

/-! ### A CLOSE step -/

theorem closeGate_requested (p : Part) (g : Gate) (c : Commander) (f : Face) :
    (faceOf (p.closeGate g c).faces f).requested = (faceOf p.faces f).requested := by
  have put (y : GateRec) : (faceOf (p.putGate g y).faces f).requested = (faceOf p.faces f).requested := by
    rw [Part.putGate, refreshFaces_face]
    rfl
  unfold Part.closeGate
  dsimp only
  split
  · rfl
  · exact put _
  · exact put _

theorem resume_close (halted : s.part.mode = .halted) (sound : ¬ s.part.stillFaulted = true) (held : s.part.lockage = some l)
    (place : l.plan[l.current - 1]? = some ⟨.close g, ph⟩) (notClosed : (s.part.gates.get g).state ≠ .closed)
    (entered : l.entry = .refused → l.entryPassed = true) :
    ∃ q, exec (.resume tag) s = .next { s with part := q } ∧ s.part.GoesOn tag l ⟨.close g, ph⟩ q
      ∧ q.lockage = some { l with stage := .travel, tideReported := false, moveDone := false }
      ∧ (q.gates.get g).state = .closing ∧ (q.gates.get g).commander = .sequencer
      ∧ (l.entryPassed = false → (faceOf q.faces l.direction.entryFace).requested = .ready) := by
  have step : s.part.curStep = some ⟨.close g, ph⟩ := (curStep_of held).trans place
  have quiet : s.part.NoEntryMove := noEntryMove_of step (.inr nofun)
  have again := resumedAt_restarted held place (.inr ⟨quiet, .inr nofun⟩)
  have restarts := restartStep_plain (p := s.part.resumedAt l) (l := l) (x := ⟨.close g, ph⟩) (.inl ⟨g, rfl⟩)
  generalize (s.part.resumedAt l).makeCurrent l.current = m at *
  have shut : (m.gates.get g).state ≠ .closed := by rw [again.signs.gates]; exact notClosed
  have works : m.work = m.closeGate g .sequencer := work_stays (by
    rw [beginStep_close again.lockage (again.curStep place), decide_eq_false shut])
  have framing := closeGate_framing m g .sequencer
  obtain ⟨q, run, goes, lockage, gates, -, faces⟩ := resume_goesOn (tag := tag) halted sound held step (.inr quiet) entered
    (restarts.trans works) again framing.mode framing.faults framing.sent
  obtain ⟨moves, commander⟩ := closeCommanded_moves shut (m.travelLimit g) .sequencer
  have gate : q.gates.get g = (m.gates.get g).closeCommanded (m.travelLimit g) .sequencer := by
    rw [gates, closeGate_gates, Four.get_set_self]
  refine ⟨q, run, goes, ?_, by rw [gate]; exact moves, by rw [gate]; exact commander, fun outside => ?_⟩
  · rw [lockage, framing.lockage_same (noEntryMove_of (again.curStep place) (.inr nofun)), again.lockage]
    rfl
  · rw [faces, closeGate_requested, again.requested]
    exact if_pos ⟨outside, rfl⟩

/-! ### What a transfer's start leaves of the sluice -/

/-- The sluice of a step that has become current again holds its transfer, position and step in flight. -/
theorem again_sluice (again : Restarted s.part.hushed l l.current x m) (k : Sluice) :
    (m.sluices.get k).transfer = (s.part.sluices.get k).transfer
      ∧ (m.sluices.get k).position = (s.part.sluices.get k).position
      ∧ ∀ y, (s.part.sluices.get k).step = some y → (m.sluices.get k).step = some y := by
  rw [again.sluice]
  exact ⟨modeChanged_transfer _ _, modeChanged_position _ _, fun y flight => modeChanged_step flight _⟩

/-- A re-level that goes on stands in LEVELLING. -/
theorem restartRelevel_stays {l' : Lockage} {n : Nat} (held' : m.lockage = some l')
    (begun : (m.holding { l' with stage := .levelling }).beginTransfer g n = (z, false)) : m.restartRelevel g n = z := by
  unfold Part.restartRelevel
  dsimp only
  rw [setStage_holding held', begun]
  rfl

section
variable (halted : s.part.mode = .halted) (sound : ¬ s.part.stillFaulted = true) (held : s.part.lockage = some l)
  (place : l.plan[l.current - 1]? = some x) (stopped : ∀ f, (faceOf s.part.faces f).requested ≠ .proceed)
  (entered : l.entry = .refused → l.entryPassed = true)
include halted sound held place stopped entered

/-! ### A TRANSFER step -/

theorem resume_transfer {P : SluiceRec → Prop} (work : x = ⟨.transfer k, ph⟩)
    (begins : ∀ m, Restarted s.part.hushed l l.current x m →
      ∃ y, m.beginTransfer k l.number = (m.putSluice k y, false) ∧ P y) :
    ∃ q, exec (.resume tag) s = .next { s with part := q } ∧ s.part.GoesOn tag l x q
      ∧ P (q.sluices.get k) ∧ q.lockage = some (l.takeStep l.current x) := by
  have again := resumedAt_restarted held place (.inl stopped)
  have restarts := restartStep_plain (p := s.part.resumedAt l) (l := l) (x := x) (.inr (.inl ⟨k, by rw [work]⟩))
  generalize (s.part.resumedAt l).makeCurrent l.current = m at *
  obtain ⟨y, begun, written⟩ := begins m again
  have works : m.work = m.putSluice k y := work_stays (by
    rw [beginStep_transfer again.lockage ((again.curStep place).trans (congrArg some work))]
    exact begun)
  obtain ⟨q, run, goes, lockage, -, sluices, -⟩ := resume_goesOn (tag := tag) halted sound held
    ((curStep_of held).trans place) (.inl stopped) entered (restarts.trans works) again rfl rfl rfl
  refine ⟨q, run, goes, by rw [sluices, putSluice_get]; exact written, lockage.trans again.lockage⟩

/-! ### An OPEN step halted in LEVELLING -/

theorem resume_relevel {P : SluiceRec → Prop} (work : x = ⟨.openGate g, ph⟩) (levelling : l.stage = .levelling)
    (begins : ∀ m, Restarted s.part.hushed l l.current x m → ∀ l',
      ∃ y, (m.holding l').beginTransfer g l.number = ((m.holding l').putSluice g y, false) ∧ P y) :
    ∃ q, exec (.resume tag) s = .next { s with part := q } ∧ s.part.GoesOn tag l x q
      ∧ q.lockage = some { l.again with stage := .levelling } ∧ P (q.sluices.get g) := by
  have again := resumedAt_restarted held place (.inl stopped)
  have restarts := restartStep_relevel (p := s.part.resumedAt l) (l := l) (x := x) (g := g) (by rw [work]) levelling
  generalize (s.part.resumedAt l).makeCurrent l.current = m at *
  obtain ⟨y, begun, written⟩ := begins m again { l.takeStep l.current x with stage := .levelling }
  have relevels := restartRelevel_stays (g := g) again.lockage begun
  obtain ⟨q, run, goes, lockage, -, sluices, -⟩ := resume_goesOn (tag := tag) halted sound held
    ((curStep_of held).trans place) (.inl stopped) entered (restarts.trans relevels) again rfl rfl rfl
  refine ⟨q, run, goes, lockage.trans ?_, by rw [sluices, putSluice_get]; exact written⟩
  rw [putSluice_lockage, work]
  rfl

end

end Sys2Proof.Machine
end

section
/-! PROOFS. RESUME settled: transfers, OPEN steps, moves and COMMIT (R97, R98, R106 to R109, R111, R124). -/

namespace Sys2Proof.Machine

variable {p q r m z : Part} {l : Lockage} {x : PlanStep} {g : Gate} {k : Sluice} {d : Direction} {ph : Phase} {s : State}
  {tag : Tag} {i : Nat}

/-! ### The sluice of a transfer taken over or started (R32, R124) -/

/-- A sluice whose transfer has been requested of it afresh. -/
def SluiceRec.Requested (was : SluiceRec) (t : Transfer) (y : SluiceRec) : Prop :=
  y.trim = 0 ∧ y.transfer = some t ∧ ∀ z, was.step = some z → y.step = some z

theorem requested_flows (was x : SluiceRec) (flight : ∀ z, was.step = some z → x.step = some z) (limit stepLimit : Option Nat)
    (n cap : Nat) (may : Bool) : was.Requested ⟨.ramping, limit, n⟩ ((x.requested limit n).ramped cap may stepLimit) :=
  ⟨ramped_trim _ _ _ _, ramped_transfer _ _ _ _, fun z h => ramped_step (x := x.requested limit n) (flight z h) _ _ _⟩

section
variable (again : Restarted s.part.hushed l l.current x m)
include again

theorem again_transferLimit (k : Sluice) : m.transferLimit k = s.part.settings.works.map fun w => 1000 * w.transferLimit.get k := by
  rw [Part.transferLimit, again.settings]
  rfl

/-- The lockage's own transfer in CLOSING above 0 is taken over. -/
theorem again_takeover (l' : Lockage) {t : Transfer} (runs : (s.part.sluices.get k).transfer = some t)
    (own : t.lockage = l.number) (position : 0 < (s.part.sluices.get k).position) :
    (m.holding l').beginTransfer k l.number = ((m.holding l').putSluice k { m.sluices.get k with
      transfer := some { t with timer := s.part.settings.works.map fun w => 1000 * w.transferLimit.get k } }, false) := by
  obtain ⟨transfer, stands, -⟩ := again_sluice again k
  rw [beginTransfer_takeover (p := m.holding l') (transfer.trans runs) own (by
    change (m.sluices.get k).position ≠ 0
    omega), ← again_transferLimit again]
  rfl

/-- A transfer starts anew over water that is not level. -/
theorem again_flows (l' : Lockage) (free : (s.part.sluices.get k).transfer = none)
    (water : s.part.compare k = .above ∨ s.part.compare k = .below) :
    ∃ y, (m.holding l').beginTransfer k l.number = ((m.holding l').putSluice k y, false)
      ∧ (s.part.sluices.get k).Requested
          ⟨.ramping, s.part.settings.works.map fun w => 1000 * w.transferLimit.get k, l.number⟩ y := by
  obtain ⟨transfer, -, flight⟩ := again_sluice again k
  have flows : (m.holding l').compare k = .above ∨ (m.holding l').compare k = .below := by
    have same : (m.holding l').compare k = s.part.compare k := again.compare k
    rw [same]
    exact water
  obtain ⟨cap, may, begun⟩ := beginTransfer_flows (p := m.holding l') (n := l.number) (transfer.trans free) flows
  refine ⟨_, begun, ?_⟩
  rw [← again_transferLimit again]
  exact requested_flows _ _ flight _ _ _ _ _

/-- Over level water above 0 it closes its sluice. -/
theorem again_level (l' : Lockage) (free : (s.part.sluices.get k).transfer = none) (water : s.part.compare k = .level)
    (position : 0 < (s.part.sluices.get k).position) :
    ∃ y, (m.holding l').beginTransfer k l.number = ((m.holding l').putSluice k y, false)
      ∧ y.trim = 0 ∧ y.state = .closing ∧ y.transfer = some
          ⟨.closing, s.part.settings.works.map fun w => 1000 * w.transferLimit.get k, l.number⟩ := by
  obtain ⟨transfer, stands, -⟩ := again_sluice again k
  have same : (m.holding l').compare k = s.part.compare k := again.compare k
  have above : 0 < ((m.holding l').sluices.get k).position := by
    change 0 < (m.sluices.get k).position
    omega
  refine ⟨_, beginTransfer_level (p := m.holding l') (transfer.trans free) (same.trans water) (by omega), ?_, ?_, ?_⟩
  · rw [toClose_trim]
    rfl
  · exact toClose_closing (x := (((m.holding l').sluices.get k).requested ((m.holding l').transferLimit k) l.number).toClosing) above _
  · rw [(requested_closing _ _ _).1, ← again_transferLimit again]
    rfl

end

/-! ### An OPEN step that takes its tests -/

theorem transferReported_relevels {n : Nat} (working : p.mode = .working) (held : p.lockage = some l) (number : l.number = n)
    (step : p.curStep = some ⟨.openGate g, ph⟩) (levelling : l.stage = .levelling) :
    p.transferReported g n = Part.carryOn (p.evaluateOpen l g ph) := by
  unfold Part.transferReported
  rw [held, step]
  dsimp only
  rw [if_pos ⟨working, number⟩, if_pos ⟨rfl, levelling⟩]

/-- A re-level that ends at once leaves the step to its tests. -/
theorem restartRelevel_ends {l' : Lockage} (held : m.lockage = some l') (working : m.mode = .working)
    (step : m.curStep = some ⟨.openGate g, ph⟩) (free : (m.sluices.get g).transfer = none) (water : m.compare g = .level)
    (position : (m.sluices.get g).position = 0) (still : (m.sluices.get g).step = none) :
    ∃ w : Part, m.restartRelevel g l'.number
        = Part.carryOn (w.evaluateOpen (({ l' with stage := .levelling } : Lockage).drawing g) g ph)
      ∧ w.lockage = some (({ l' with stage := .levelling } : Lockage).drawing g) ∧ w.mode = .working ∧ w.faults = m.faults
      ∧ w.sent = m.sent ∧ w.gates = m.gates ∧ w.settings = m.settings ∧ w.curStep = some ⟨.openGate g, ph⟩
      ∧ w.compare g = m.compare g ∧ w.interlock g = m.interlock g ∧ ∀ vs, w.passable vs = m.passable vs := by
  obtain ⟨y, e, begun⟩ := beginTransfer_bottom (p := m.holding { l' with stage := .levelling })
    (l := { l' with stage := .levelling }) (n := l'.number) rfl rfl free water position still
  refine ⟨{ (m.holding { l' with stage := .levelling }).putSluice g y with
      sluices := m.sluices.set g e, outlets := m.outlets.drawing g, lockage := some (({ l' with stage := .levelling } : Lockage).drawing g) },
    ?_, rfl, working, rfl, rfl, rfl, rfl, ?_, ?_, ?_, fun vs => ?_⟩
  rotate_left
  · refine Eq.trans ?_ step
    rw [curStep_of held]
    rfl
  · exact (compare_of (p := m.putSluice g y) rfl rfl g).trans (putSluice_compare m g y g)
  · cases g <;> rfl
  · exact (passable_of (p := m) (q := (m.holding { l' with stage := .levelling }).putSluice g y) rfl
      (fun x => examineIsolation_reading _ x) vs :)
  · unfold Part.restartRelevel
    dsimp only
    rw [setStage_holding held, begun, if_pos rfl]
    refine transferReported_relevels working rfl rfl ?_ rfl
    refine Eq.trans ?_ step
    rw [curStep_of held]
    rfl

section
variable (halted : s.part.mode = .halted) (sound : ¬ s.part.stillFaulted = true) (held : s.part.lockage = some l)
  (place : l.plan[l.current - 1]? = some x) (stopped : ∀ f, (faceOf s.part.faces f).requested ≠ .proceed)
  (entered : l.entry = .refused → l.entryPassed = true)
include halted sound held place stopped entered

/-- The gate of an OPEN step commanded, after a re-level that ended at once or without one. -/
theorem resume_opens (work : x = ⟨.openGate g, ph⟩) (idle : (s.part.sluices.get g).transfer = none)
    (bottom : l.stage = .levelling → (s.part.sluices.get g).position = 0 ∧ (s.part.sluices.get g).step = none)
    (free : ph = .exit → l.cls = .c → l.exit = .given)
    (deep : ph = .entry ∨ ph = .exit ∨ ph = .returning → s.part.passable l.convoy = true)
    (water : s.part.compare g = .level) (closed : s.part.interlock g = true)
    (stands : (s.part.gates.get g).state = .stopped ∨ (s.part.gates.get g).state = .closed) :
    ∃ q, exec (.resume tag) s = .next { s with part := q } ∧ s.part.GoesOn tag l x q
      ∧ q.lockage = some { l.again with
          stage := .travel, exitCommanded := l.exitCommanded || decide (ph = .exit)
          headDraws := if l.stage = .levelling ∧ g = .g0 then min 255 (l.headDraws + 1) else l.headDraws }
      ∧ q.gates.get g = { s.part.gates.get g with
          state := .opening, drive := .openDrive, openPending := true, commander := .sequencer
          travelTimer := s.part.settings.works.map fun w => 1000 * w.travelLimit.get g } := by
  have again := resumedAt_restarted held place (.inl stopped)
  have cur := again.curStep place
  have notOpen : (s.part.gates.get g).state ≠ .open_ := by rcases stands with h | h <;> rw [h] <;> decide
  have notOpening : (s.part.gates.get g).state ≠ .opening := by rcases stands with h | h <;> rw [h] <;> decide
  have free' (e : ClearanceClass) (c : e = l.cls) : ¬ (ph = .exit ∧ e = .c ∧ l.exit ≠ .given) :=
    fun ⟨exit, cls, no⟩ => no (free exit (c.symm.trans cls))
  have opens (w : Part) (l' : Lockage) (lockage : w.lockage = some l') (mode : w.mode = .working)
      (step : w.curStep = some ⟨.openGate g, ph⟩) (cls : l'.cls = l.cls) (exit : l'.exit = l.exit)
      (convoy : l'.convoy = l.convoy) (passable : w.passable l.convoy = s.part.passable l.convoy)
      (gates : w.gates = s.part.gates) (compare : w.compare g = s.part.compare g)
      (interlock : w.interlock g = s.part.interlock g) :
      ∃ q, w.evaluateOpen l' g ph = (q, false) ∧ Framing (w.holding (l'.travelling ph)) q
        ∧ q.lockage = some (l'.travelling ph)
        ∧ q.gates = w.gates.set g ((w.gates.get g).commanded (w.travelLimit g)) :=
    openStep_opens lockage mode step (fun h => free' _ cls (by rw [← exit]; exact h)) (fun ⟨phase, dry⟩ => by
        rw [convoy, passable, deep phase] at dry
        cases dry) (by rw [gates]; exact notOpen) (by rw [gates]; exact notOpening) (compare.trans water)
      (interlock.trans closed)
  have finish (q w : Part) (gates : w.gates = s.part.gates) (settings : w.settings = s.part.settings)
      (e : q.gates = w.gates.set g ((w.gates.get g).commanded (w.travelLimit g))) :
      q.gates.get g = { s.part.gates.get g with
          state := .opening, drive := .openDrive, openPending := true, commander := .sequencer
          travelTimer := s.part.settings.works.map fun w => 1000 * w.travelLimit.get g } := by
    rw [e, Four.get_set_self, gates, Part.travelLimit, settings]
    rfl
  by_cases levelling : l.stage = .levelling
  · have restarts := restartStep_relevel (p := s.part.resumedAt l) (l := l) (x := x) (g := g) (by rw [work]) levelling
    generalize (s.part.resumedAt l).makeCurrent l.current = m at *
    obtain ⟨position, still⟩ := bottom levelling
    have record : m.sluices.get g = s.part.sluices.get g := (again.sluice g).trans (modeChanged_stands (.inl position) _)
    obtain ⟨w, relevels, lockage, mode, faults, sent, gates, settings, step, compare, interlock, passable⟩ :=
      restartRelevel_ends again.lockage again.mode (cur.trans (congrArg some work)) (by rw [record]; exact idle)
        ((again.compare g).trans water) (by rw [record]; exact position) (by rw [record]; exact still)
    obtain ⟨z, evaluated, framing, travels, commanded⟩ := opens w _ lockage mode step rfl rfl rfl
      ((passable _).trans (again.passable _)) (gates.trans again.signs.gates) (compare.trans (again.compare g))
      (interlock.trans (again.interlock g))
    rw [evaluated] at relevels
    obtain ⟨q, run, goes, held', gates', -, -⟩ := resume_goesOn (tag := tag) halted sound held
      ((curStep_of held).trans place) (.inl stopped) entered (restarts.trans relevels) again
      (framing.mode.trans (mode.trans again.mode.symm)) (framing.faults.trans faults) (framing.sent.trans sent)
    refine ⟨q, run, goes, held'.trans (travels.trans ?_), ?_⟩
    · rw [work]
      simp [Lockage.travelling, Lockage.drawing, takeStep_open, Lockage.again, levelling]
    · rw [gates']
      exact finish z w (gates.trans again.signs.gates) (settings.trans again.settings) commanded
  · have restarts := restartStep_open (p := s.part.resumedAt l) (l := l) (x := x) (g := g) (by rw [work]) levelling
    generalize (s.part.resumedAt l).makeCurrent l.current = m at *
    have step := cur.trans (congrArg some work)
    obtain ⟨z, evaluated, framing, travels, commanded⟩ := opens m _ again.lockage again.mode step rfl rfl rfl
      (again.passable _) again.signs.gates (again.compare g) (again.interlock g)
    have works : m.work = z := work_stays ((beginStep_open again.lockage step).trans evaluated)
    obtain ⟨q, run, goes, held', gates', -, -⟩ := resume_goesOn (tag := tag) halted sound held
      ((curStep_of held).trans place) (.inl stopped) entered (restarts.trans works) again framing.mode framing.faults
      framing.sent
    refine ⟨q, run, goes, held'.trans (travels.trans ?_), ?_⟩
    · rw [work]
      simp [Lockage.travelling, takeStep_open, Lockage.again, levelling]
    · rw [gates']
      exact finish z m again.signs.gates again.settings commanded

/-- An OPEN step whose convoy has no depth waits for it. -/
theorem resume_dry (work : x = ⟨.openGate g, ph⟩) (other : l.stage ≠ .levelling)
    (free : ph = .exit → l.cls = .c → l.exit = .given) (phase : ph = .entry ∨ ph = .exit ∨ ph = .returning)
    (dry : s.part.passable l.convoy = false) :
    ∃ q, exec (.resume tag) s = .next { s with part := q } ∧ q.mode = .working ∧ q.gates = s.part.gates
      ∧ q.lockage = some { l.again with stage := .tide, tideWait := true, tideReported := true }
      ∧ q.sent.a = s.part.sent.a ++ [.accepted tag (some s.part.link.conditions.any) (.resume .working),
          .event (.mode .working none), .event (.step l.number l.current x s.part.clock),
          .event (.tideWait l.number l.current g (s.part.headProven l.convoy) (s.part.tailProven l.convoy))] := by
  have again := resumedAt_restarted held place (.inl stopped)
  have restarts := restartStep_open (p := s.part.resumedAt l) (l := l) (x := x) (g := g) (by rw [work]) other
  generalize (s.part.resumedAt l).makeCurrent l.current = m at *
  have dry' : m.dry (l.takeStep l.current x) ph := ⟨phase, (again.passable _).trans dry⟩
  have waits : m.work = m.waitTide g := work_stays ((beginStep_open again.lockage
    ((again.curStep place).trans (congrArg some work))).trans
      (evaluateOpen_dry (fun ⟨exit, cls, no⟩ => no (free exit cls)) dry'))
  obtain ⟨head, tail⟩ := again.proven l.convoy
  have report : m.tideReport (l.takeStep l.current x) g
      = [.event (.tideWait l.number l.current g (s.part.headProven l.convoy) (s.part.tailProven l.convoy))] := by
    have told : m.tideReport (l.takeStep l.current x) g
        = [.event (.tideWait l.number l.current g (m.headProven l.convoy) (m.tailProven l.convoy))] := rfl
    rw [told, head, tail]
    rfl
  rw [waitTide_eq again.lockage, report] at waits
  have run := resume_restarts (tag := tag) halted sound held ((curStep_of held).trans place) (.inl stopped) entered
    (restarts.trans waits)
  have sent := again.sent
  have lockage : (l.takeStep l.current x).tideWaiting
      = { l.again with stage := .tide, tideWait := true, tideReported := true } := by
    rw [work]
    rfl
  rw [lockage] at run
  obtain ⟨t, settled, -⟩ := quiet_settled (y := { m.holding { l.again with
      stage := .tide, tideWait := true, tideReported := true } with sent := { m.sent with a := m.sent.a ++
    [.event (.tideWait l.number l.current g (s.part.headProven l.convoy) (s.part.tailProven l.convoy))] } })
    (working_quiet again.mode) false false
  rw [settled] at run
  refine ⟨_, run, again.mode, again.signs.gates, rfl, ?_⟩
  rw [replied_sent_a]
  have mode : m.mode = .working := again.mode
  change s.part.sent.a ++ Msg.accepted tag _ (.resume m.mode) :: (m.sent.a ++ _) = _
  rw [mode, sent]
  rfl

end

end Sys2Proof.Machine
end

section
/-! PROOFS. RESUME settled: withdrawals, moves and COMMIT (R100, R101, R106, R107, R109, R111, R124). -/

namespace Sys2Proof.Machine

variable {p q r m z : Part} {l : Lockage} {x : PlanStep} {g : Gate} {k : Sluice} {d : Direction} {ph : Phase} {s : State}
  {tag : Tag} {i : Nat}

theorem holding_same (held : p.lockage = some l) : p.holding l = p := by
  rw [Part.holding, ← held]

theorem beginCommit_waits (notGiven : l.exit ≠ .given) (notRefused : l.exit ≠ .refused) :
    p.beginCommit l = (p.onLockage fun x => { x with windowTimer := p.windowLimit }, false) := by
  unfold Part.beginCommit
  split
  · next given => exact absurd given notGiven
  · next refused => exact absurd refused notRefused
  · rfl

/-! ### A lockage withdrawn (R106, R111) -/

/-- The END event of a lockage that is withdrawn (R105). -/
def Lockage.withdrawal (l : Lockage) : Msg :=
  .event (.ending l.number .withdrawn l.headDraws l.tideWait l.late none (l.convoy.map (·.ticket)) true)

/-- RESUME withdraws: the flight at REST with its convoy back, the reply and the MODE event first. -/
def Part.Withdraws (p : Part) (tag : Tag) (l : Lockage) (q : Part) : Prop :=
  q.mode = .rest ∧ q.lockage = none ∧ q.queueOf l.direction = mergeConvoy l.convoy (p.queueOf l.direction)
    ∧ p.sent.a ++ [.accepted tag (some p.link.conditions.any) (.resume .rest), .event (.mode .working none)] <+: q.sent.a
    ∧ l.withdrawal ∈ q.sent.a

theorem replied_withdraws {y : Part} {l' : Lockage} {more : List Msg} {t : TurnSelector} (left : Withdrawn m l' z)
    (settled : y = { z with turn := t }) (queue : m.queueOf l.direction = p.queueOf l.direction)
    (told : m.sent.a = .event (.mode .working none) :: more) (direction : l'.direction = l.direction)
    (convoy : l'.convoy = l.convoy) (ending : l'.withdrawal = l.withdrawal) :
    p.Withdraws tag l (p.replied tag (.resume y.mode) y) := by
  obtain ⟨ms, ⟨before, told'⟩, sent⟩ := left.sent
  have mode : y.mode = .rest := by rw [settled]; exact left.mode
  have all : y.sent.a = ms ++ [l.withdrawal] := by rw [settled, ← ending]; exact sent
  refine ⟨mode, by rw [settled]; exact left.lockage, ?_, ?_, ?_⟩
  · have merged := left.queues l.direction
    rw [if_pos direction.symm, convoy, queue] at merged
    rw [settled]
    exact merged
  · rw [replied_sent_a, all, ← told', told, mode]
    exact ⟨more ++ before ++ [l.withdrawal], by simp⟩
  · rw [replied_sent_a, all]
    simp

/-- An entry refused before it passed (R111). -/
theorem resume_refused (halted : s.part.mode = .halted) (sound : ¬ s.part.stillFaulted = true)
    (held : s.part.lockage = some l) (step : s.part.curStep = some x) (calm : s.part.Calm) (refused : l.entry = .refused)
    (outside : l.entryPassed = false) (inhibit : s.part.navInhibit = true) :
    ∃ q, exec (.resume tag) s = .next { s with part := q } ∧ s.part.Withdraws tag l q := by
  have left := (leaveHalt_working (p := s.part.hushed) calm).2.2.2
  have framing : Framing s.part.hushed.resuming (s.part.hushed.leaveHalt .working) :=
    (enterMode_framing s.part.hushed.unhalted .working).event _
  have resumed := resumeFlight_lockage (p := s.part.hushed) held
  generalize s.part.hushed.leaveHalt .working = m at *
  have held' : m.lockage = some l := left.trans held
  have step' : m.curStep = some x := by rw [curStep_of held', ← curStep_of held]; exact step
  rw [resumeLockage_refused held' step' refused outside] at resumed
  have withdrawn := withdraw_withdrawn held'
  generalize m.withdraw = z at *
  obtain ⟨t, settled, -⟩ := inhibited_settled (y := z) (by rw [withdrawn.mode]; decide)
    (withdrawn.navInhibit.trans (framing.navInhibit.trans inhibit)) false false
  exact ⟨_, resume_run halted sound resumed, replied_withdraws withdrawn settled (framing.queueOf l.direction)
    (congrArg (fun v : Three (List Msg) => v.a) framing.sent) rfl rfl rfl⟩

section
variable (halted : s.part.mode = .halted) (sound : ¬ s.part.stillFaulted = true) (held : s.part.lockage = some l)
  (place : l.plan[l.current - 1]? = some x) (stopped : ∀ f, (faceOf s.part.faces f).requested ≠ .proceed)
  (entered : l.entry = .refused → l.entryPassed = true)
include halted sound held place stopped entered

/-! ### A MOVE step -/

/-- A move that was done ends. -/
theorem resume_moved {y : PlanStep} (work : x = ⟨.move g d, ph⟩) (done : l.moveDone = true)
    (next : l.plan[l.current]? = some y) :
    ∃ q, exec (.resume tag) s = .next { s with part := q }
      ∧ s.part.sent.a ++ [.accepted tag (some s.part.link.conditions.any) (.resume q.mode), .event (.mode .working none),
        .event (.step l.number l.current x s.part.clock), .event (.step l.number (l.current + 1) y s.part.clock)]
        <+: q.sent.a := by
  have again := resumedAt_restarted held place (.inl stopped)
  have restarts := restartStep_moved (p := s.part.resumedAt l) (l := l) (x := x) (g := g) (d := d) (by rw [work]) done
  generalize (s.part.resumedAt l).makeCurrent l.current = m at *
  have sends := endMove_sends (g := g) (d := d) again.lockage (again.curStep place) next
  rw [again.sent, again.framing.clock, ← restarts] at sends
  exact resume_sends (tag := tag) halted sound held ((curStep_of held).trans place) (.inl stopped) entered sends

/-- A move whose gate is not OPEN gives way to the step before it. -/
theorem resume_shut {y : PlanStep} (work : x = ⟨.move g d, ph⟩) (moving : l.moveDone = false)
    (shut : (s.part.gates.get g).state ≠ .open_) (before : l.plan[l.current - 2]? = some y) :
    ∃ q, exec (.resume tag) s = .next { s with part := q }
      ∧ s.part.sent.a ++ [.accepted tag (some s.part.link.conditions.any) (.resume q.mode), .event (.mode .working none),
        .event (.step l.number (l.current - 1) y s.part.clock)] <+: q.sent.a := by
  have signs := (resumed_readied (p := s.part.hushed) (.inl stopped) l).signs
  have shut' : ((s.part.resumedAt l).gates.get g).state ≠ .open_ := by
    rw [Part.resumedAt, signs.gates]
    exact shut
  have again := resumedAt_restarted (i := l.current - 1) held before (.inl stopped)
  have restarts := restartStep_shut (p := s.part.resumedAt l) (l := l) (x := x) (g := g) (d := d) (by rw [work]) moving shut'
  generalize (s.part.resumedAt l).makeCurrent (l.current - 1) = m at *
  have sends : m.sent.a <+: m.work.sent.a := (work_onward m).sent .a
  rw [again.sent, ← restarts] at sends
  exact resume_sends (tag := tag) halted sound held ((curStep_of held).trans place) (.inl stopped) entered sends

/-- An entry move that still waits for its clearance. -/
theorem resume_awaits (work : x = ⟨.move g d, .entry⟩) (moving : l.moveDone = false)
    (isOpen : (s.part.gates.get g).state = .open_) (awaited : l.entry = .awaited) :
    ∃ q, exec (.resume tag) s = .next { s with part := q } ∧ if s.part.link.lost then s.part.Withdraws tag l q
      else s.part.GoesOn tag l x q ∧ q.lockage = some { l.again with stage := .awaiting } := by
  have signs := (resumed_readied (p := s.part.hushed) (.inl stopped) l).signs
  have isOpen' : ((s.part.resumedAt l).gates.get g).state = .open_ := by
    rw [Part.resumedAt, signs.gates]
    exact isOpen
  have again := resumedAt_restarted held place (.inl stopped)
  have restarts := restartStep_move (p := s.part.resumedAt l) (l := l) (x := x) (g := g) (d := d) (by rw [work]) moving isOpen'
  generalize (s.part.resumedAt l).makeCurrent l.current = m at *
  have waiting : l.takeStep l.current x = { l.again with stage := .awaiting } := by
    rw [work, takeStep_move, if_pos ⟨rfl, awaited⟩]
  have link : m.link = s.part.link := again.framing.link
  have works : m.work = if s.part.link.lost then m.withdraw else m := work_stays (by
    rw [beginStep_move again.lockage ((again.curStep place).trans (congrArg some work)), Part.beginMove, waiting, if_pos rfl,
      link])
  rw [works] at restarts
  cases lost : s.part.link.lost with
  | false =>
    rw [lost] at restarts
    obtain ⟨q, run, goes, lockage, -, -, -⟩ := resume_goesOn (tag := tag) halted sound held
      ((curStep_of held).trans place) (.inl stopped) entered restarts again rfl rfl rfl
    exact ⟨q, run, goes, by rw [lockage, ← waiting]; exact again.lockage⟩
  | true =>
    rw [lost] at restarts
    have run := resume_restarts (tag := tag) halted sound held ((curStep_of held).trans place) (.inl stopped) entered restarts
    have withdrawn := withdraw_withdrawn again.lockage
    have settled := (lost_settled (y := m.withdraw) (by rw [withdrawn.link, link]; exact lost) false false).1
    rw [surveyTest_other _ (by rw [withdrawn.mode]; decide)] at settled
    refine ⟨_, run, ?_⟩
    exact replied_withdraws withdrawn (settled.trans rfl) (again.framing.queueOf l.direction) again.sent rfl rfl rfl

/-- Any other move shows PROCEED with a fresh timer. -/
theorem resume_moves (work : x = ⟨.move g d, ph⟩) (moving : l.moveDone = false)
    (isOpen : (s.part.gates.get g).state = .open_) (cleared : ph = .entry → l.entry ≠ .awaited)
    (lit : s.part.hasFailedLamp (faceServing g d) = false) (decided : (faceOf s.part.faces (faceServing g d)).awaited = false) :
    ∃ q, exec (.resume tag) s = .next { s with part := q } ∧ s.part.GoesOn tag l x q
      ∧ (faceOf q.faces (faceServing g d)).shown = .proceed
      ∧ q.lockage = some { l.again with
          stage := .underWay, moveTimer := s.part.settings.works.map fun w => 1000 * w.moveLimit
          entryPassed := if ph = .entry then true else l.entryPassed } := by
  have signs := (resumed_readied (p := s.part.hushed) (.inl stopped) l).signs
  have isOpen' : ((s.part.resumedAt l).gates.get g).state = .open_ := by
    rw [Part.resumedAt, signs.gates]
    exact isOpen
  have again := resumedAt_restarted held place (.inl stopped)
  have restarts := restartStep_move (p := s.part.resumedAt l) (l := l) (x := x) (g := g) (d := d) (by rw [work]) moving isOpen'
  generalize (s.part.resumedAt l).makeCurrent l.current = m at *
  have step := (again.curStep place).trans (congrArg some work)
  have off : l.takeStep l.current x = { l.again with stage := .underWay } := by
    rw [work, takeStep_move, if_neg fun ⟨entry, awaited⟩ => cleared entry awaited]
  have works : m.work = m.moveUnderWay g d := work_stays (by
    rw [beginStep_move again.lockage step, Part.beginMove, off]
    rfl)
  obtain ⟨framing, lockage, shown⟩ := moveUnderWay_shows again.lockage again.mode step (by rw [again.signs.gates]; exact isOpen)
    ((again.hasFailedLamp _).trans lit) ((again.signs.awaited _).trans decided)
  obtain ⟨q, run, goes, lockage', -, -, faces⟩ := resume_goesOn (tag := tag) halted sound held
    ((curStep_of held).trans place) (.inl stopped) entered (restarts.trans works) again framing.mode framing.faults framing.sent
  refine ⟨q, run, goes, by rw [faces]; exact shown, lockage'.trans (lockage.trans ?_)⟩
  rw [off, Part.moveLimit, again.settings]
  rfl

/-! ### A COMMIT step -/

theorem resume_commit {y : PlanStep} {l' : Lockage} (work : x = ⟨.commit, ph⟩)
    (ends : ∀ m, Restarted s.part.hushed l l.current x m → m.beginCommit (l.takeStep l.current x) = (m.holding l', true))
    (number : l'.number = l.number) (current : l'.current = l.current) (stood : ∃ z, l'.plan[l'.current - 1]? = some z)
    (next : l'.plan[l.current]? = some y) :
    ∃ q, exec (.resume tag) s = .next { s with part := q }
      ∧ s.part.sent.a ++ [.accepted tag (some s.part.link.conditions.any) (.resume q.mode), .event (.mode .working none),
        .event (.step l.number l.current x s.part.clock), .event (.step l.number (l.current + 1) y s.part.clock)]
        <+: q.sent.a := by
  have again := resumedAt_restarted held place (.inl stopped)
  have restarts := restartStep_plain (p := s.part.resumedAt l) (l := l) (x := x) (.inr (.inr (by rw [work])))
  generalize (s.part.resumedAt l).makeCurrent l.current = m at *
  have works := work_ends ((beginStep_commit again.lockage ((again.curStep place).trans (congrArg some work))).trans
    (ends m again))
  obtain ⟨z, stood⟩ := stood
  have sends := advance_sends (p := m.holding l') rfl ((curStep_of (l := l') rfl).trans stood) (by rw [current]; exact next)
  have sent : (m.holding l').sent.a = m.sent.a := rfl
  have clock : (m.holding l').clock = s.part.clock := again.framing.clock
  rw [sent, clock, again.sent, number, current, ← works, ← restarts] at sends
  exact resume_sends (tag := tag) halted sound held ((curStep_of held).trans place) (.inl stopped) entered sends

/-- A clearance given while HALTED ends it. -/
theorem resume_committed {y : PlanStep} (work : x = ⟨.commit, ph⟩) (given : l.exit = .given)
    (next : l.plan[l.current]? = some y) :
    ∃ q, exec (.resume tag) s = .next { s with part := q }
      ∧ s.part.sent.a ++ [.accepted tag (some s.part.link.conditions.any) (.resume q.mode), .event (.mode .working none),
        .event (.step l.number l.current x s.part.clock), .event (.step l.number (l.current + 1) y s.part.clock)]
        <+: q.sent.a := by
  refine resume_commit (l' := l.takeStep l.current x) halted sound held place stopped entered work (fun m again => ?_) rfl rfl
    ⟨x, place⟩ next
  have exit : (l.takeStep l.current x).exit = .given := given
  rw [Part.beginCommit, exit, holding_same again.lockage]

/-- A refusal stored while HALTED turns the convoy back. -/
theorem resume_turnsBack (work : x = ⟨.commit, ph⟩) (refused : l.exit = .refused) :
    ∃ q, exec (.resume tag) s = .next { s with part := q }
      ∧ s.part.sent.a ++ [.accepted tag (some s.part.link.conditions.any) (.resume q.mode), .event (.mode .working none),
        .event (.step l.number l.current x s.part.clock),
        .event (.step l.number (l.current + 1) ⟨.openGate l.direction.entryGate, .returning⟩ s.part.clock)]
        <+: q.sent.a := by
  have bound : l.current ≤ l.plan.length := by
    obtain ⟨inside, -⟩ := List.getElem?_eq_some_iff.1 place
    omega
  have next := turnedBack_next (l.takeStep l.current x) bound
  refine resume_commit (l' := (l.takeStep l.current x).turnedBack) halted sound held place stopped entered work
    (fun m again => ?_) rfl rfl ?_ next
  · have exit : (l.takeStep l.current x).exit = .refused := refused
    rw [Part.beginCommit, exit, onLockage_holding again.lockage]
  · obtain ⟨inside, -⟩ := List.getElem?_eq_some_iff.1 next
    exact ⟨_, List.getElem?_eq_getElem (Nat.lt_of_le_of_lt (Nat.sub_le _ 1) inside)⟩

/-- Undecided, it starts its window afresh. -/
theorem resume_waits (work : x = ⟨.commit, ph⟩) (notGiven : l.exit ≠ .given) (notRefused : l.exit ≠ .refused) :
    ∃ q, exec (.resume tag) s = .next { s with part := q } ∧ s.part.GoesOn tag l x q
      ∧ q.lockage = some { l.again with
          stage := .waiting
          windowTimer := s.part.settings.works.bind fun w => if w.window = 0 then none else some (1000 * w.window) } := by
  have again := resumedAt_restarted held place (.inl stopped)
  have restarts := restartStep_plain (p := s.part.resumedAt l) (l := l) (x := x) (.inr (.inr (by rw [work])))
  generalize (s.part.resumedAt l).makeCurrent l.current = m at *
  have works : m.work = m.holding { l.takeStep l.current x with windowTimer := m.windowLimit } := work_stays (by
    rw [beginStep_commit again.lockage ((again.curStep place).trans (congrArg some work)), ← onLockage_holding again.lockage
      fun l => { l with windowTimer := m.windowLimit }]
    exact beginCommit_waits notGiven notRefused)
  obtain ⟨q, run, goes, lockage, -, -, -⟩ := resume_goesOn (tag := tag) halted sound held
    ((curStep_of held).trans place) (.inl stopped) entered (restarts.trans works) again rfl rfl rfl
  refine ⟨q, run, goes, lockage.trans ?_⟩
  rw [Part.windowLimit, again.settings, work]
  rfl

end

end Sys2Proof.Machine
end

section
/-! PROOFS. RESUME settled: the whole of R123's refusals and R124's table. -/

namespace Sys2Proof.Machine

/-- Settles O42: by the halted step, each restart of R124's table. -/
theorem resumeTakesUpTheWork : Obligations.ResumeTakesUpTheWork := by
  unfold Obligations.ResumeTakesUpTheWork
  intro tag s refused accepted broken faulted
  have sound (notFaulted : ¬ faulted) : ¬ s.part.stillFaulted = true := fun h => notFaulted (stillFaulted_iff.1 h)
  refine ⟨fun other => exec_eq rfl (if_pos other), fun halted faults => exec_eq rfl ((if_neg (Classical.not_not.mpr halted)).trans
      (if_pos (stillFaulted_iff.2 faults))), fun halted notFaulted idle open_ => ?_,
    fun l g ph halted notFaulted held place shut entered => ?_, fun l x halted notFaulted held step all => ?_⟩
  · exact resume_survey halted (sound notFaulted) idle open_
  · obtain ⟨q, run, ⟨mode, faults, sent⟩, rest⟩ := resume_close (tag := tag) halted (sound notFaulted) held place shut entered
    obtain ⟨lockage, gate, commander, ready⟩ := rest
    exact ⟨q, run, mode, faults, lockage, sent, gate, commander, ready⟩
  intro current mode again works withdrawn goesOn
  have sound := sound notFaulted
  have place : l.plan[l.current - 1]? = some x := (curStep_of held).symm.trans step
  have stopped (f : Face) : (faceOf s.part.faces f).requested ≠ .proceed := by rw [all f]; exact nofun
  refine ⟨fun refused outside inhibit => resume_refused halted sound held step (.inl stopped) refused outside inhibit,
    fun entered => ?_⟩
  obtain ⟨work, ph⟩ := x
  refine ⟨fun k t work runs phase own closing position => ?_, fun k work free water => ?_,
    fun g t work levelling runs phase own position => ?_, fun g work levelling free water => ?_,
    fun g work levelling free water position => ?_, fun g work idle bottom free deep water closed stands => ?_,
    fun g work other free phase dry => ?_, fun g d y work done next => ?_, fun g d y work moving shut _ before => ?_,
    fun g d work moving isOpen => ⟨fun entry awaited => ?_, fun cleared lit decided => ?_⟩,
    fun y work given next => ?_, fun work refused => ?_, fun work notGiven notRefused => ?_⟩
    <;> obtain rfl := work
  · obtain ⟨q, run, goes, sluice, lockage⟩ := resume_transfer (tag := tag) (k := k) halted sound held place stopped entered rfl
      (P := fun y => y = { s.part.sluices.get k with
        transfer := some { t with timer := s.part.settings.works.map fun w => 1000 * w.transferLimit.get k } })
      fun m again => by
        have stands : m.sluices.get k = s.part.sluices.get k := (again.sluice k).trans (modeChanged_stands (.inr closing) _)
        have begun := again_takeover again (l.takeStep l.current ⟨.transfer k, ph⟩) runs own position
        rw [holding_same again.lockage, stands] at begun
        exact ⟨_, begun, rfl⟩
    exact ⟨q, run, goes, sluice, lockage.trans (congrArg some takeStep_transfer)⟩
  · obtain ⟨q, run, goes, ⟨trim, transfer, flight⟩, -⟩ := resume_transfer (tag := tag) (k := k) halted sound held place stopped
      entered rfl fun m again => by
        have begun := again_flows again (l.takeStep l.current ⟨.transfer k, ph⟩) free water
        rw [holding_same again.lockage] at begun
        exact begun
    exact ⟨q, run, goes, trim, transfer, flight⟩
  · obtain ⟨q, run, goes, lockage, transfer⟩ := resume_relevel (tag := tag) (g := g) halted sound held place stopped entered rfl
      levelling (P := fun y => y.transfer
        = some { t with timer := s.part.settings.works.map fun w => 1000 * w.transferLimit.get g })
      fun m again l' => ⟨_, again_takeover again l' runs own position, rfl⟩
    exact ⟨q, run, goes, lockage, transfer⟩
  · obtain ⟨q, run, goes, lockage, trim, transfer, flight⟩ := resume_relevel (tag := tag) (g := g) halted sound held place
      stopped entered rfl levelling fun m again l' => again_flows again l' free water
    exact ⟨q, run, goes, lockage, trim, transfer, flight⟩
  · obtain ⟨q, run, goes, lockage, trim, state, transfer⟩ := resume_relevel (tag := tag) (g := g) halted sound held place
      stopped entered rfl levelling (P := fun y => y.trim = 0 ∧ y.state = .closing ∧ y.transfer = some
        ⟨.closing, s.part.settings.works.map fun w => 1000 * w.transferLimit.get g, l.number⟩)
      fun m again l' => again_level again l' free water position
    exact ⟨q, run, goes, lockage, trim, state, transfer⟩
  · exact resume_opens halted sound held place stopped entered rfl idle bottom free deep water closed stands
  · exact resume_dry halted sound held place stopped entered rfl other free phase dry
  · exact resume_moved halted sound held place stopped entered rfl done next
  · exact resume_shut halted sound held place stopped entered rfl moving shut before
  · obtain rfl := entry
    exact resume_awaits halted sound held place stopped entered rfl moving isOpen awaited
  · exact resume_moves halted sound held place stopped entered rfl moving isOpen cleared lit decided
  · exact resume_committed halted sound held place stopped entered rfl given next
  · exact resume_turnsBack halted sound held place stopped entered rfl refused
  · exact resume_waits halted sound held place stopped entered rfl notGiven notRefused

end Sys2Proof.Machine
end
